-- ==== Sys2Proof/Word.lean ====
section
/-! DEFINITION. The widths of Lanipin words and the plainest arithmetic on them. -/

namespace Sys2Proof

/-- A register word. -/
abbrev Word := BitVec 32

/-- A 64-bit value: a pair, a history entry, a scalar or an address. -/
abbrev DWord := BitVec 64

/-- A byte of memory. -/
abbrev Byte := BitVec 8

/-- 2 to the power `n`. -/
def pow2 (n : Nat) : Nat := 1 <<< n

end Sys2Proof
end

