-- ==== Sys2Proof/Config.lean ====
section
/-! DEFINITION. What the specification leaves open, as constants without a body, and the sizes it fixes for the
Imgoka 280. -/

namespace Sys2Proof

/-- The value of an open point: `Config.free w tick k` is the `k`-th open value of width `w` taken in step `tick`.
Nothing constrains it (see the assumption log, entry 1). -/
opaque Config.free (w tick k : Nat) : BitVec w

/-- Which of `n` possible next moves the device makes in step `tick`, where the specification orders none of them
(log entry 2). -/
opaque Config.pick (tick n : Nat) : Nat

/-- How many cycles beyond the first pass in step `tick` (log entry 3). -/
opaque Config.lapse (tick : Nat) : Nat

/-- How many nanoseconds pass in step `tick` (log entry 3). -/
opaque Config.elapsed (tick : Nat) : Nat

/-- How many cycles after step `tick` the threads it moved may issue again (log entry 3). -/
opaque Config.latency (tick : Nat) : Nat

/-- The VSFU result chosen among those R149 allows, a fixed function of operation, format and input bits (log entry 4). -/
opaque Config.vsfu (op fmt : Nat) (bits : DWord) : Nat

/-- SHA-512 of the signing key that the ROM trusts (R422); the specification does not give it (log entry 16). -/
opaque Config.rootKey : List Byte

/-- ROMV, the ROM version (R427); the specification does not give it (log entry 16). -/
opaque Config.romVersion : Word

/-- The identity key that a device's PUF gives with helper data, or `none` where derivation fails (R424 step 4). The
response cannot be read, so nothing but the helper data is known to fix it (log entry 16). -/
opaque Config.identity (helper : List Byte) : Option Nat

/-- How HKDF output is mapped to a P-521 private key (R424, R426); the specification does not say (log entry 16). -/
opaque Config.privateKey (okm : List Byte) : Nat

/-- Which of `sets` sets of an L1 data cache a line falls in; the specification does not say (log entry 33). -/
opaque Config.l1Set (sets line : Nat) : Nat

/-- `Hash_r` of a page in the sketch of a memory controller, which R374 calls device-defined (log entry 94). -/
opaque Config.hotHash (row page : Nat) : Nat

/-- The hash that chooses the home L2 slice of a line among its die's 48: R199 says that it is fixed, not which it is
(log entry 101). -/
opaque Config.homeHash (line : Nat) : Nat

/-- How many cycles a move that may happen can be passed over for others; the specification bounds such waits and does not
say by how much (log entry 102). -/
opaque Config.patience : Nat

/-- Threads that may be resident on one core (R22). -/
def Config.maxThreads : Nat := 2048

/-- Enabled cores (R14). -/
def Config.cores : Nat := 280

/-- Core sites (R13). -/
def Config.sites : Nat := 288

/-- `c.wmax` on the Imgoka 280 (R22, R109). -/
def Config.wmax : Nat := 64

end Sys2Proof
end

