-- ==== Sys2Proof/Syntax.lean ====
section
/-! DEFINITION. The instructions of the Lanipin instruction set and the device's own steps, one constructor for each
row of the opcode table. -/

namespace Sys2Proof

/-- A six-bit operand selector, as R64 and R65 number them. -/
abbrev Sel := BitVec 6

/-- An eight-bit immediate field (R54). -/
abbrev Imm8 := BitVec 8

/-- A literal: two words, low word first (R49). -/
abbrev Imm := BitVec 64

/-- A scope number, 0 (`.thd`) to 9 (`.sys`); 10 to 15 are not scopes (R56). -/
abbrev Scope := BitVec 4

/-- The fields of a prefix word (R60). -/
structure Pfx where
  msk : BitVec 3
  inv : Bool
  z   : Bool
  rm  : BitVec 3
  c   : Sel
  sat : BitVec 2
  deriving DecidableEq, Repr

/-- Type field of VFP, VSFU and the float compares (R70, R73). -/
inductive FTy where
  | f32 | f64 | f16x2 | bf16x2
  deriving DecidableEq, Repr

/-- Type field of the integer compares (R73). -/
inductive ITy where
  | i32 | n32 | i64 | n64
  deriving DecidableEq, Repr

/-- Condition field of VCMP (R73). -/
inductive Cond where
  | eq | ne | lt | le | gt | ge | un
  deriving DecidableEq, Repr

/-- Operation field of `red` and `scan` (R74). -/
inductive RedOp where
  | addI32 | addI64 | minI32 | minN32 | maxI32 | maxN32 | andB32 | orB32 | xorB32
  | faddF32 | faddF64 | fminF32 | fmaxF32 | fminF64 | fmaxF64
  deriving DecidableEq, Repr

/-- Type codes of `fcvt` (R71). -/
inductive CvtTy where
  | f64 | f32 | f16 | bf16 | e4m3 | e5m2 | e2m1 | e8m0 | i32 | n32 | i64 | n64 | i16 | n16 | i8 | n8
  deriving DecidableEq, Repr

/-- Types of `fround` (R71, R151). -/
inductive FmtTy where
  | f64 | f32 | f16 | bf16
  deriving DecidableEq, Repr

/-- Element types of `fpack` and `funpk` (R71, R153). -/
inductive MxElem where
  | e4m3 | e5m2 | e2m1
  deriving DecidableEq, Repr

/-- Access sizes of the M format (R56, R211). -/
inductive MemSize where
  | b | h | w | d | q | bi | hi
  deriving DecidableEq, Repr

/-- Orderings of the M format (R56, R212). -/
inductive MemOrd where
  | plain | acq | rel | csm | acqrel | rlx | nt
  deriving DecidableEq, Repr

/-- Atomic unit of an access (R56, R213). -/
inductive MemAt where
  | dflt | a8 | a16
  deriving DecidableEq, Repr

/-- Orderings of the atomic format (R57). -/
inductive AtomOrd where
  | rlx | acq | rel | acqrel
  deriving DecidableEq, Repr

/-- Operations of a memory reduction (R80, R225). -/
inductive MrOp where
  | add | sub | minI | maxI | minN | maxN | and | or | xor | addF
  deriving DecidableEq, Repr

/-- Sizes of the borrowed accesses (R82). -/
inductive BSize where
  | b | h | w | d | q
  deriving DecidableEq, Repr

/-- Queues that `push` accepts (R106). -/
inductive CmdQ where
  | qm | qc | qn
  deriving DecidableEq, Repr

/-- Queues that `pop` accepts (R106). -/
inductive RecQ where
  | qe | qf
  deriving DecidableEq, Repr

/-- The three writing forms of the CSR format (R77). -/
inductive CsrFn where
  | write | set | clear
  deriving DecidableEq, Repr

/-- A packet of the transport (R289, R339, R340). `op` is the operation of R288; 8 is an acknowledgement and 9 the data of a
`get`; `mode` is the delivery mode. `seq` is the packet's number at its sender, which an acknowledgement repeats; `id` is the
command that the packet belongs to, at the device that posted it, `flow` the port that posted it, and `rod` the packet's place
in its ROD flow. `peer` is the rank of the device at the other end. `off` says where the data begin in their message, and
`len` is the message's length. `kcls` and `lvl` are the class and the level of the group that posted the command. -/
structure NetPacket where
  world  : Nat
  epoch  : Nat
  tagOk  : Bool
  port   : Nat
  op     : Nat
  mode   : Nat
  seq    : Nat
  id     : Nat
  flow   : Nat
  rod    : Nat
  peer   : Nat
  remote : BitVec 64
  off    : Nat
  len    : Nat
  tag    : BitVec 32
  rcomp  : BitVec 64
  rop    : Nat
  kcls   : Nat
  lvl    : Nat
  status : Nat
  data   : List (BitVec 8)
  deriving DecidableEq, Repr

/-- A packet of another kind as a port receives it (R343). -/
structure RawPacket where
  port  : Nat
  good  : Bool
  ipv6  : Bool
  tcp   : Bool
  sip   : BitVec 128
  dip   : BitVec 128
  sport : BitVec 16
  dport : BitVec 16
  data  : List (BitVec 8)
  deriving DecidableEq, Repr

/-- Where a soft error strikes (R103, R104, R196, R202, R206): a byte of storage by its key; a named register, or one half
of a history entry, of a thread; the base of a block of sixteen lanes of either; a half of a scalar or of a mask of a group;
word `w` of a rcv frame in hardware; a half of a control register of a group, by its CSR code; the word with a key in a
line of a core's L1 or instruction cache; a line, by a key in it, held in the DRAM cache layer or L2, clean or `dirty`. -/
inductive ErrPlace where
  | byte (key : Nat)
  | reg (core slot lane n : Nat)
  | hist (core slot lane n : Nat) (hi : Bool)
  | base (core slot block n : Nat)
  | hbase (core slot block n : Nat) (hi : Bool)
  | scal (core slot n : Nat) (hi : Bool)
  | mask (core slot n : Nat) (hi : Bool)
  | frame (core slot i w : Nat)
  | ctl (core slot n : Nat) (hi : Bool)
  | l1 (core key : Nat)
  | ic (core key : Nat)
  | layer (key : Nat) (dirty : Bool)
  deriving DecidableEq, Repr

/-- What the check storage makes of a soft error (R103, R206). -/
inductive ErrGrade where
  | corrected | detected | missed
  deriving DecidableEq, Repr

/-- One constructor for each row of the opcode table. Rows with an encoding carry the fields of their words: `p` is the
optional prefix, `lit` the optional literal. Rows without one are steps of the device itself; their arguments say which
of the pending things moves. -/
inductive Instr where
  /-- ADD (R125): Vector integer add of two operands, 32-bit or 64-bit pair by F bit 5, with optional saturation. -/
  | add (d a b : Sel) (w : Bool) (p : Option Pfx)
  /-- SUB (R125): Vector integer subtract. -/
  | sub (d a b : Sel) (w : Bool) (p : Option Pfx)
  /-- MUL (R125): Vector integer multiply, low half. -/
  | mul (d a b : Sel) (w : Bool) (p : Option Pfx)
  /-- MULHI (R125): Signed multiply, high half. -/
  | mulhi (d a b : Sel) (w : Bool) (p : Option Pfx)
  /-- MULHN (R125): Unsigned multiply, high half. -/
  | mulhn (d a b : Sel) (w : Bool) (p : Option Pfx)
  /-- DIV_I (R125): Signed division truncating toward zero with the fixed division-by-zero results. -/
  | divI (d a b : Sel) (w : Bool) (p : Option Pfx)
  /-- DIV_N (R125): Unsigned division. -/
  | divN (d a b : Sel) (w : Bool) (p : Option Pfx)
  /-- REM_I (R125): Signed remainder. -/
  | remI (d a b : Sel) (w : Bool) (p : Option Pfx)
  /-- REM_N (R125): Unsigned remainder. -/
  | remN (d a b : Sel) (w : Bool) (p : Option Pfx)
  /-- MIN_I (R125): Signed minimum. -/
  | minI (d a b : Sel) (w : Bool) (p : Option Pfx)
  /-- MIN_N (R125): Unsigned minimum. -/
  | minN (d a b : Sel) (w : Bool) (p : Option Pfx)
  /-- MAX_I (R125): Signed maximum. -/
  | maxI (d a b : Sel) (w : Bool) (p : Option Pfx)
  /-- MAX_N (R125): Unsigned maximum. -/
  | maxN (d a b : Sel) (w : Bool) (p : Option Pfx)
  /-- AND (R125): Bitwise AND. -/
  | and (d a b : Sel) (w : Bool) (p : Option Pfx)
  /-- OR (R125): Bitwise OR. -/
  | or (d a b : Sel) (w : Bool) (p : Option Pfx)
  /-- XOR (R125): Bitwise XOR. -/
  | xor (d a b : Sel) (w : Bool) (p : Option Pfx)
  /-- ANDN (R125): a AND NOT b. -/
  | andn (d a b : Sel) (w : Bool) (p : Option Pfx)
  /-- ORN (R125): a OR NOT b. -/
  | orn (d a b : Sel) (w : Bool) (p : Option Pfx)
  /-- SHL (R123): Shift left by the amount in bits 7..0 of B. -/
  | shl (d a b : Sel) (w : Bool) (p : Option Pfx)
  /-- SHR (R123): Logical shift right. -/
  | shr (d a b : Sel) (w : Bool) (p : Option Pfx)
  /-- SRA (R123): Arithmetic shift right. -/
  | sra (d a b : Sel) (w : Bool) (p : Option Pfx)
  /-- ROL (R123): Rotate left by s mod w. -/
  | rol (d a b : Sel) (w : Bool) (p : Option Pfx)
  /-- ADDC (R127): Add with carry-in from bit 32 of h0, producing a carry pair. -/
  | addc (d a b : Sel) (w : Bool) (p : Option Pfx)
  /-- SUBC (R127): Subtract with borrow-in from bit 32 of h0. -/
  | subc (d a b : Sel) (w : Bool) (p : Option Pfx)
  /-- MAD (R126): Multiply-add a*b+c with the fourth operand. -/
  | mad (d a b : Sel) (w : Bool) (p : Option Pfx)
  /-- BFX_I (R126): Signed bit-field extract. -/
  | bfxI (d a b : Sel) (p : Option Pfx)
  /-- BFX_N (R126): Unsigned bit-field extract. -/
  | bfxN (d a b : Sel) (p : Option Pfx)
  /-- BFI (R126): Bit-field insert into the fourth operand. -/
  | bfi (d a b : Sel) (p : Option Pfx)
  /-- SEL (R126): Select a or b by the 32-bit fourth operand. -/
  | sel (d a b : Sel) (p : Option Pfx)
  /-- SEL_B64 (R126): Select between pairs by a 32-bit condition. -/
  | selB64 (d a b : Sel) (p : Option Pfx)
  /-- BSEL (R126): Byte select with fill and reversal per control byte. -/
  | bsel (d a b : Sel) (p : Option Pfx)
  /-- ABS (R129): Absolute value. -/
  | abs (d a : Sel) (w : Bool) (p : Option Pfx)
  /-- NEG (R129): Negation. -/
  | neg (d a : Sel) (w : Bool) (p : Option Pfx)
  /-- CLZ (R129): Count leading zeros. -/
  | clz (d a : Sel) (w : Bool) (p : Option Pfx)
  /-- CTZ (R129): Count trailing zeros. -/
  | ctz (d a : Sel) (w : Bool) (p : Option Pfx)
  /-- POPC (R129): Population count. -/
  | popc (d a : Sel) (w : Bool) (p : Option Pfx)
  /-- BREV (R129): Bit reversal. -/
  | brev (d a : Sel) (w : Bool) (p : Option Pfx)
  /-- MOV (R129): Move any vector-class source, keeping taint and poison. -/
  | mov (d a : Sel) (w : Bool) (p : Option Pfx)
  /-- EXT_I (R129): Sign-extend 32 to 64 bits into a pair. -/
  | extI (d a : Sel) (p : Option Pfx)
  /-- EXT_N (R129): Zero-extend 32 to 64 bits into a pair. -/
  | extN (d a : Sel) (p : Option Pfx)
  /-- LEA (R131): Address arithmetic: pair plus sign-extended 32-bit B. -/
  | lea (d a b : Sel) (p : Option Pfx)
  /-- DOT4_II (R128): Signed byte dot product accumulated into 32 bits. -/
  | dot4Ii (d a b : Sel) (p : Option Pfx)
  /-- DOT4_NN (R128): Unsigned byte dot product. -/
  | dot4Nn (d a b : Sel) (p : Option Pfx)
  /-- DOT4_IN (R128): Signed by unsigned byte dot product. -/
  | dot4In (d a b : Sel) (p : Option Pfx)
  /-- DOT8_II (R128): Signed nibble dot product. -/
  | dot8Ii (d a b : Sel) (p : Option Pfx)
  /-- DOT8_NN (R128): Unsigned nibble dot product. -/
  | dot8Nn (d a b : Sel) (p : Option Pfx)
  /-- DOT8_IN (R128): Signed by unsigned nibble dot product. -/
  | dot8In (d a b : Sel) (p : Option Pfx)
  /-- ADD_IMM (R130): 32-bit add of an immediate. -/
  | addImm (d a : Sel) (i : Imm8) (lit : Option Imm) (p : Option Pfx)
  /-- ADD64_IMM (R130): 64-bit pair add of an immediate. -/
  | add64Imm (d a : Sel) (i : Imm8) (lit : Option Imm) (p : Option Pfx)
  /-- MUL_IMM (R130): Multiply by an immediate. -/
  | mulImm (d a : Sel) (i : Imm8) (lit : Option Imm) (p : Option Pfx)
  /-- AND_IMM (R130): AND with an immediate. -/
  | andImm (d a : Sel) (i : Imm8) (lit : Option Imm) (p : Option Pfx)
  /-- OR_IMM (R130): OR with an immediate. -/
  | orImm (d a : Sel) (i : Imm8) (lit : Option Imm) (p : Option Pfx)
  /-- XOR_IMM (R130): XOR with an immediate. -/
  | xorImm (d a : Sel) (i : Imm8) (lit : Option Imm) (p : Option Pfx)
  /-- SHL_IMM (R130): Shift left by an unsigned immediate. -/
  | shlImm (d a : Sel) (i : Imm8) (lit : Option Imm) (p : Option Pfx)
  /-- SHR_IMM (R130): Logical shift right by an immediate. -/
  | shrImm (d a : Sel) (i : Imm8) (lit : Option Imm) (p : Option Pfx)
  /-- SRA_IMM (R130): Arithmetic shift right by an immediate. -/
  | sraImm (d a : Sel) (i : Imm8) (lit : Option Imm) (p : Option Pfx)
  /-- MIN_I_IMM (R130): Signed minimum with an immediate. -/
  | minIImm (d a : Sel) (i : Imm8) (lit : Option Imm) (p : Option Pfx)
  /-- MAX_I_IMM (R130): Signed maximum with an immediate. -/
  | maxIImm (d a : Sel) (i : Imm8) (lit : Option Imm) (p : Option Pfx)
  /-- MOVI_B32 (R130): Load a 32-bit immediate. -/
  | moviB32 (d : Sel) (i : Imm8) (p : Option Pfx)
  /-- MOVI_B64 (R130): Load a 64-bit immediate into a pair. -/
  | moviB64 (d : Sel) (i : Imm8) (p : Option Pfx)
  /-- LEA_IMM (R131): Address arithmetic: pair plus immediate. -/
  | leaImm (d a : Sel) (i : Imm8) (lit : Option Imm) (p : Option Pfx)
  /-- LIT_B32 (R130): movi.b32 with a forced literal. -/
  | litB32 (d : Sel) (k : Imm) (p : Option Pfx)
  /-- LIT_B64 (R130): movi.b64 with a forced literal. -/
  | litB64 (d : Sel) (k : Imm) (p : Option Pfx)
  /-- FADD (R142): Floating add, rounded once in the resolved mode. -/
  | fadd (d a b : Sel) (t : FTy) (p : Option Pfx)
  /-- FSUB (R142): Floating subtract. -/
  | fsub (d a b : Sel) (t : FTy) (p : Option Pfx)
  /-- FMUL (R142): Floating multiply. -/
  | fmul (d a b : Sel) (t : FTy) (p : Option Pfx)
  /-- FMA (R142): Fused multiply-add a*b+c. -/
  | fma (d a b : Sel) (t : FTy) (p : Option Pfx)
  /-- FNMA (R142): Fused c-a*b. -/
  | fnma (d a b : Sel) (t : FTy) (p : Option Pfx)
  /-- FMIN (R143): minimumNumber of two operands. -/
  | fmin (d a b : Sel) (t : FTy) (p : Option Pfx)
  /-- FMAX (R143): maximumNumber of two operands. -/
  | fmax (d a b : Sel) (t : FTy) (p : Option Pfx)
  /-- FMINM (R143): IEEE minimum propagating NaN. -/
  | fminm (d a b : Sel) (t : FTy) (p : Option Pfx)
  /-- FMAXM (R143): IEEE maximum propagating NaN. -/
  | fmaxm (d a b : Sel) (t : FTy) (p : Option Pfx)
  /-- FDIV (R142): Correctly rounded division. -/
  | fdiv (d a b : Sel) (t : FTy) (p : Option Pfx)
  /-- FSQRT (R142): Correctly rounded square root. -/
  | fsqrt (d a : Sel) (t : FTy) (p : Option Pfx)
  /-- FABS (R144): Clear the sign bit. -/
  | fabs (d a : Sel) (t : FTy) (p : Option Pfx)
  /-- FNEG (R144): Invert the sign bit. -/
  | fneg (d a : Sel) (t : FTy) (p : Option Pfx)
  /-- FSGN (R144): Copy the sign of b onto a. -/
  | fsgn (d a b : Sel) (t : FTy) (p : Option Pfx)
  /-- FCLASS (R145): Write the class word of the operand. -/
  | fclass (d a : Sel) (t : FTy) (p : Option Pfx)
  /-- FSCALE (R146): Compute a*2^n rounded once. -/
  | fscale (d a b : Sel) (t : FTy) (p : Option Pfx)
  /-- FRCP (R148): Faithful reciprocal. -/
  | frcp (d a : Sel) (t : FTy) (p : Option Pfx)
  /-- FRSQ (R148): Reciprocal square root. -/
  | frsq (d a : Sel) (t : FTy) (p : Option Pfx)
  /-- FEX2 (R148): Base-2 exponential. -/
  | fex2 (d a : Sel) (t : FTy) (p : Option Pfx)
  /-- FLG2 (R148): Base-2 logarithm. -/
  | flg2 (d a : Sel) (t : FTy) (p : Option Pfx)
  /-- FSIN (R148): Sine. -/
  | fsin (d a : Sel) (t : FTy) (p : Option Pfx)
  /-- FCOS (R148): Cosine. -/
  | fcos (d a : Sel) (t : FTy) (p : Option Pfx)
  /-- FTANH (R148): Hyperbolic tangent. -/
  | ftanh (d a : Sel) (t : FTy) (p : Option Pfx)
  /-- FCVT (R150): Convert between formats, stepping the stochastic generator when rounding stochastically. -/
  | fcvt (d a : Sel) (n : Bool) (s t : CvtTy) (p : Option Pfx)
  /-- FROUND (R151): Round to an integral value of the same format. -/
  | fround (d a : Sel) (t : FmtTy) (p : Option Pfx)
  /-- FSPLIT_BF16 (R152): Split an f32 into three truncated bf16 parts. -/
  | fsplitBf16 (d a : Sel) (p : Option Pfx)
  /-- FPACK (R153): Pack one f32 into an MX element under a block scale. -/
  | fpack (d a : Sel) (e : MxElem) (p : Option Pfx)
  /-- FUNPK (R153): Unpack one MX element under a block scale to f32. -/
  | funpk (d a : Sel) (e : MxElem) (p : Option Pfx)
  /-- CADD_CI16 (R154): Complex ci16 add. -/
  | caddCi16 (d a b : Sel) (p : Option Pfx)
  /-- CADD_CI32 (R154): Complex ci32 add on pairs. -/
  | caddCi32 (d a b : Sel) (p : Option Pfx)
  /-- CMUL_CI16 (R154): Complex ci16 multiply. -/
  | cmulCi16 (d a b : Sel) (p : Option Pfx)
  /-- CMAC_CI16 (R154): Complex multiply-accumulate into a ci32 pair. -/
  | cmacCi16 (d a b : Sel) (p : Option Pfx)
  /-- CMAC_CI8 (R154): Two-element ci8 multiply-accumulate into a ci32 pair. -/
  | cmacCi8 (d a b : Sel) (p : Option Pfx)
  /-- CCONJ_CI16 (R154): Complex conjugate of ci16. -/
  | cconjCi16 (d a : Sel) (p : Option Pfx)
  /-- CCONJ_CI32 (R154): Complex conjugate of ci32. -/
  | cconjCi32 (d a : Sel) (p : Option Pfx)
  /-- CMAG2_CI16 (R154): Squared magnitude of ci16. -/
  | cmag2Ci16 (d a : Sel) (p : Option Pfx)
  /-- CUNPK_CI8 (R155): Widen two ci8 to ci16 words. -/
  | cunpkCi8 (d a : Sel) (p : Option Pfx)
  /-- CUNPK_CI4 (R155): Widen four ci4 to ci16 words in a quad. -/
  | cunpkCi4 (d a : Sel) (p : Option Pfx)
  /-- CMP (R132): Integer compare writing a mask bit per active lane. -/
  | cmp (d a b : Sel) (t : ITy) (c : Cond) (p : Option Pfx)
  /-- FCMP (R147): Floating compare writing a mask. -/
  | fcmp (d a b : Sel) (t : FTy) (c : Cond) (p : Option Pfx)
  /-- XL_PICK (R160): Each participant takes a chosen lane of its segment. -/
  | xlPick (d a b : Sel) (k : BitVec 3) (p : Option Pfx)
  /-- XL_SWAP (R160): Lane i takes lane i XOR d. -/
  | xlSwap (d a b : Sel) (k : BitVec 3) (p : Option Pfx)
  /-- XL_FWD (R160): Lane i takes lane i-d. -/
  | xlFwd (d a b : Sel) (k : BitVec 3) (p : Option Pfx)
  /-- XL_BACK (R160): Lane i takes lane i+d. -/
  | xlBack (d a b : Sel) (k : BitVec 3) (p : Option Pfx)
  /-- RED (R161): Cross-lane reduction over the participant set through the fixed network. -/
  | red (d a : Sel) (o : RedOp)
  /-- SCAN (R161): Inclusive cross-lane scan. -/
  | scan (d a : Sel) (o : RedOp)
  /-- MAND (R164): Mask AND. -/
  | mand (d a b : Sel)
  /-- MOR (R164): Mask OR. -/
  | mor (d a b : Sel)
  /-- MXOR (R164): Mask XOR. -/
  | mxor (d a b : Sel)
  /-- MNOT (R164): Mask NOT. -/
  | mnot (d a : Sel)
  /-- MMOV (R164): Mask copy. -/
  | mmov (d a : Sel)
  /-- MPOP (R164): Count set mask bits into a scalar. -/
  | mpop (d a : Sel)
  /-- MFIRST (R164): Index of lowest set mask bit. -/
  | mfirst (d a : Sel)
  /-- MSET (R164): Set a mask from a scalar. -/
  | mset (d a : Sel)
  /-- MGET (R164): Read a mask into a scalar. -/
  | mget (d a : Sel)
  /-- VOTE_ANY (R163): Scalar 1 if any participant's value is nonzero. -/
  | voteAny (d a : Sel)
  /-- VOTE_ALL (R163): Scalar 1 if every participant's value is nonzero. -/
  | voteAll (d a : Sel)
  /-- BALLOT (R163): Mask of participants with nonzero value. -/
  | ballot (d a : Sel)
  /-- MATCH (R163): Per participant, mask of participants with equal value. -/
  | matchLanes (d a : Sel)
  /-- POPM (R163): Rank: set mask bits below the lane. -/
  | popm (d a : Sel)
  /-- SADD (R133): Scalar add. -/
  | sadd (d a b : Sel)
  /-- SSUB (R133): Scalar subtract. -/
  | ssub (d a b : Sel)
  /-- SMUL (R133): Scalar multiply. -/
  | smul (d a b : Sel)
  /-- SMULHI (R133): Scalar signed multiply high. -/
  | smulhi (d a b : Sel)
  /-- SDIV (R133): Scalar signed divide. -/
  | sdiv (d a b : Sel)
  /-- SDIV_N (R133): Scalar unsigned divide. -/
  | sdivN (d a b : Sel)
  /-- SREM (R133): Scalar signed remainder. -/
  | srem (d a b : Sel)
  /-- SREM_N (R133): Scalar unsigned remainder. -/
  | sremN (d a b : Sel)
  /-- SMIN (R133): Scalar signed minimum. -/
  | smin (d a b : Sel)
  /-- SMIN_N (R133): Scalar unsigned minimum. -/
  | sminN (d a b : Sel)
  /-- SMAX (R133): Scalar signed maximum. -/
  | smax (d a b : Sel)
  /-- SMAX_N (R133): Scalar unsigned maximum. -/
  | smaxN (d a b : Sel)
  /-- SAND (R133): Scalar AND. -/
  | sand (d a b : Sel)
  /-- SOR (R133): Scalar OR. -/
  | sor (d a b : Sel)
  /-- SXOR (R133): Scalar XOR. -/
  | sxor (d a b : Sel)
  /-- SSHL (R133): Scalar shift left. -/
  | sshl (d a b : Sel)
  /-- SSHR (R133): Scalar logical shift right. -/
  | sshr (d a b : Sel)
  /-- SSRA (R133): Scalar arithmetic shift right. -/
  | ssra (d a b : Sel)
  /-- SCLZ (R133): Scalar leading zero count. -/
  | sclz (d a : Sel)
  /-- SPOPC (R133): Scalar population count. -/
  | spopc (d a : Sel)
  /-- SMOV (R133): Scalar move with taint and poison. -/
  | smov (d a : Sel)
  /-- SSEL (R133): Scalar select on the old destination value. -/
  | ssel (d a b : Sel)
  /-- SCMP_EQ (R133): Scalar compare equal. -/
  | scmpEq (d a b : Sel)
  /-- SCMP_NE (R133): Scalar compare not equal. -/
  | scmpNe (d a b : Sel)
  /-- SCMP_LT (R133): Scalar signed less than. -/
  | scmpLt (d a b : Sel)
  /-- SCMP_LE (R133): Scalar signed less or equal. -/
  | scmpLe (d a b : Sel)
  /-- SCMP_LT_N (R133): Scalar unsigned less than. -/
  | scmpLtN (d a b : Sel)
  /-- SCMP_LE_N (R133): Scalar unsigned less or equal. -/
  | scmpLeN (d a b : Sel)
  /-- SADD_IMM (R134): Scalar add immediate. -/
  | saddImm (d a : Sel) (i : Imm8) (lit : Option Imm)
  /-- SMUL_IMM (R134): Scalar multiply immediate. -/
  | smulImm (d a : Sel) (i : Imm8) (lit : Option Imm)
  /-- SAND_IMM (R134): Scalar AND immediate. -/
  | sandImm (d a : Sel) (i : Imm8) (lit : Option Imm)
  /-- SOR_IMM (R134): Scalar OR immediate. -/
  | sorImm (d a : Sel) (i : Imm8) (lit : Option Imm)
  /-- SXOR_IMM (R134): Scalar XOR immediate. -/
  | sxorImm (d a : Sel) (i : Imm8) (lit : Option Imm)
  /-- SSHL_IMM (R134): Scalar shift left immediate. -/
  | sshlImm (d a : Sel) (i : Imm8) (lit : Option Imm)
  /-- SSHR_IMM (R134): Scalar logical shift right immediate. -/
  | sshrImm (d a : Sel) (i : Imm8) (lit : Option Imm)
  /-- SSRA_IMM (R134): Scalar arithmetic shift right immediate. -/
  | ssraImm (d a : Sel) (i : Imm8) (lit : Option Imm)
  /-- SMOVI (R134): Scalar immediate load. -/
  | smovi (d : Sel) (i : Imm8)
  /-- SLIT (R134): smovi with a forced 64-bit literal. -/
  | slit (d : Sel) (k : Imm)
  /-- CSRR (R118): Read a control register into a scalar. -/
  | csrr (d : Sel) (c : BitVec 12)
  /-- CSRW (R118): Write a control register field by field per access rights. -/
  | csrw (d : Sel) (c : BitVec 12)
  /-- CSRS (R118): Atomic set of control register bits. -/
  | csrs (d : Sel) (c : BitVec 12)
  /-- CSRC (R118): Atomic clear of control register bits. -/
  | csrc (d : Sel) (c : BitVec 12)
  /-- S_RD (R136): Read one lane's register into a scalar. -/
  | sRd (d a b : Sel)
  /-- S_WR (R137): Write a scalar into one lane's register. -/
  | sWr (d a b : Sel)
  /-- SRSEED_WRITE (R40): A write of c.srseed reseeds the generator of every thread of the group. -/
  | srseedWrite (f : CsrFn) (d : Sel)
  /-- RM_WRITE (R38): A write of c.rm stores the mode, replacing 0b000 and 0b111 by 0b001. -/
  | rmWrite (f : CsrFn) (d : Sel)
  /-- FFLAGS_WRITE (R141): A write of c.fflags is held until earlier float instructions complete. -/
  | fflagsWrite (f : CsrFn) (d : Sel)
  /-- RCVBASE_WRITE (R109): A write of c.rcvbase, ignored while c.rcvdepth exceeds 8. -/
  | rcvbaseWrite (f : CsrFn) (d : Sel)
  /-- BPC_WRITE (R116): Write of c.bpc or c.bpa with world check and W1C HIT bits. -/
  | bpcWrite (f : CsrFn) (d : Sel)
  /-- BRA (R171): Unconditional relative branch. -/
  | bra (o : BitVec 14) (lit : Option Imm)
  /-- BRZ (R171): Per-thread branch when the vector value is zero. -/
  | brz (c : Sel) (o : BitVec 14) (lit : Option Imm)
  /-- BRNZ (R171): Per-thread branch when the vector value is nonzero. -/
  | brnz (c : Sel) (o : BitVec 14) (lit : Option Imm)
  /-- BSZ (R171): Branch when a scalar is zero. -/
  | bsz (c : Sel) (o : BitVec 14) (lit : Option Imm)
  /-- BSNZ (R171): Branch when a scalar is nonzero. -/
  | bsnz (c : Sel) (o : BitVec 14) (lit : Option Imm)
  /-- CALL (R172): Write the return address to a pair and jump. -/
  | call (c : Sel) (o : BitVec 14) (lit : Option Imm)
  /-- RET (R172): Jump to the address in a pair. -/
  | ret (c : Sel)
  /-- JMP (R172): Jump to the address in a pair. -/
  | jmp (c : Sel)
  /-- EXIT (R173): The cohort's threads exit, running release checks of frames and barriers. -/
  | exit
  /-- NOP (R173): Advance pc only. -/
  | nop
  /-- YIELD (R173): Sleep with a count of zero. -/
  | yield
  /-- SLEEP (R173): Threads sleep for a scalar count of cycles. -/
  | sleep (c : Sel)
  /-- RCV_PUSH (R176): Push a reconvergence frame with the cohort as members. -/
  | rcvPush (o : BitVec 14) (lit : Option Imm)
  /-- RCV_WAIT (R176): Arrive at the own frame's label and wait for release. -/
  | rcvWait
  /-- RCV_POP (R176): Close the top frame for every member. -/
  | rcvPop
  /-- RCV_DROP (R176): Remove the cohort from its own frame. -/
  | rcvDrop
  /-- BAR_TEAM (R398): Arrive at the team barrier. -/
  | barTeam
  /-- BAR_CLU (R398): Arrive at the cluster barrier. -/
  | barClu
  /-- BAR_NAMED (R399): Whole-group arrival at a named barrier, then wait. -/
  | barNamed (a : Sel) (n : Imm8)
  /-- BAR_ARRIVE (R399): Whole-group arrival at a named barrier without waiting. -/
  | barArrive (a : Sel) (n : Imm8)
  /-- CB_INIT (R402): Set a completion barrier's expected count and align thread phases. -/
  | cbInit (a : Sel) (n : Imm8)
  /-- CB_ARRIVE (R403): Count one arrival per cohort at a completion barrier. -/
  | cbArrive (n : Imm8)
  /-- CB_WAIT (R404): Wait until the barrier's phase differs from the thread's phase bit. -/
  | cbWait (n : Imm8)
  /-- CB_TEST (R404): Read a completion barrier's state and readiness. -/
  | cbTest (d : Sel) (n : Imm8)
  /-- ECALL (R180): Post an ECALL record per thread and park. -/
  | ecall (n : Imm8)
  /-- EBREAK (R181): Park the cohort and post one BREAK record. -/
  | ebreak (n : Imm8)
  /-- WCALL (R180): Post a WCALL record for F per thread and park. -/
  | wcall (n : Imm8)
  /-- TRAP (R181): Park the cohort and post one TRAP record. -/
  | trap (n : Imm8)
  /-- WFE (R182): Make threads not ready until an event occurs. -/
  | wfe
  /-- FENCE_I (R174): Discard the core's instruction cache and fetch buffers. -/
  | fenceI
  /-- HALT (R184): Stop issue on the core for every group until reset. -/
  | halt
  /-- LD (R215): Load from any window with ordering, scope and atomicity fields. -/
  | ld (d a : Sel) (s : MemSize) (o : MemOrd) (q : Scope) (t : MemAt) (lit : Option Imm) (p : Option Pfx)
  /-- ST (R216): Store per active lane in ascending lane order. -/
  | st (d a : Sel) (s : MemSize) (o : MemOrd) (q : Scope) (t : MemAt) (lit : Option Imm) (p : Option Pfx)
  /-- LDX (R221): Indexed load with scaled index and 32-bit offset. -/
  | ldx (d a : Sel) (s : MemSize) (o : MemOrd) (q : Scope) (t : MemAt) (off : BitVec 32) (k : BitVec 3) (x : Sel) (p : Option Pfx)
  /-- STX (R221): Indexed store with scaled index and 32-bit offset. -/
  | stx (d a : Sel) (s : MemSize) (o : MemOrd) (q : Scope) (t : MemAt) (off : BitVec 32) (k : BitVec 3) (x : Sel) (p : Option Pfx)
  /-- LOAD_DATA_ARRIVAL (R94): A load's value arrives and fills its reserved history entry and destination. -/
  | loadDataArrival (id : Nat)
  /-- ATOM_ADD (R223): Atomic add returning the old value. -/
  | atomAdd (d a : Sel) (r : AtomOrd) (q : Scope) (w : Bool)
  /-- ATOM_SUB (R223): Atomic subtract. -/
  | atomSub (d a : Sel) (r : AtomOrd) (q : Scope) (w : Bool)
  /-- ATOM_MIN_I (R223): Atomic signed minimum. -/
  | atomMinI (d a : Sel) (r : AtomOrd) (q : Scope) (w : Bool)
  /-- ATOM_MAX_I (R223): Atomic signed maximum. -/
  | atomMaxI (d a : Sel) (r : AtomOrd) (q : Scope) (w : Bool)
  /-- ATOM_MIN_N (R223): Atomic unsigned minimum. -/
  | atomMinN (d a : Sel) (r : AtomOrd) (q : Scope) (w : Bool)
  /-- ATOM_MAX_N (R223): Atomic unsigned maximum. -/
  | atomMaxN (d a : Sel) (r : AtomOrd) (q : Scope) (w : Bool)
  /-- ATOM_AND (R223): Atomic AND. -/
  | atomAnd (d a : Sel) (r : AtomOrd) (q : Scope) (w : Bool)
  /-- ATOM_OR (R223): Atomic OR. -/
  | atomOr (d a : Sel) (r : AtomOrd) (q : Scope) (w : Bool)
  /-- ATOM_XOR (R223): Atomic XOR. -/
  | atomXor (d a : Sel) (r : AtomOrd) (q : Scope) (w : Bool)
  /-- ATOM_XCHG (R223): Atomic exchange. -/
  | atomXchg (d a : Sel) (r : AtomOrd) (q : Scope) (w : Bool)
  /-- ATOM_CAS (R223): Atomic compare and swap. -/
  | atomCas (d a : Sel) (r : AtomOrd) (q : Scope) (w : Bool)
  /-- ATOM_INCW (R223): Atomic wrapping increment. -/
  | atomIncw (d a : Sel) (r : AtomOrd) (q : Scope) (w : Bool)
  /-- ATOM_DECW (R223): Atomic wrapping decrement. -/
  | atomDecw (d a : Sel) (r : AtomOrd) (q : Scope) (w : Bool)
  /-- ATOM_ADD_F (R223): Atomic float add rounded rne. -/
  | atomAddF (d a : Sel) (r : AtomOrd) (q : Scope) (w : Bool)
  /-- ATOM_XCHG_A16 (R223): 16-byte atomic exchange. -/
  | atomXchgA16 (d a : Sel) (r : AtomOrd) (q : Scope)
  /-- ATOM_CAS_A16 (R223): 16-byte compare and swap. -/
  | atomCasA16 (d a : Sel) (r : AtomOrd) (q : Scope)
  /-- MEMORY_REDUCTION (R225): Atomic update of memory returning nothing. -/
  | memoryReduction (d a : Sel) (o : MrOp) (r : AtomOrd) (q : Scope) (w : Bool)
  /-- PF (R227): Prefetch a line into L1 or L2, dropped silently on refusal. -/
  | pf (l : Bool) (a : Sel) (lit : Option Imm)
  /-- IPF (R227): Prefetch a line into the instruction cache. -/
  | ipf (a : Sel) (lit : Option Imm)
  /-- PHASE_BEGIN (R228): Acquire at a scope. -/
  | phaseBegin (q : Scope)
  /-- PHASE_END (R228): Release at a scope. -/
  | phaseEnd (q : Scope)
  /-- PHASE (R228): Release followed by acquire. -/
  | phase (q : Scope)
  /-- FENCE (R228): Phase with store-load ordering and a total fence order. -/
  | fence (q : Scope)
  /-- CWB (R229): Complete the thread's stores to a line at a scope. -/
  | cwb (a : Sel) (q : Scope) (lit : Option Imm)
  /-- CINV (R229): Discard the core's L1 copy of a line. -/
  | cinv (a : Sel) (q : Scope) (lit : Option Imm)
  /-- SP_CLR (R230): Make a scratchpad line absent. -/
  | spClr (a : Sel) (lit : Option Imm)
  /-- SP_SET (R230): Make a scratchpad line present, resuming waiters. -/
  | spSet (a : Sel) (lit : Option Imm)
  /-- SP_TEST (R230): Return a scratchpad line's presence state. -/
  | spTest (d a : Sel) (lit : Option Imm)
  /-- PUSH (R259): Hand a two-word command to the matrix, copy or network queue. -/
  | push (q : CmdQ) (a b : Sel)
  /-- POP (R260): Deliver easel or fault records one per lane. -/
  | pop (d : Sel) (q : RecQ)
  /-- MRDY (R270): Wait for operand writes and arm the group for its next matrix post. -/
  | mrdy
  /-- MMA (R271): Post a solo matrix command. -/
  | mma (cmd : BitVec 96)
  /-- MMA_J (R271): Post one quarter of a joint matrix command. -/
  | mmaJ (cmd : BitVec 96)
  /-- MMA_START (R272): The FIFO head command starts when arrays idle, lines present and registers written. -/
  | mmaStart (id : Nat)
  /-- MMA_COMPLETE (R272): A matrix command writes its accumulators, returns tokens and arrives at its barrier. -/
  | mmaComplete (id : Nat)
  /-- CP (R279): Post a strided copy. -/
  | cp (cmd : BitVec 96)
  /-- CP_MX (R279): Post a copy followed by a matrix command. -/
  | cpMx (cmd : BitVec 96)
  /-- CP_GX (R279): Post a gather copy. -/
  | cpGx (cmd : BitVec 96)
  /-- COPY_ENTER_FLIGHT (R280): A copy command leaves the FIFO and enters flight. -/
  | copyEnterFlight (id : Nat)
  /-- COPY_ROW_LANDING (R280): Bytes of a copy row land, making completed scratchpad lines present. -/
  | copyRowLanding (id row : Nat)
  /-- COPY_COMPLETE (R283): Every byte landed: the command arrives at its barrier. -/
  | copyComplete (id : Nat)
  /-- COPY_FAIL (R282): A row faults in flight: lines fail, a record is posted and the command arrives. -/
  | copyFail (id row : Nat)
  /-- FOLLOW_ON_APPEND (R284): A cp.mx follow-on is appended to the matrix FIFO once room and tokens exist. -/
  | followOnAppend (id : Nat)
  /-- NET_PUT (R289): Remote write of LEN bytes. -/
  | netPut (a b : Sel)
  /-- NET_GET (R289): Remote read of LEN bytes. -/
  | netGet (a b : Sel)
  /-- NET_SEND (R289): Tagged send to a peer. -/
  | netSend (a b : Sel)
  /-- NET_RECV (R289): Receive a matching send. -/
  | netRecv (a b : Sel)
  /-- NET_RED (R289): Remote element-wise reduction. -/
  | netRed (a b : Sel)
  /-- NET_FENCE (R289): Fence the core's network port. -/
  | netFence (b : Sel)
  /-- NET_COMMAND_START (R292): The network engine takes a command from a port. -/
  | netCommandStart (id : Nat)
  /-- NET_PACKET_RECEIVE (R340): A transport packet arrives and lands at the target, writing target completion. -/
  | netPacketReceive (k : NetPacket)
  /-- PACKET_RETRANSMIT (R340): An unacknowledged packet is retransmitted, completing PEER_DOWN after RETRY. -/
  | packetRetransmit (id : Nat)
  /-- NET_LOCAL_COMPLETION (R289): A network command completes locally and reports its completion. -/
  | netLocalCompletion (id : Nat)
  /-- COMPLETION_RING_SPACE (R291): A completion waiting on a full ring is written when RIDX frees space. -/
  | completionRingSpace (id : Nat)
  /-- LAUNCH (R325): Check and accept a launch record into a queue. -/
  | launch (d a b : Sel)
  /-- GANG (R326): Accept 2 to 8 records as one gang. -/
  | gang (d a b : Sel)
  /-- CANCEL (R332): Issue a cancel token for a graph instance. -/
  | cancel (a : Sel)
  /-- VSEL (R333): Choose a kernel descriptor from a variant set by size. -/
  | vsel (d a b : Sel)
  /-- PIPE_PUT (R331): Append one element per thread to a pipe. -/
  | pipePut (a b : Sel)
  /-- PIPE_GET (R331): Take one element per thread from a pipe. -/
  | pipeGet (d a : Sel)
  /-- PIPE_CLOSE (R331): Close a pipe after the elements already put. -/
  | pipeClose (a : Sel)
  /-- SVC_REG (R334): Register or withdraw the group as a service group. -/
  | svcReg (a b : Sel)
  /-- LAUNCH_START (R327): The scheduler drops cancelled heads and starts the best eligible head. -/
  | launchStart
  /-- TEAM_RELEASE (R378): Teams whose predecessors have all retired are released for placement. -/
  | teamRelease (q n : Nat)
  /-- TEAM_PLACEMENT (R329): A released team or cluster is placed on qualifying cores. -/
  | teamPlacement (q n : Nat)
  /-- FAIRNESS_EXPIRY (R329): A team waiting 100 µs blocks younger launches from its cores. -/
  | fairnessExpiry (q n : Nat)
  /-- TEAM_RETIRE (R377): A team retires and sets its scoreboard bit. -/
  | teamRetire (team : Nat)
  /-- GROUP_TEARDOWN (R332): A cancelled group is torn down once its accesses and commands have completed. -/
  | groupTeardown (core slot : Nat)
  /-- AGING_PROMOTION (R338): A waiting group's effective class rises every 4,096 cycles of readiness. -/
  | agingPromotion (core slot : Nat)
  /-- SREP (R304): Answer an easel record, un-parking its thread or threads. -/
  | srep (a b : Sel)
  /-- SDONE (R304): Free an easel slot. -/
  | sdone (a : Sel)
  /-- FREEZE (R313): Set a freeze bit on selected groups. -/
  | freeze (a : Sel)
  /-- THAW (R313): Clear permitted freeze bits on selected groups. -/
  | thaw (a : Sel)
  /-- SWAPOUT (R315): Save a world's U groups on the core to shadow storage. -/
  | swapout (a : Sel)
  /-- SWAPOUT_DRAIN_DONE (R315): After the drain ends, the image is written and the groups' storage released. -/
  | swapoutDrainDone (core : Nat)
  /-- SWAPIN (R316): Restore a saved context to the core. -/
  | swapin (a : Sel)
  /-- FLT_DONE (R305): Answer a fault record, replaying logged stores or resuming parked threads. -/
  | fltDone (a : Sel)
  /-- LOG_REPLAY_RECORD (R310): An ACC 8 record is posted when the thread reaches its boundary after a failed replay. -/
  | logReplayRecord (core slot lane : Nat)
  /-- TLB_INV (R368): Remove TLB entries and cancel walks within a scope. -/
  | tlbInv (s a : Sel)
  /-- TLB_PROBE (R368): Translate an address as a load would and report the result. -/
  | tlbProbe (d a : Sel)
  /-- BLD (R306): Borrowed load as the parked caller. -/
  | bld (d a b : Sel) (z : BSize)
  /-- BST (R306): Borrowed store as the parked caller. -/
  | bst (d a b : Sel) (z : BSize)
  /-- POT_SET (R370): Change a page ownership entry with shootdown. -/
  | potSet (d a b : Sel)
  /-- POT_GET (R370): Read a page ownership entry. -/
  | potGet (d a : Sel)
  /-- FRAME_CLS (R372): Change a free frame's reliability class. -/
  | frameCls (d a b : Sel)
  /-- GESSO (R371): Scrub and assign free pages to a world. -/
  | gesso (d a b : Sel)
  /-- KEY_NEW (R373): Draw or retire a memory key, or load a fabric key. -/
  | keyNew (d a b : Sel)
  /-- HOT_RD (R375): Copy a controller's published hot-page list to a buffer. -/
  | hotRd (d a b : Sel)
  /-- VARNISH_BEGIN (R389): Start a copy-on-write snapshot. -/
  | varnishBegin (d a : Sel)
  /-- VARNISH_END (R391): End a snapshot and free its handle. -/
  | varnishEnd (d a : Sel)
  /-- CLK_PLAN (R394): Choose clock settings that clear the band table. -/
  | clkPlan (d : Sel)
  /-- CLOCK_RELOCK (R394): At the next quiesce point the device stops, relocks its PLLs and resumes. -/
  | clockRelock
  /-- CNT_CFG (R417): Configure an event counter. -/
  | cntCfg (d a b : Sel)
  /-- CNT_RD (R417): Read an event counter. -/
  | cntRd (d a : Sel)
  /-- CNT_CLR (R417): Clear an event counter. -/
  | cntClr (d a : Sel)
  /-- EBUD_SET (R412): Write an error budget's remaining and warning values. -/
  | ebudSet (d a b : Sel)
  /-- EBUD_RD (R412): Read an error budget. -/
  | ebudRd (d a : Sel)
  /-- TOK_LIM (R415): Set a die's token pool limit. -/
  | tokLim (d a b : Sel)
  /-- TCMP_SET (R416): Set a world's timer compare value on the core. -/
  | tcmpSet (d a b : Sel)
  /-- ICACHE_FILL (R432): A requested instruction-cache line arrives and waiting cohorts become ready. -/
  | icacheFill (core line : Nat)
  /-- BREAKPOINT_MATCH (R185): A cohort's pc matches a breakpoint; it parks and a BREAK record is posted. -/
  | breakpointMatch (core slot lane : Nat)
  /-- SLEEP_EXPIRY (R173): A sleep count runs out and the threads return to ready. -/
  | sleepExpiry (core slot lane : Nat)
  /-- WFE_WAKE (R182): An event or 65,536 cycles ends a wfe. -/
  | wfeWake (core slot lane : Nat)
  /-- ECALL_RETRY (R180): A stalled ecall posts its record when its world's quota frees a slot. -/
  | ecallRetry (core slot lane : Nat)
  /-- TIMER_FIRE (R408): c.time reaches a world's compare value; a TIMER record is posted and the value reset. -/
  | timerFire (core world : Nat)
  /-- DEVICE_RECORD_POST (R297): A device-posted record waiting at its source enters the easel when a slot frees. -/
  | deviceRecordPost (core : Nat)
  /-- BAR_TIMEOUT (R406): A barrier's time limit expires; waiting threads park with a BAR_TIMEOUT record. -/
  | barTimeout (team kind n : Nat)
  /-- PATROL (R207): A memory controller patrols a P line, correcting and writing back. -/
  | patrol (line : Nat)
  /-- HOTNESS_INTERVAL_END (R374): At interval end candidate lists are published and the sketch cleared. -/
  | hotnessIntervalEnd (n : Nat)
  /-- INGEST_PACKET (R345): A steered packet is written to its ingest ring slot. -/
  | ingestPacket (k : RawPacket)
  /-- INGEST_HELD_WRITE (R345): A packet held on a full ring is written once a slot frees. -/
  | ingestHeldWrite (id : Nat)
  /-- PAUSE_BUDGET_EXPIRY (R346): A ring's pause budget runs out; held packets are dropped and its claim withdrawn. -/
  | pauseBudgetExpiry (die rule : Nat)
  /-- XOFF_REFRESH (R346): A port refreshes PFC XOFF at half the quanta interval. -/
  | xoffRefresh (port prio : Nat)
  /-- DOORBELL_WRITE (R349): A store to an NVMe doorbell word is forwarded to the SSD. -/
  | doorbellWrite (id : Nat)
  /-- SSD_DATA_ACCESS (R348): An SSD reads or writes device memory through translation. -/
  | ssdDataAccess (port qid : Nat) (wr : Bool) (addr : BitVec 64) (len : Nat) (data : List (BitVec 8))
  /-- NVME_COMPLETION (R350): An SSD writes a completion entry, posting an IRQ record if enabled. -/
  | nvmeCompletion (port qid slot : Nat) (entry : BitVec 128)
  /-- DOMAIN_STATE_WRITE (R342): F writes a fabric domain's STATE, starting drain or reopening. -/
  | domainStateWrite (world : Nat) (v : BitVec 2)
  /-- DOMAIN_DRAINED (R342): All packets of a draining domain are acknowledged and STATE becomes drained. -/
  | domainDrained (world : Nat)
  /-- TCTL_WRITE (R357): Setting EN starts page ownership initialisation and releases the flash copy. -/
  | tctlWrite (v : BitVec 64)
  /-- POT_INITIALISATION_DONE (R357): POT initialisation completes and RDY is set. -/
  | potInitialisationDone
  /-- WORLD_TABLE_RESERVE_WRITE (R355): A store to RESV0 or RESV1 of a world entry. -/
  | worldTableReserveWrite (world : Nat) (v : BitVec 64)
  /-- WAY_GLAZING_DONE (R355): Lines in given-up ways are glazed and the new reservation takes effect. -/
  | wayGlazingDone (world : Nat)
  /-- VAULT_ALLOCATION_WRITE (R385): A store to a vault allocation entry, reassigning or releasing a segment. -/
  | vaultAllocationWrite (site seg : Nat) (v : BitVec 32)
  /-- SEGMENT_ZEROING_DONE (R385): A reassigned segment finishes zeroing and ZB returns to 0. -/
  | segmentZeroingDone (site seg : Nat)
  /-- FLASH_PROGRAM (R423): A store through 0xFE clears flash bits. -/
  | flashProgram (o : Nat) (data : List (BitVec 8))
  /-- SECTOR_ERASE (R423): An all-ones 8-byte store to a sector start erases the sector. -/
  | sectorErase (o : Nat)
  /-- FLASH_OPERATION_DONE (R423): The flash finishes programming or erasing and busy loads proceed. -/
  | flashOperationDone (o : Nat)
  /-- DEVICE_REGISTER_WRITE (R354): A store to a device-window register or table entry without behaviour of its own. -/
  | deviceRegisterWrite (o len : Nat) (v : BitVec 64)
  /-- POWER_ON (R420): Supplies reach level with PORST_N released; the device resets and the ROM runs. -/
  | powerOn
  /-- PIN_RESET (R420): RESET_N released after 10 µs low; the device resets and the ROM runs. -/
  | pinReset
  /-- STACK_TRAINING_DONE (R430): A memory controller finishes training and waiting accesses proceed. -/
  | stackTrainingDone (stack : Nat)
  /-- THERMTRIP (R28): A die passes 105 °C, stops its clocks and asserts THERMTRIP_N. -/
  | thermtrip
  /-- TRANSLATION_WALK_DONE (R367): A page-table walk in flight ends, filling the TLB or delivering its fault to the accesses that wait on it. -/
  | translationWalkDone (id : Nat)
  /-- ARRAY_FINISH (R272): One quarter array of a command finishes and returns its token while other arrays of a joint command still run. -/
  | arrayFinish (id q : Nat)
  /-- SCRATCHPAD_CLEAR_DONE (R193): The background clearing of a newly placed team's scratchpad line completes and accesses waiting for it proceed. -/
  | scratchpadClearDone (team : Nat)
  /-- SOFT_ERROR (R206): A soft error alters bits held in a register file, SRAM, vault or main-memory line. -/
  | softError (place : ErrPlace) (g : ErrGrade) (v : BitVec 64)
  /-- POWER_REMOVAL (R28): The board removes power from the package, ending the THERMTRIP state and losing device state. -/
  | powerRemoval
  /-- RESET_N_ASSERTED (R420): RESET_N is driven low, stopping the device until it is released. -/
  | resetNAsserted
  /-- PORT_LINK_CHANGE (R340): An Ethernet port goes down or comes up, changing the ports over which the network engine sends. -/
  | portLinkChange (port : Nat) (up : Bool)
  deriving DecidableEq, Repr

end Sys2Proof
end

