-- ==== Sys2Proof/Machine/State.lean ====
section
/-! DEFINITION. The state of the device: everything the specification gives it, as plain data. -/

namespace Sys2Proof.Machine

/-! ## Registers and threads -/

/-- Privilege levels (R23). -/
inductive Priv where
  | u | s | f
  deriving DecidableEq, Repr

/-- Reliability classes of kernels and memories (R103, R205). -/
inductive Cls where
  | p | d | n
  deriving DecidableEq, Repr

/-- A named vector register of one thread, with its taint and poison (R93, R101). `wait` lists the loads whose data have
not arrived in it yet (R94); nothing reads the register before they have. -/
structure Reg where
  val    : Word
  taint  : Bool
  poison : Bool
  wait   : List Nat
  deriving DecidableEq, Repr

/-- A history entry of one thread (R94, R95). -/
structure HEnt where
  val    : DWord
  taint  : Bool
  poison : Bool
  wait   : List Nat
  deriving DecidableEq, Repr

/-- A scalar register of a group, and any 64-bit value with its taint and poison (R99, R101). -/
structure Val64 where
  val    : DWord
  taint  : Bool
  poison : Bool
  deriving DecidableEq, Repr

/-- A mask register of a group (R100); masks carry no taint (R101). -/
structure MReg where
  val    : DWord
  poison : Bool
  deriving DecidableEq, Repr

/-- What a thread at a barrier waits for (R397 to R404). -/
inductive BarWait where
  | team
  | clu
  | named (n : Nat)
  | cb (n : Nat) (phase : Bool)
  deriving DecidableEq, Repr

/-- Thread states (R169). A thread at a cross-lane or matrix instruction that waits for its set or group stays `ready`
there; `frozen` and `halted` are the group's freeze bits and the core's halt over the state kept here. -/
inductive TState where
  | ready
  | atRcv
  | atBar (b : BarWait) (since : Nat)
  | sleeping (wake : Nat)
  | wfe (wake : Nat)
  | ecallStall (wcall : Bool) (num batch : Nat)
  | parkedFault (slot : Nat)
  /-- `brk` for a BREAK or TRAP record, whose threads stay in their converged sets (R157, R181). -/
  | parkedEasel (slot : Nat) (brk : Bool)
  /-- Waiting at `bar.named` (`stay`) or `bar.arrive` of barrier `n` for the rest of the group, with the operand that holds its
  count (R397). -/
  | converging (n : Nat) (stay : Bool) (cnt : Sel)
  /-- Waiting on an absent line of a team's scratchpad (R194). -/
  | onLine (team line : Nat)
  | exited
  deriving DecidableEq, Repr

/-- A thread (R21, R90). `v` has NREG registers, `h` sixteen entries, newest first; `srg` is the stochastic rounding
generator (R40). `setId` and `path` say which converged set the thread is in: threads of one `setId` that took the same
targets since the set formed are together (R157). `since` is the cycle from which it is ready. `logRec` is the fault
slot of the ACC 7 record it holds, `logErr` the code and addresses of the ACC 8 record it takes at its next boundary
(R309, R310). `tph` holds its phase bits (R401); `bpSkip` lets it pass the breakpoint it was resumed from (R185). -/
structure Thread where
  lane   : Nat
  pc     : DWord
  v      : List Reg
  h      : List HEnt
  srg    : Word
  st     : TState
  setId  : Nat
  path   : List Nat
  since  : Nat
  logRec : Option Nat
  logErr : Option (Nat × DWord × DWord)
  tph    : BitVec 16
  bpSkip : Bool
  deriving DecidableEq, Repr

/-- A reconvergence frame (R175). -/
structure Frame where
  label   : DWord
  members : DWord
  arrived : DWord
  gw      : Nat
  depth   : Nat
  deriving DecidableEq, Repr

/-- Registers that a matrix command owns (R273): `lo` to `lo + len - 1` in every lane but those of `freed`, whose threads
have returned from their own `cb.wait`. `input` marks the B registers of a joint command, which hold no result. `dirty`
lists the (register, lane) pairs written meanwhile, `stale` those written between the group's `mrdy` and its post, which the
command reads as any value (R270). `stage` is 1 once the command's arrival at barrier `cb` is counted and 2 once that phase has
completed. -/
structure Owned where
  cmd   : Nat
  input : Bool
  lo    : Nat
  len   : Nat
  freed : DWord
  dirty : List (Nat × Nat)
  stale : List (Nat × Nat)
  cb    : Nat
  stage : Nat
  deriving DecidableEq, Repr

/-- A resident group (R90, R92, R108 to R115). `slot` is its group slot (R294); a group that has ended keeps what its team still
holds under a number from 512 on that leaves the rest 512 its old slot. `team` is the number of its team; `dead` is
set once its world is halted everywhere (R201, R373); `pri`, `age`, `waited` and
`boost` rank it for issue: cycles of readiness since its last issue, and the classes it has risen by (R338). `armDirty` lists the
(register, lane) pairs written since it was armed (R270). Records that carry a number from `seated` on were posted since the
group took its slot. -/
structure Group where
  core    : Nat
  slot    : Nat
  quarter : Nat
  team    : Nat
  priv    : Priv
  world   : BitVec 6
  asid    : BitVec 13
  kcls    : Cls
  prom    : Bool
  gid     : Nat
  tx      : Nat
  ty      : Nat
  tz      : Nat
  clid    : Nat
  ch      : Nat
  cw      : Nat
  cy      : Nat
  cx      : Nat
  lseq    : Word
  lq      : BitVec 6
  ginst   : BitVec 16
  gw      : Nat
  nreg    : Nat
  rm      : BitVec 3
  srseed  : Word
  fflags  : BitVec 5
  rcvbase : DWord
  rcvdepth : Nat
  stkBase : BitVec 44
  stkSzc  : BitVec 4
  spadsz  : Nat
  s       : List Val64
  m       : List MReg
  frames  : List Frame
  armed   : Bool
  armDirty : List (Nat × Nat)
  fzS     : Bool
  fzF     : Bool
  fzB     : Bool
  fzC     : Bool
  dead    : Bool
  pri     : Nat
  age     : Bool
  waited  : Nat
  boost   : Nat
  service : Option Nat
  seated  : Nat
  owned   : List Owned
  threads : List Thread
  deriving DecidableEq, Repr

/-! ## Records -/

/-- Fault codes (R301). -/
inductive FaultCode where
  | ill | priv | poison | align | aperture | pageMiss | pagePerm | owner | decode | xclass | spadFail | rcvBad | mxeFmt
  | copyFmt | netFmt | svcBad | swapState | barTimeout
  deriving DecidableEq, Repr

/-- A fault record (R299). -/
structure FaultRec where
  code  : FaultCode
  world : BitVec 6
  dest  : Bool
  gslot : Nat
  lane  : Nat
  priv  : Priv
  acc   : Nat
  nw    : Nat
  coh   : Bool
  ginst : BitVec 16
  pc    : DWord
  addr  : DWord
  addr2 : DWord
  issue : DWord
  done  : DWord
  insn  : List Word
  deriving DecidableEq, Repr

/-- A slot of a core's fault record queue that has held a record since reset; `live` while it still does. `delivered`
is the group slot it was delivered to (R298); `seq` orders the records by age. -/
structure FaultSlot where
  core      : Nat
  slot      : Nat
  live      : Bool
  delivered : Option Nat
  seq       : Nat
  body      : FaultRec
  deriving DecidableEq, Repr

/-- An easel record (R294). -/
structure EaselRec where
  a     : List DWord
  berr  : Nat
  bcnt  : Nat
  apoi  : BitVec 6
  kind  : Nat
  num   : Nat
  world : BitVec 6
  dest  : Bool
  gslot : Nat
  lane  : Nat
  priv  : Priv
  cls   : Cls
  ginst : BitVec 16
  deriving DecidableEq, Repr

/-- A slot of a core's easel that has held a record since reset (R294, R297, R298). `posted` is true for a record posted
by a thread, `batch` numbers the issue that posted it (R304), and `owner` is that thread's team and group index. -/
structure EaselSlot where
  core      : Nat
  slot      : Nat
  live      : Bool
  delivered : Option Nat
  answered  : Bool
  posted    : Bool
  batch     : Nat
  owner     : Nat × Nat
  seq       : Nat
  body      : EaselRec
  deriving DecidableEq, Repr

/-! ## Teams and launches -/

/-- A completion barrier (R401); `since` is the time its clock started (R406), `scp` the widest scope of an arrival. -/
structure CBar where
  exp   : BitVec 16
  cnt   : BitVec 16
  ph    : Bool
  scp   : Nat
  since : Option Nat
  deriving DecidableEq, Repr

/-- A named barrier (R399) with its clock (R406). -/
structure NBar where
  arr   : Nat
  tgt   : Nat
  since : Option Nat
  deriving DecidableEq, Repr

/-- A scratchpad line that is not present (R194). `ties` are the commands whose landings it waits for; with none it waits
for `sp.set` or a command that names it. `landed` lists the bytes of the line that have landed meanwhile, which no store
changes. -/
structure SpLine where
  line   : Nat
  failed : Bool
  ties   : List Nat
  landed : List Nat
  deriving DecidableEq, Repr

/-- A resident team (R193, R396). `num` is unique; `groups` is the number of groups it was placed with; its scratchpad is
`size` bytes from `base` of the core's. `uncleared` lists lines still being cleared. -/
structure Team where
  num       : Nat
  core      : Nat
  lq        : Nat
  lseq      : Nat
  index     : Nat
  world     : BitVec 6
  ginst     : BitVec 16
  clid      : Nat
  kcls      : Cls
  svc       : Bool
  groups    : Nat
  base      : Nat
  size      : Nat
  lines     : List SpLine
  uncleared : List Nat
  cbs       : List CBar
  nbs       : List NBar
  tbSince   : Option Nat
  cbSince   : Option Nat
  bto       : Nat
  deriving DecidableEq, Repr

/-- An accepted launch that has not retired (R320 to R328, R409): its record, kernel descriptor and context header as
they were read. `acc` orders acceptances and `started` starts. Teams by linear index: `queued` are released and not placed,
oldest first, with the times of their release; `placed` are on cores or swapped out; then retired, and torn down. `fair`
marks one whose next team has waited 100 µs (R329). -/
structure Launch where
  lq       : Nat
  lseq     : Nat
  acc      : Nat
  image    : BitVec 1024
  kd       : BitVec 512
  ctx      : BitVec 512
  gang     : Option (Nat × Nat)
  started  : Option Nat
  stopped  : Bool
  queued   : List (Nat × Nat)
  placed   : List Nat
  retired  : List Nat
  torn     : List Nat
  fair     : Bool
  rem      : Word
  warn     : Word
  exh      : Bool
  deriving DecidableEq, Repr

/-- An element of a pipe: its value, and the world and instance of the thread that put it (R258). Its poison is that of its bytes
in the ring (R219, R331). -/
structure PipeElem where
  val    : Word
  world  : BitVec 6
  ginst  : BitVec 16
  deriving DecidableEq, Repr

/-- A pipe of a placed gang (R330, R331), named by the launch queue and first sequence number of its gang and its PIDX; its
elements stand oldest first, and `popped` counts those that have left it. -/
structure Pipe where
  lq     : Nat
  first  : Nat
  idx    : Nat
  site   : Nat
  seg    : Nat
  cap    : Nat
  elems  : List PipeElem
  popped : Nat
  spoilt : Bool
  closed : Bool
  putGone : Bool
  getGone : Bool
  deriving DecidableEq, Repr

/-! ## Engines -/

/-- Who posted a command, and the rights it acts with (R232, R258, R277). -/
structure Poster where
  core  : Nat
  slot  : Nat
  lane  : Nat
  team  : Nat
  priv  : Priv
  world : BitVec 6
  asid  : BitVec 13
  kcls  : Cls
  prom  : Bool
  ginst : BitVec 16
  lq    : Nat
  lseq  : Nat
  deriving DecidableEq, Repr

/-- A matrix command in its FIFO or running (R271, R272). `parts` lists (QI, group slot, BREG, CREG); `drawn` says whether
it holds its tokens; `done` the arrays that have finished; `dirty` lists storage keys stored to while it is outstanding (R217). -/
structure MCmd where
  id      : Nat
  by_     : Poster
  cmd     : BitVec 96
  parts   : List (Nat × Nat × Nat × Nat)
  drawn   : Bool
  running : Bool
  done    : List Nat
  dirty   : List Nat
  deriving DecidableEq, Repr

/-- A partial joint command (R271); `id` is its number once it is complete. -/
structure Joint where
  id    : Nat
  by_   : Poster
  cmd   : BitVec 96
  parts : List (Nat × Nat × Nat × Nat)
  deriving DecidableEq, Repr

/-- A copy command in its FIFO or in flight (R279 to R284). `todo` lists the pieces of its rows that have not landed;
`got` and `put` list the storage keys read and written so far; `failed` holds the record of one that has failed until that
record is posted (R297); `ended` marks one whose follow-on waits for the matrix FIFO; `dirty` lists keys stored to while it is
outstanding (R217). -/
structure CCmd where
  id     : Nat
  by_    : Poster
  hdr    : BitVec 96
  desc   : BitVec 512
  addr   : DWord
  flying : Bool
  todo   : List Nat
  got    : List Nat
  put    : List Nat
  failed : Option EaselRec
  ended  : Bool
  dirty  : List Nat
  deriving DecidableEq, Repr

/-- A network command in its port or taken by the engine (R287 to R292). `addr` is its descriptor's address; `todo` lists
the stretches of LOCAL, from and to, that have not landed; `acked` holds the status and length that the peer's
acknowledgements or the landing gave; `waitsRing` marks a completion that waits for ring space. -/
structure NCmd where
  id        : Nat
  by_       : Poster
  desc      : BitVec 512
  addr      : DWord
  comp      : DWord
  taken     : Bool
  todo      : List (Nat × Nat)
  acked     : Option (Nat × Nat)
  waitsRing : Bool
  deriving DecidableEq, Repr

/-- A packet that the network engine of a die has sent and that its peer has not acknowledged: the command it belongs to,
none for data sent to a peer's `get`, and how often it has been sent again (R340, R342). -/
structure Sent where
  id      : Nat
  die     : Nat
  cmd     : Option Nat
  pkt     : NetPacket
  retries : Nat
  deriving DecidableEq, Repr

/-- A peer's message of which some packets have landed: the stretches still to come, and the `recv` that it matched (R289). -/
structure InMsg where
  world : Nat
  peer  : Nat
  id    : Nat
  todo  : List (Nat × Nat)
  recv  : Option Nat
  deriving DecidableEq, Repr

/-- An ROD flow to a peer (R340): the port it keeps while that is up, and the place of its next packet. -/
structure RodFlow where
  flow  : Nat
  world : Nat
  peer  : Nat
  port  : Option Nat
  next  : Nat
  deriving DecidableEq, Repr

/-- A completion that waits for space in a ring: who writes it, the ring's header address, and its entry's fields;
`counted` once OVF has counted it (R291). -/
structure RingWait where
  id     : Nat
  by_    : Poster
  ring   : DWord
  op     : Nat
  status : Nat
  tag    : Word
  len    : Nat
  cmd    : Option Nat
  counted : Bool
  deriving DecidableEq, Repr

/-- A request of a token wait queue, with the cycle in which it arrived (R414). -/
structure TokReq where
  cycle   : Nat
  die     : Nat
  core    : Nat
  quarter : Nat
  slot    : Nat
  k       : Nat
  deriving DecidableEq, Repr

/-! ## Memory machinery -/

/-- Kinds of access as translation and the records tell them apart (R299, R362). -/
inductive AKind where
  | fetch | load | store | atomic | reduction | refill | spill | descriptor
  deriving DecidableEq, Repr

/-- A TLB entry (R366), of the TLB of a quarter of the core or, with none, of the core's shared one: it covers `pages` pages
from `vpn`, mapped from page `ppn` on. `ro` marks a shared-read-only page. -/
structure Tlb where
  core  : Nat
  quarter : Option Nat
  world : BitVec 6
  asid  : Option (BitVec 13)
  sup   : Bool
  vpn   : Nat
  pages : Nat
  ppn   : Nat
  r     : Bool
  w     : Bool
  x     : Bool
  u     : Bool
  ro    : Bool
  sz    : Nat
  deriving DecidableEq, Repr

/-- A page-table walk outstanding (R367); `done` once it has ended with a fault for the accesses that wait on it. -/
structure Walk where
  id    : Nat
  core  : Nat
  world : BitVec 6
  asid  : BitVec 13
  sup   : Bool
  vpn   : Nat
  kind  : AKind
  by_   : Poster
  done  : Option FaultCode
  deriving DecidableEq, Repr

/-- A line of a core's L1 (R196): the storage line and its 128 bytes. `bad` lists the words whose parity is wrong. -/
structure L1Line where
  core  : Nat
  world : BitVec 6
  line  : Nat
  bad   : List Nat
  bytes : List Byte
  deriving DecidableEq, Repr

/-- A line of a core's instruction cache, most recently used first among the lines of its set (R174, R432). `full` once its
bytes have arrived; `pf` for one that an `ipf` requested (R227), with the party in `by_`. `bad` lists the words whose parity
is wrong (R196). -/
structure ICLine where
  core  : Nat
  world : BitVec 6
  line  : Nat
  full  : Bool
  pf    : Bool
  by_   : Poster
  bad   : List Nat
  bytes : List Byte
  deriving DecidableEq, Repr

/-- A side-log entry (R308). `typ` is 0 for a store, 1 for a reduction, 2 for a frame spill; `stk` marks an access in the stack
window, whose records show the backing address twice (R195, R299). -/
structure LogEnt where
  stk   : Bool
  core  : Nat
  slot  : Nat
  lane  : Nat
  addr  : DWord
  seq   : Nat
  typ   : Nat
  aop   : Nat
  wd    : Bool
  bytes : List Byte
  ord   : Nat
  scp   : Nat
  kcls  : Cls
  deriving DecidableEq, Repr

/-- A prefetch on its way into L1, or with `l2` into L2 (R227). -/
structure Pref where
  by_  : Poster
  line : Nat
  l2   : Bool
  deriving DecidableEq, Repr

/-- A soft error waiting to be met (R103, R201, R206): its place and what its check makes of it. Of a base that a block of lanes
shares, `off` lists the lanes whose word is elsewhere by now: at another entry of their history, or nowhere (R104). -/
structure ErrMark where
  place : ErrPlace
  grade : ErrGrade
  off   : List (Nat × Option Nat) := []
  deriving DecidableEq, Repr

/-- An active snapshot (R388 to R390): pages are (region page, area page) by page number; `kept` lists the region lines
already preserved, `lost` the lines whose snapshot is any value (lines by number, 32 to a page); `bits` are the bitmap's
pages and `boff` where it begins in the first. -/
structure Snap where
  handle : Nat
  world  : BitVec 6
  pages  : List (Nat × Nat)
  bits   : List Nat
  boff   : Nat
  kept   : List Nat
  lost   : List Nat
  deriving DecidableEq, Repr

/-! ## Cores, ports and the device -/

/-- Core-level registers and settings (R108 to R117, R193, R408). `tcmp` lists compare values that are not all ones, by
world. `last` is the slot last chosen in each quarter (R336). -/
structure CoreRec where
  core   : Nat
  halted : Bool
  split  : Nat
  tcmp   : List (Nat × DWord)
  bpa    : List DWord
  bpc    : DWord
  cnt    : List (BitVec 48)
  cnsel  : List Word
  last   : List Nat
  deriving DecidableEq, Repr

/-- An image saved in shadow storage, of `size` bytes (R314). Scratchpad bytes and poisoned half lines keep the keys they had; groups and
records keep their old slots. -/
structure Image where
  core    : Nat
  size    : Nat
  world   : BitVec 6
  saverF  : Bool
  split   : Nat
  tsave   : Nat
  groups  : List Group
  teams   : List Team
  spads   : List Host.Cell
  poison  : List Nat
  mcmds   : List MCmd
  joints  : List Joint
  ccmds   : List CCmd
  ncmds   : List NCmd
  slog    : List LogEnt
  easel   : List EaselSlot
  faultq  : List FaultSlot
  deriving DecidableEq, Repr

/-- A swap-out under way: the group that issued it, its world and level, the size of the image as it was checked, and whether
the image is written (R315). -/
structure SwapJob where
  core  : Nat
  slot  : Nat
  world : BitVec 6
  byF   : Bool
  size  : Nat
  done  : Bool
  deriving DecidableEq, Repr

/-- A clock plan from its issue until its issuer has gone on (R394): the issuing cohort, s and m, whether the table was in
use when it was searched, and whether the clocks have been set. -/
structure ClkPlan where
  core : Nat
  slot : Nat
  lanes : DWord
  st   : BitVec 5
  m    : Nat
  used : Bool
  done : Bool
  deriving DecidableEq, Repr

/-- What a memory controller counts (R374): the sketch's counters that are not 0, the candidates of each world, their published
lists and the time of publication; candidates are pages with their estimates. -/
structure HotCtl where
  n      : Nat
  sketch : List (Nat × Nat)
  cand   : List (Nat × List (Nat × Nat))
  pub    : List (Nat × List (Nat × Nat))
  last   : Nat
  deriving DecidableEq, Repr

/-- A packet held back by a full ingest ring, with the ring's header address (R346). -/
structure Held where
  id   : Nat
  die  : Nat
  rule : Nat
  ring : DWord
  pkt  : RawPacket
  deriving DecidableEq, Repr

/-- A ring's claim on a pause (R346): the ports and priorities that it pauses while `on`, when the assertion began, the
nanoseconds of its budget used before, and whether the budget is spent. -/
structure Pause where
  ring   : DWord
  claims : List (Nat × Nat)
  start : Nat
  used  : Nat
  on    : Bool
  spent : Bool
  deriving DecidableEq, Repr

/-- A doorbell store on its way to its SSD (R349). -/
structure Bell where
  id   : Nat
  port : Nat
  qid  : Nat
  head : Bool
  val  : Word
  deriving DecidableEq, Repr

/-- Where the device stands in its start (R28, R420 to R425). `off` is without power, `held` with RESET_N low, `rom` before
the ROM has run, `tripped` after a thermal trip. -/
inductive Phase where
  | off | held | rom | failed | running | tripped
  deriving DecidableEq, Repr

/-- A load whose data are still to arrive (R94). -/
structure Flight where
  id   : Nat
  core : Nat
  slot : Nat
  deriving DecidableEq, Repr

/-- The cohort whose instruction is being executed: its core, group slot, lanes and the instruction's words (R170). -/
structure Issue where
  core  : Nat
  slot  : Nat
  lanes : DWord
  words : List Word
  deriving DecidableEq, Repr

/-- What the model stops on. None of these is a fault of the specification: those are records (R299). -/
inductive Fault where
  /-- An instruction was executed with no resident group named as its issuer; `step` never does so. Safe: the device
  executes no instruction without an issuer. -/
  | noIssuer
  deriving DecidableEq, Repr

/-- What the model gives no meaning. -/
inductive Refusal where
  /-- The instruction of this mnemonic has no meaning in the model yet. Safe: nothing follows of it. -/
  | notModelled (mnemonic : String)
  deriving DecidableEq, Repr

/-- The state of the device. -/
structure State where
  /-- Steps taken; the argument of the open values (the model's own). -/
  tick     : Nat
  /-- Clock cycles since reset. -/
  cycle    : Nat
  /-- `c.time`, in nanoseconds (R407). -/
  time     : DWord
  /-- The cohort being executed (the model's own). -/
  cur      : Issue
  /-- Set by an instruction or device step that is not ready (the model's own). -/
  stalled  : Bool
  /-- Next fresh number for converged sets, loads, records and commands (the model's own). -/
  fresh    : Nat
  /-- What the outside world does next, oldest first. -/
  inputs   : List Instr
  /-- Device steps that are due and were not taken, with the cycle since which each has been (the model's own). -/
  due      : List (Instr × Nat)
  phase    : Phase
  bootstat : BitVec 4
  /-- Sites left unused (R14). -/
  unused   : List Nat
  /-- Measurement registers MR0 to MR15 (R426). -/
  mrs      : List (BitVec 512)
  /-- The protected flash range, IMGO and IMGSZ, while the copy is held (R429). -/
  copy     : Option (Nat × Nat)
  copyMem  : List Host.Cell
  /-- Stacks whose controllers have finished training (R430). -/
  trained  : List Nat
  groups   : List Group
  teams    : List Team
  launches : List Launch
  /-- Next sequence number of each launch queue that has given one (R323). -/
  lqNext   : List (Nat × Nat)
  /-- Cancel tokens: world and instance (R332). -/
  tokens   : List (Nat × Nat)
  pipes    : List Pipe
  cores    : List CoreRec
  faultq   : List FaultSlot
  easel    : List EaselSlot
  /-- Device-posted records that wait at their source, oldest first, with their cores (R297). -/
  pending  : List (Nat × EaselRec)
  flights  : List Flight
  slog     : List LogEnt
  tlbs     : List Tlb
  walks    : List Walk
  l1       : List L1Line
  icache   : List ICLine
  /-- Prefetches that are outstanding, oldest first (R227). -/
  prefs    : List Pref
  /-- Memory by storage key, in canonical form. -/
  mem      : List Host.Cell
  /-- Poisoned 64-byte half lines, by key / 64 (R219). -/
  poisoned : List Nat
  /-- Main-memory bytes written through 0xFE since the last reset (R430). -/
  seen     : List Nat
  /-- Pages of the ASID table that no `gesso` has scrubbed since EN was set: their bytes are any value until they are written
  (R357, R430). -/
  raw      : List Nat
  /-- Bytes of the flash that it is programming or erasing, as an offset and a length within one sector (R423). -/
  busy     : List (Nat × Nat)
  /-- Bytes of the flash that a reset caught busy: any value, but for bits cleared since, until their sector is erased (R423). -/
  flaky    : List (Nat × Nat)
  /-- Device-window registers that differ from their reset values, by offset / 8 (R354). -/
  dev      : List (Nat × DWord)
  /-- Page ownership entries that differ from their initial values, by index (R364). -/
  pot      : List (Nat × BitVec 16)
  /-- Reservations that wait for glazing: world and the new RESV word (R355). -/
  resv     : List (Nat × DWord)
  /-- What the memory controllers have counted (R374). -/
  hot      : List HotCtl
  snaps    : List Snap
  errs     : List ErrMark
  mcmds    : List MCmd
  joints   : List Joint
  ccmds    : List CCmd
  ncmds    : List NCmd
  ringq    : List RingWait
  /-- Packets that have left by the Ethernet ports, newest first (R340). -/
  wire     : List NetPacket
  /-- Packets sent and not acknowledged, oldest first (R340, R342). -/
  sentq    : List Sent
  /-- Packets received in a reliable mode, with the status they were acknowledged with: world, peer, number, status (R340). -/
  rx       : List (Nat × Nat × Nat × Nat)
  inmsgs   : List InMsg
  rodOut   : List RodFlow
  rodIn    : List RodFlow
  /-- Packets of sends received that no `recv` has matched (R289). -/
  sends    : List NetPacket
  /-- LIMIT and INUSE of each die's token pool (R414). -/
  pools    : List (Nat × Nat)
  tokq     : List TokReq
  /-- Atelier budgets that differ from zero: world, REM, WARN, EXH (R409). -/
  budgets  : List (Nat × Word × Word × Bool)
  /-- Counters of L2 slices, controllers and ports: selector bits 15..0, COUNT and configuration (R417). -/
  ucnt     : List (Nat × BitVec 48 × DWord)
  images   : List Image
  swaps    : List SwapJob
  plan     : Option ClkPlan
  /-- Ethernet ports that are down (R340). -/
  down     : List Nat
  held     : List Held
  pauses   : List Pause
  bells    : List Bell
  /-- Doorbell words forwarded to the SSDs, newest first (R349). -/
  rung     : List Bell
  deriving DecidableEq, Repr

/-- A core's registers at reset (R109, R116, R117, R421); the split before any placement is 256/768 (log entry 12). -/
def CoreRec.reset (c : Nat) : CoreRec :=
  { core := c, halted := false, split := 1, tcmp := [], bpa := [0, 0, 0, 0], bpc := 0,
    cnt := [0, 0, 0, 0, 0, 0, 0, 0], cnsel := [0, 0, 0, 0, 0, 0, 0, 0], last := [0, 0, 0, 0] }

/-- The device right after reset, before the ROM has run (R421, R424). -/
def State.reset : State :=
  { tick := 0, cycle := 0, time := 0, cur := { core := 0, slot := 0, lanes := 0, words := [] }, stalled := false,
    fresh := 0, inputs := [], due := [], phase := .rom, bootstat := 0, unused := [],
    mrs := List.replicate 16 0, copy := none, copyMem := [], trained := [], groups := [], teams := [], launches := [],
    lqNext := [], tokens := [], pipes := [], cores := [], faultq := [], easel := [], pending := [], flights := [],
    slog := [], tlbs := [], walks := [], l1 := [], icache := [], prefs := [], mem := [], poisoned := [], seen := [], raw := [], busy := [],
    flaky := [],
    dev := [], pot := [], resv := [], hot := [], snaps := [], errs := [], mcmds := [], joints := [], ccmds := [],
    ncmds := [], ringq := [], wire := [], sentq := [], rx := [], inmsgs := [], rodOut := [], rodIn := [], sends := [],
    pools := [(560, 0), (560, 0)], tokq := [], budgets := [], ucnt := [],
    images := [], swaps := [], plan := none, down := [0, 1, 2, 3, 4, 5, 6, 7], held := [],
    pauses := [], bells := [], rung := [] }

end Sys2Proof.Machine
end

