-- ==== Sys2Proof/Machine/Ops.lean ====
section
/-! DEFINITION. The named operations over groups, threads and records: finding and replacing a group, pushing history,
moving on, posting a fault record and parking on it (taking an exception), and resuming from one. -/

namespace Sys2Proof.Machine

/-- What a meaning answers. -/
abbrev Out := Host.Outcome State Fault Refusal

/-! ## Lanes and small helpers -/

/-- Bit `i` of a lane mask. -/
def laneBit (m : DWord) (i : Nat) : Bool := m.getLsbD i

/-- The mask of a list of lanes. -/
def laneMask (l : List Nat) : DWord := l.foldl (fun m i => m ||| (1#64 <<< i)) 0#64

/-- The mask of the lanes below `n`. -/
def lowLanes (n : Nat) : DWord := BitVec.ofNat 64 (2 ^ n - 1)

/-- How many bits of a mask are set. -/
def countLanes (m : DWord) : Nat := ((List.range 64).filter (laneBit m)).length

/-- The smallest number from `n` on that is not in a list. -/
def firstFree (used : List Nat) : Nat → Nat → Nat
  | n, 0 => n
  | n, k + 1 => if used.contains n then firstFree used (n + 1) k else n

/-- Level as `c.priv` holds it (R109). -/
def Priv.code : Priv → Nat
  | .u => 0 | .s => 1 | .f => 2

/-- Class as `c.kcls` holds it (R114). -/
def Cls.code : Cls → Nat
  | .p => 0 | .d => 1 | .n => 2

/-- Class of a two-bit code; 3 never occurs. -/
def Cls.ofCode (n : Nat) : Cls :=
  match n with
  | 0 => .p | 1 => .d | _ => .n

/-- Fault codes as a record holds them (R301). -/
def FaultCode.code : FaultCode → Nat
  | .ill => 0x01 | .priv => 0x02 | .poison => 0x03 | .align => 0x04 | .aperture => 0x05 | .pageMiss => 0x06
  | .pagePerm => 0x07 | .owner => 0x08 | .decode => 0x09 | .xclass => 0x0A | .spadFail => 0x0B | .rcvBad => 0x0C
  | .mxeFmt => 0x0D | .copyFmt => 0x0E | .netFmt => 0x0F | .svcBad => 0x10 | .swapState => 0x11 | .barTimeout => 0x12

/-! ## Groups -/

/-- The resident group at a core and slot. -/
def State.group? (s : State) (core slot : Nat) : Option Group :=
  s.groups.find? fun g => g.core == core && g.slot == slot

/-- Replace the group of the same core and slot. -/
def State.putGroup (s : State) (g : Group) : State :=
  { s with groups := s.groups.map fun h => if h.core == g.core && h.slot == g.slot then g else h }

/-- Is any freeze bit set (R312)? -/
def Group.frozen (g : Group) : Bool := g.fzS || g.fzF || g.fzB || g.fzC

/-- Change the threads of a group. -/
def Group.mapThreads (g : Group) (f : Thread → Thread) : Group := { g with threads := g.threads.map f }

/-- A thread of a group by its lane. -/
def Group.thread? (g : Group) (lane : Nat) : Option Thread := g.threads.find? fun t => t.lane == lane

/-- Has the lane exited? Lanes that do not exist count as exited. -/
def Group.exited (g : Group) (lane : Nat) : Bool :=
  match g.thread? lane with
  | some t => t.st == .exited
  | none => true

/-- Threads of the group that have not exited. -/
def Group.live (g : Group) : List Thread := g.threads.filter fun t => t.st != .exited

/-- The threads of the group that a mask names. -/
def Group.inMask (g : Group) (m : DWord) : List Thread := g.threads.filter fun t => laneBit m t.lane

/-- Run a meaning for the group whose cohort is being executed. -/
def onGroup (s : State) (k : Group → Out) : Out :=
  match s.group? s.cur.core s.cur.slot with
  | some g => k g
  | none => .fault .noIssuer

/-- The answer of an instruction or a device step that is not ready: nothing but the mark changes. -/
def notReady (s : State) : Out := .next { s with stalled := true }

/-- Bytes of the instruction being executed: its words are all fetched before it runs (R50, R51). -/
def State.instBytes (s : State) : DWord := BitVec.ofNat 64 (4 * s.cur.words.length)

/-! ## Moving on and the history -/

/-- The thread at its next instruction: `pc` past the words (R50, R105), ready again after the instruction's time. -/
def State.past (s : State) (t : Thread) : Thread :=
  { t with pc := t.pc + s.instBytes, since := s.cycle + 1 + Config.latency s.tick, bpSkip := false }

/-- The thread at address `a`, whose low two bits are dropped (R52). -/
def State.goto (s : State) (t : Thread) (a : DWord) : Thread :=
  { t with pc := a &&& ~~~3#64, since := s.cycle + 1 + Config.latency s.tick, bpSkip := false }

/-- Push one entry; the oldest of the sixteen is lost (R94). -/
def Thread.push (t : Thread) (e : HEnt) : Thread := { t with h := (e :: t.h).take 16 }

/-- Every thread of the issuing cohort moves past the instruction. -/
def movePast (s : State) (g : Group) : Group :=
  g.mapThreads fun t => if laneBit s.cur.lanes t.lane then s.past t else t

/-! ## Taking an exception

A fault posts a record in the core's fault record queue and parks the thread at its instruction (R97, R299, R300). -/

/-- A fault that a thread or a cohort takes: its code, the kind of access it concerns (9: none) and the addresses. -/
structure FaultInfo where
  code  : FaultCode
  acc   : Nat
  addr  : DWord
  addr2 : DWord
  deriving DecidableEq, Repr

/-- A fault that concerns no access (R299). -/
def FaultInfo.plain (c : FaultCode) : FaultInfo := { code := c, acc := 9, addr := 0, addr2 := 0 }

/-- The lowest slot of a core's fault record queue that holds no record (R298, R299). -/
def State.freeFaultSlot (s : State) (core : Nat) : Nat :=
  firstFree ((s.faultq.filter fun q => q.core == core && q.live).map (·.slot)) 0 2048

/-- Put a fault record into the lowest free slot of its core (R298). -/
def State.postFault (s : State) (core : Nat) (r : FaultRec) : State :=
  let n := s.freeFaultSlot core
  { s with
    faultq := { core := core, slot := n, live := true, delivered := none, seq := s.fresh, body := r } ::
      s.faultq.filter fun q => !(q.core == core && q.slot == n)
    fresh := s.fresh + 1 }

/-- The record of a fault of group `g` (R299). -/
def faultRec (g : Group) (lane : Nat) (coh : Bool) (i : FaultInfo) (pc issue done : DWord) (words : List Word) : FaultRec :=
  { code := i.code, world := g.world, dest := g.priv != .u, gslot := g.slot % 512, lane := lane, priv := g.priv, acc := i.acc,
    nw := words.length, coh := coh, ginst := g.ginst, pc := pc, addr := i.addr, addr2 := i.addr2, issue := issue,
    done := done, insn := words }

/-- Park a thread of a group on a fault slot: it leaves its converged set and keeps its `pc` (R97, R157). -/
def parkOn (slot : Nat) (t : Thread) : Thread := { t with st := .parkedFault slot }

/-- Change one thread of a group. -/
def Group.setThread (g : Group) (lane : Nat) (f : Thread → Thread) : Group :=
  g.mapThreads fun t => if t.lane == lane then f t else t

/-- Change the threads that a mask names in the group at a core and slot. -/
def State.mapLanes (s : State) (core slot : Nat) (m : DWord) (f : Thread → Thread) : State :=
  { s with groups := s.groups.map fun g =>
      if g.core == core && g.slot == slot then g.mapThreads fun t => if laneBit m t.lane then f t else t else g }

/-- One thread of a cohort takes a fault. A thread that already holds an ACC 7 record parks on that one and posts
nothing (R300). -/
def raiseLane (s : State) (g : Group) (lane : Nat) (pc issue done : DWord) (i : FaultInfo) (words : List Word) : State :=
  match g.thread? lane with
  | none => s
  | some t =>
    match t.logRec with
    | some q => s.mapLanes g.core g.slot (1#64 <<< lane) (parkOn q)
    | none =>
      let n := s.freeFaultSlot g.core
      (s.postFault g.core (faultRec g lane false i pc issue done words)).mapLanes g.core g.slot (1#64 <<< lane) (parkOn n)

/-- Threads of the issuing cohort fault on a per-thread instruction: one record each, in ascending lane order, with DONE
the lanes of the cohort that did not fault (R299, R300, R311). -/
def raiseLanes (s : State) (g : Group) (fs : List (Nat × FaultInfo)) : State :=
  let pc := match g.inMask s.cur.lanes with
    | t :: _ => t.pc
    | [] => 0
  let done := s.cur.lanes &&& ~~~(laneMask (fs.map (·.1)))
  fs.foldl (fun u f => raiseLane u g f.1 pc s.cur.lanes done f.2 s.cur.words) s

/-- A fault of the whole cohort `m` of `g`: one record, on which every thread parks but those that hold an ACC 7 record,
which park on theirs (R300). -/
def raiseMask (s : State) (g : Group) (m : DWord) (i : FaultInfo) (words : List Word) : State :=
  let ts := g.inMask m
  let own := ts.filter fun t => t.logRec.isSome
  let rest := ts.filter fun t => t.logRec.isNone
  let s1 := own.foldl (fun u t =>
    match t.logRec with
    | some q => u.mapLanes g.core g.slot (1#64 <<< t.lane) (parkOn q)
    | none => u) s
  match rest, ts with
  | _ :: _, t :: _ =>
    let n := s1.freeFaultSlot g.core
    (s1.postFault g.core
      (faultRec g t.lane true i t.pc m (laneMask (own.map (·.lane))) words)).mapLanes g.core g.slot
        (laneMask (rest.map (·.lane))) (parkOn n)
  | _, _ => s1

/-- The issuing cohort faults as a whole and the instruction has no effect (R83, R183, R300). -/
def raiseCohort (s : State) (g : Group) (i : FaultInfo) : Out := .next (raiseMask s g s.cur.lanes i s.cur.words)

/-- Run `k` at the levels that allow the instruction; below them the cohort raises PRIV (R7, R183). -/
def atLevel (s : State) (g : Group) (lvl : Priv) (k : Out) : Out :=
  if g.priv.code < lvl.code then raiseCohort s g (.plain .priv) else k

/-- No register at or above NREG is named: `regs` lists selectors with the number of registers each takes (R91). -/
def Group.nregOk (g : Group) (regs : List (Sel × Nat)) : Bool :=
  regs.all fun r => 0x20 ≤ r.1.toNat || r.1.toNat + r.2 ≤ g.nreg

/-- Run `k` if every vector register named is below NREG; else the cohort raises ILL (R91). -/
def withRegs (s : State) (g : Group) (regs : List (Sel × Nat)) (k : Out) : Out :=
  if g.nregOk regs then k else raiseCohort s g (.plain .ill)

/-! ## Resuming -/

/-- Threads of a group become ready at an address and form one converged set of their own (R157, R305). -/
def resumeAt (s : State) (core slot : Nat) (m : DWord) (at_ : Thread → DWord) : State :=
  { (s.mapLanes core slot m fun t =>
      { t with st := .ready, pc := at_ t &&& ~~~3#64, setId := s.fresh, path := [], since := s.cycle + 1 }) with
    fresh := s.fresh + 1 }

/-- `flt.done`'s answer to a record other than ACC 7: the threads parked on it retry their instruction (R305). -/
def resumeFault (s : State) (core slot n : Nat) : State :=
  match s.group? core slot with
  | none => s
  | some g =>
    resumeAt s core slot (laneMask ((g.threads.filter fun t => t.st == .parkedFault n).map (·.lane))) (·.pc)

end Sys2Proof.Machine
end

