-- ==== Sys2Proof/Machine/Operands.lean ====
section
/-! DEFINITION. Operands: vector, scalar and mask sources and destinations, the fourth operand, taint and poison, and the
prefix's masks and policies (R60 to R66, R93 to R102, R165, R166). -/

namespace Sys2Proof.Machine

/-! ## Widths -/

/-- Result widths (R95). -/
inductive DW where
  | w32 | w64 | w128
  deriving DecidableEq, Repr

/-- How many named registers a result takes. -/
def DW.regs : DW → Nat
  | .w32 => 1 | .w64 => 2 | .w128 => 4

/-- Width of an operand that is 32 bits or a pair. -/
def DW.of (wide : Bool) : DW := if wide then .w64 else .w32

/-- A value of up to 128 bits with its taint and poison. -/
structure Val where
  val    : BitVec 128
  taint  : Bool
  poison : Bool
  wait   : List Nat
  deriving DecidableEq, Repr

/-- A clean constant. -/
def Val.const (v : Nat) : Val := { val := BitVec.ofNat 128 v, taint := false, poison := false, wait := [] }

/-! ## Reading -/

/-- Does a command still own its registers for the threads of a mask, of which one has not returned from its `cb.wait`
(R273)? -/
def Owned.holds (o : Owned) (m : DWord) : Bool := (m &&& ~~~o.freed) != 0#64

/-- Is a register owned by a matrix command, as `lane` finds it (R273)? -/
def Group.ownsReg (g : Group) (n lane : Nat) : Bool :=
  g.owned.any fun o => o.lo ≤ n && n < o.lo + o.len && o.holds (1#64 <<< lane)

/-- Does a register that its own thread finds free still hold a command's result for the threads of a mask, which may not all
have returned (R273)? -/
def Group.owesReg (g : Group) (m : DWord) (n lane : Nat) : Bool :=
  g.owned.any fun o => !o.input && o.lo ≤ n && n < o.lo + o.len && o.holds m && !o.holds (1#64 <<< lane)

/-- The group as an instruction of the threads of a mask finds the registers of any lane: owned by a command until all of
them have returned (R273). -/
def Group.seenBy (g : Group) (m : DWord) : Group :=
  { g with owned := g.owned.map fun o => { o with freed := if o.holds m then 0#64 else BitVec.allOnes 64 } }

/-- Named register `n` of thread `t`. A register that a matrix command owns reads as any value (R124, R141); `tick` and
the register number pick the open value. -/
def readReg (tick : Nat) (g : Group) (t : Thread) (n : Nat) : Reg :=
  let r := t.v.getD n { val := 0, taint := false, poison := false, wait := [] }
  if g.ownsReg n t.lane then { r with val := Config.free 32 tick (t.lane * 64 + n) } else r

/-- Two registers as one value: the lower number holds the low half (R4, R93). -/
def joinRegs (a b : Reg) : Val :=
  { val := (b.val ++ a.val).setWidth 128, taint := a.taint || b.taint, poison := a.poison || b.poison,
    wait := a.wait ++ b.wait }

/-- A scalar register by number. -/
def Group.scalar (g : Group) (n : Nat) : Val64 := g.s.getD n { val := 0, taint := false, poison := false }

/-- A vector-class source of 32 or 64 bits (R64). -/
def vsource (tick : Nat) (g : Group) (t : Thread) (wide : Bool) (sel : Sel) : Val :=
  let n := sel.toNat
  if n < 0x20 then
    if wide then joinRegs (readReg tick g t n) (readReg tick g t (n + 1))
    else
      let r := readReg tick g t n
      { val := r.val.setWidth 128, taint := r.taint, poison := r.poison, wait := r.wait }
  else if n < 0x30 then
    let e := t.h.getD (n - 0x20) { val := 0, taint := false, poison := false, wait := [] }
    { val := if wide then e.val.setWidth 128 else (e.val.setWidth 32).setWidth 128, taint := e.taint, poison := e.poison,
      wait := e.wait }
  else if n < 0x3E then
    let x := g.scalar (n - 0x30)
    { val := if wide then x.val.setWidth 128 else (x.val.setWidth 32).setWidth 128, taint := x.taint,
      poison := x.poison, wait := [] }
  else if n == 0x3E then Val.const 0
  else Val.const (t.lane % 64)

/-- Four named registers from `n` as one value (R64). -/
def quadSource (tick : Nat) (g : Group) (t : Thread) (n : Nat) : Val :=
  let lo := joinRegs (readReg tick g t n) (readReg tick g t (n + 1))
  let hi := joinRegs (readReg tick g t (n + 2)) (readReg tick g t (n + 3))
  { val := (hi.val.setWidth 64 ++ lo.val.setWidth 64), taint := lo.taint || hi.taint, poison := lo.poison || hi.poison,
    wait := lo.wait ++ hi.wait }

/-- A source of any width; 128 bits come from named registers only (R64). -/
def source (tick : Nat) (g : Group) (t : Thread) (w : DW) (sel : Sel) : Val :=
  match w with
  | .w32 => vsource tick g t false sel
  | .w64 => vsource tick g t true sel
  | .w128 => quadSource tick g t sel.toNat

/-- A scalar-class source (R65): a register, zero, or the group index. -/
def ssource (g : Group) (sel : Sel) : Val64 :=
  let n := sel.toNat
  if n < 0x20 then g.scalar n
  else if n == 0x3F then { val := BitVec.ofNat 64 g.gid, taint := false, poison := false }
  else { val := 0, taint := false, poison := false }

/-- A mask register; `m0` reads as one bit for each lane (R100). -/
def Group.mask (g : Group) (n : Nat) : MReg :=
  if n == 0 then { val := lowLanes g.gw, poison := false }
  else
    let r := g.m.getD n { val := 0, poison := false }
    { r with val := r.val &&& lowLanes g.gw }

/-! ## Writing -/

/-- Write a mask whole: bits gw and above stay 0, and `m0` is not written (R100). -/
def Group.setMask (g : Group) (n : Nat) (r : MReg) : Group :=
  if n == 0 || 8 ≤ n then g else { g with m := g.m.set n { r with val := r.val &&& lowLanes g.gw } }

/-- Write a scalar; selectors other than registers discard (R65). -/
def Group.setScalar (g : Group) (sel : Sel) (v : Val64) : Group :=
  if sel.toNat < 0x20 then { g with s := g.s.set sel.toNat v } else g

/-- The registers that hold a value of a width, lowest number first. -/
def Val.split (v : Val) (w : DW) : List Reg :=
  (List.range w.regs).map fun i =>
    { val := v.val.extractLsb' (32 * i) 32, taint := v.taint, poison := v.poison, wait := v.wait }

/-- Replace the elements from `n` on. -/
def setFrom {α : Type} (l : List α) (n : Nat) : List α → List α
  | [] => l
  | x :: xs => setFrom (l.set n x) (n + 1) xs

/-- Write a result to a vector destination; `_` writes nothing (R64, R93). -/
def writeDst (t : Thread) (w : DW) (d : Sel) (v : Val) : Thread :=
  if d.toNat < 0x20 then { t with v := setFrom t.v d.toNat (v.split w) } else t

/-- The history entries of a result: one, or for 128 bits two, the low half first (R95). -/
def pushVal (t : Thread) (w : DW) (v : Val) : Thread :=
  let e (x : DWord) : HEnt := { val := x, taint := v.taint, poison := v.poison, wait := v.wait }
  match w with
  | .w32 => t.push (e ((v.val.setWidth 32).setWidth 64))
  | .w64 => t.push (e (v.val.setWidth 64))
  | .w128 => (t.push (e (v.val.setWidth 64))).push (e (v.val.extractLsb' 64 64))

/-- Does a prefix zero the destination of the lanes that it leaves inactive (R96)? -/
def pfxZeroes (p : Option Pfx) : Bool :=
  match p with
  | some q => q.z
  | none => false

/-- Note that threads of a mask wrote registers of a lane which matrix commands own: the commands' results there become any
value (R124, R273). A group that is armed notes what it writes before its next post (R270). -/
def Group.dirtyFrom (g : Group) (m : DWord) (lane : Nat) (w : DW) (d : Sel) : Group :=
  if 0x20 ≤ d.toNat || (g.owned.isEmpty && !g.armed) then g
  else
    let regs := (List.range w.regs).map fun i => (d.toNat + i, lane)
    let hit (o : Owned) : List (Nat × Nat) := regs.filter fun r => o.lo ≤ r.1 && r.1 < o.lo + o.len && o.holds m
    { g with
      owned := g.owned.map fun o => { o with dirty := hit o ++ o.dirty }
      armDirty := if g.armed then regs ++ g.armDirty else g.armDirty }

/-- Note that a lane's own thread wrote its registers. -/
def Group.dirtyRegs (g : Group) (lane : Nat) (w : DW) (d : Sel) : Group := g.dirtyFrom (1#64 <<< lane) lane w d

/-- Note the writes of a register of a width in lanes of a mask. -/
def Group.noteWrites (g : Group) (m : DWord) (w : DW) (d : Sel) : Group :=
  (g.inMask m).foldl (fun h t => h.dirtyRegs t.lane w d) g

/-- Note the writes of lanes of the group that `g` is now. -/
def State.noteWrites (s : State) (g : Group) (m : DWord) (w : DW) (d : Sel) : State :=
  match s.group? g.core g.slot with
  | some h => s.putGroup (h.noteWrites m w d)
  | none => s

/-! ## The prefix -/

/-- The lanes that a prefix leaves active, and whether its mask was poisoned. In an N group a poisoned mask is any mask
(R102, R120, R165). -/
def pfxLanes (tick : Nat) (g : Group) (p : Option Pfx) : DWord × Bool :=
  match p with
  | none => (lowLanes g.gw, false)
  | some q =>
    let r := g.mask q.msk.toNat
    let v := if r.poison then Config.free 64 tick 5000 else r.val
    (if q.inv then ~~~v &&& lowLanes g.gw else v &&& lowLanes g.gw, r.poison)

/-- Is the prefix mask poisoned in a group that must not consume poison (R102, R120)? -/
def pfxFaults (g : Group) (p : Option Pfx) : Bool :=
  match p with
  | none => false
  | some q => (g.mask q.msk.toNat).poison && g.kcls != .n

/-- Registers of a thread wait for loads as well, with the values they have. -/
def Thread.alsoWait (t : Thread) (w : DW) (d : Sel) (extra : List Nat) : Thread :=
  { t with v := (List.range w.regs).foldl (fun v i => v.modify (d.toNat + i) fun r => { r with wait := extra ++ r.wait }) t.v }

/-- What the prefix does with a thread of the cohort that its mask leaves inactive: under merge the destination is kept
and its value pushed, under zero both are zero; `_` pushes zero (R96, R166). `tick` is for owned registers. `extra` are the
loads that the destination and the entry wait for with the cohort's other lanes (R94). -/
def inactiveLane (tick : Nat) (g : Group) (p : Option Pfx) (w : DW) (d : Sel) (extra : List Nat) (t : Thread) : Thread :=
  if 0x20 ≤ d.toNat then pushVal t w { Val.const 0 with wait := extra }
  else if pfxZeroes p then
    let v : Val := { Val.const 0 with wait := extra }
    pushVal (writeDst t w d v) w v
  else
    let v := source tick g t w d
    pushVal (t.alsoWait w d extra) w { v with wait := extra ++ v.wait }

/-! ## The vector skeleton -/

/-- A vector instruction: its prefix, destination and width, its sources with whether each is a pair, and its fourth
operand, if it has one, with whether that is a pair (R62, R120). `old` adds the destination's own value as a source. -/
structure VInst where
  p    : Option Pfx
  d    : Sel
  dw   : DW
  srcs : List (Sel × Bool)
  four : Option Bool
  old  : Bool
  deriving DecidableEq, Repr

/-- The selectors a vector instruction reads in an active lane, in operand order. The fourth operand is the prefix's C,
or without a prefix the destination's old value, zero for `_` (R62). -/
def VInst.reads (x : VInst) : List (Sel × Bool) :=
  let dst : Sel := if x.d.toNat < 0x20 then x.d else 0x3E#6
  x.srcs ++
  (match x.four with
   | none => []
   | some w =>
     match x.p with
     | some q => [(q.c, w)]
     | none => [(dst, w)]) ++
  (if x.old then [(dst, x.dw == .w64)] else [])

/-- Every vector register the instruction names, with how many it takes. -/
def VInst.names (x : VInst) : List (Sel × Nat) :=
  (x.d, x.dw.regs) :: x.reads.map fun r => (r.1, if r.2 then 2 else 1)

/-- What an active lane computes: the result, the flags it raises, and its generator afterwards. -/
structure LaneRes where
  val   : BitVec 128
  flags : BitVec 5
  srg   : Word
  deriving DecidableEq, Repr

/-- The sources of a lane. -/
def VInst.values (x : VInst) (tick : Nat) (g : Group) (t : Thread) : List Val :=
  x.reads.map fun r => vsource tick g t r.2 r.1

/-- An active lane: write the result and push it, with the taint and poison of everything it read (R101, R120). -/
def activeLane (s : State) (x : VInst) (mp : Bool) (g : Group) (t : Thread) (r : LaneRes) : Thread :=
  let vs := x.values s.tick g t
  let v : Val := { val := r.val, taint := vs.any (·.taint), poison := mp || vs.any (·.poison), wait := [] }
  pushVal { writeDst t x.dw x.d v with srg := r.srg } x.dw v

/-- Does some active lane of the cohort still wait for an operand? -/
def VInst.waits (x : VInst) (s : State) (g : Group) (act : DWord) : Bool :=
  (g.inMask (s.cur.lanes &&& act)).any fun t => (x.values s.tick g t).any fun v => !v.wait.isEmpty

/-- A vector instruction of the integer and float classes, for the issuing cohort (R120, R139): `f` is the entry's
computation of one lane. The flags of the active lanes join `c.fflags` (R45). -/
def vectorIssue (s : State) (x : VInst) (f : Group → Thread → List DWord → LaneRes) : Out :=
  onGroup s fun g =>
    withRegs s g x.names <|
      if pfxFaults g x.p then raiseCohort s g (.plain .poison)
      else
        let (act, mp) := pfxLanes s.tick g x.p
        if x.waits s g act then notReady s
        else
          let res (t : Thread) : LaneRes := f g t ((x.values s.tick g t).map fun v => v.val.setWidth 64)
          let run := g.inMask (s.cur.lanes &&& act)
          let fl := run.foldl (fun m t => m ||| (res t).flags) 0#5
          let g1 := g.mapThreads fun t =>
            if laneBit s.cur.lanes t.lane then
              s.past (if laneBit act t.lane then activeLane s x mp g t (res t) else inactiveLane s.tick g x.p x.dw x.d [] t)
            else t
          let g2 := g1.noteWrites (if pfxZeroes x.p then s.cur.lanes else s.cur.lanes &&& act) x.dw x.d
          .next (s.putGroup { g2 with fflags := g.fflags ||| fl })

/-- A scalar-class instruction: once for the cohort, on the scalar lane; it pushes nothing (R99, R135). -/
def scalarIssue (s : State) (k : Group → Group) : Out :=
  onGroup s fun g => .next (s.putGroup (movePast s (k g)))

end Sys2Proof.Machine
end

