-- ==== Sys2Proof/Machine/Records.lean ====
section
/-! DEFINITION. The core's registers, the device window's registers, the easel, the error budgets and the world-fatal
event: what memory accesses and engines report to (R201, R294 to R298, R354, R409, R410). -/

namespace Sys2Proof.Machine

/-! ## Fields and maps -/

/-- Bits `hi` to `lo` of a word as a number. -/
def bits {n : Nat} (x : BitVec n) (hi lo : Nat) : Nat := x.toNat / 2 ^ lo % 2 ^ (hi + 1 - lo)

/-- One bit of a word. -/
def bitAt {n : Nat} (x : BitVec n) (i : Nat) : Bool := x.getLsbD i

/-- A number placed at bit `lo`. -/
def at_ (v lo : Nat) : Nat := v * 2 ^ lo

/-- Replace bits `hi` to `lo` of a doubleword. -/
def setBits (x : DWord) (hi lo v : Nat) : DWord :=
  BitVec.ofNat 64 (x.toNat / 2 ^ (hi + 1) * 2 ^ (hi + 1) + v % 2 ^ (hi + 1 - lo) * 2 ^ lo + x.toNat % 2 ^ lo)

/-- The value of a key in a sorted map, or a default. -/
def mapGet {α : Type} (d : α) : List (Nat × α) → Nat → α
  | [], _ => d
  | (a, b) :: r, k => if a == k then b else if k < a then d else mapGet d r k

/-- Set a key of a sorted map; a key at its default value is not listed. -/
def mapSet {α : Type} [BEq α] (d : α) : List (Nat × α) → Nat → α → List (Nat × α)
  | [], k, v => if v == d then [] else [(k, v)]
  | (a, b) :: r, k, v =>
    if a == k then (if v == d then r else (k, v) :: r)
    else if k < a then (if v == d then (a, b) :: r else (k, v) :: (a, b) :: r)
    else (a, b) :: mapSet d r k v

/-! ## Cores -/

/-- A core's registers. -/
def State.core (s : State) (c : Nat) : CoreRec := (s.cores.find? fun r => r.core == c).getD (.reset c)

/-- Replace a core's registers. -/
def State.setCore (s : State) (r : CoreRec) : State :=
  { s with cores := r :: s.cores.filter fun q => q.core != r.core }

/-- Is a core halted (R184)? -/
def State.isHalted (s : State) (c : Nat) : Bool := (s.core c).halted

/-- Device sites of the enabled cores, in core-index order (R14). -/
def State.siteOf (s : State) (c : Nat) : Nat :=
  ((List.range Config.sites).filter fun v => !s.unused.contains v).getD c c

/-- The die of a core: sites 0 to 143 are on die 0 (R13). -/
def State.dieOf (s : State) (c : Nat) : Nat := s.siteOf c / 144

/-! ## Device-window registers (R354) -/

/-- Offset of the registers from 0xFE00_0300_0000_0000. -/
def dev3 : Nat := 3 * 2 ^ 40

/-- Reset value of the doubleword at an offset: RETRY is 16 in each fabric domain entry (R341), EN 1 and ILOG 4 in each
hotness register (R374), SSC 1 (R392); everything else is 0. -/
def devReset (o : Nat) : DWord :=
  if dev3 + 0x2000 ≤ o && o < dev3 + 0x3000 && o % 64 == 8 then BitVec.ofNat 64 (at_ 16 40)
  else if dev3 + 0x800 ≤ o && o < dev3 + 0x880 then 0x104
  else if o == dev3 + 0x8100 then BitVec.ofNat 64 (at_ 1 24)
  else 0

/-- The doubleword register at an offset. -/
def State.devGet (s : State) (o : Nat) : DWord := mapGet (devReset o) s.dev (o / 8)

/-- Set the doubleword register at an offset. -/
def State.devSet (s : State) (o : Nat) (v : DWord) : State := { s with dev := mapSet (devReset o) s.dev (o / 8) v }

/-- TCTL (R357). -/
def State.tctl (s : State) : DWord := s.devGet dev3

/-- Translation and ownership checks enabled (R357). -/
def State.en (s : State) : Bool := bitAt s.tctl 63

/-- Page ownership initialised (R357). -/
def State.rdy (s : State) : Bool := bitAt s.tctl 62

/-- Offset of a world's entry (R355). -/
def worldOff (w : Nat) : Nat := dev3 + 0x1000 + 64 * w

/-- A world's KSTATE (R355). -/
def State.kstate (s : State) (w : Nat) : Nat := bits (s.devGet (worldOff w)) 1 0

/-- A world's GLZ (R355). -/
def State.glz (s : State) (w : Nat) : Nat := bits (s.devGet (worldOff w + 16)) 63 32

/-- A world's META (R355). -/
def State.metaPages (s : State) (w : Nat) : Nat := bits (s.devGet (worldOff w + 24)) 31 0

/-- Set a world's KSTATE. -/
def State.setKstate (s : State) (w v : Nat) : State := s.devSet (worldOff w) (setBits (s.devGet (worldOff w)) 1 0 v)

/-- Set a world's GLZ. -/
def State.setGlz (s : State) (w v : Nat) : State := s.devSet (worldOff w + 16) (setBits (s.devGet (worldOff w + 16)) 63 32 v)

/-- Set a world's META. -/
def State.setMetaPages (s : State) (w v : Nat) : State := s.devSet (worldOff w + 24) (setBits (s.devGet (worldOff w + 24)) 31 0 v)

/-- A 32-bit table entry: which half of a doubleword it is. -/
def State.devWord (s : State) (o : Nat) : Word := (s.devGet (o / 8 * 8)).extractLsb' (8 * (o % 8)) 32

/-- Set a 32-bit table entry. -/
def State.setDevWord (s : State) (o : Nat) (v : Word) : State :=
  let b := 8 * (o % 8)
  s.devSet (o / 8 * 8) (setBits (s.devGet (o / 8 * 8)) (b + 31) b v.toNat)

/-- A frame's class (R363). -/
def State.frameCls (s : State) (f : Nat) : Cls := Cls.ofCode (bits (s.devWord (dev3 + 0x100000 + 4 * f)) 1 0)

/-- Offset of a vault allocation entry (R384). -/
def vatOff (site seg : Nat) : Nat := dev3 + 0x40000 + 512 * site + 4 * seg

/-- A vault allocation entry (R384). -/
def State.vat (s : State) (site seg : Nat) : Word := s.devWord (vatOff site seg)

/-- A world's easel quota on a core (R297). -/
def State.quota (s : State) (core w : Nat) : Nat := bits (s.devWord (2 * 2 ^ 40 + 0x10000 * core + 4 * w)) 8 0

/-! ## The easel -/

/-- Live records of a core's easel. -/
def State.liveEasel (s : State) (core : Nat) : List EaselSlot := s.easel.filter fun q => q.core == core && q.live

/-- USED: slots held by thread-posted records of a world (R297). -/
def State.easelUsed (s : State) (core w : Nat) : Nat :=
  ((s.liveEasel core).filter fun q => q.posted && q.body.world.toNat == w).length

/-- Free slots of a core's easel. -/
def State.easelFree (s : State) (core : Nat) : Nat := 256 - (s.liveEasel core).length

/-- Put a record into the lowest free slot (R298). `batch` is the issue that posted it, `owner` the posting thread's team and
group. -/
def State.putEasel (s : State) (core : Nat) (posted : Bool) (batch : Nat) (owner : Nat × Nat) (r : EaselRec) : State × Nat :=
  let n := firstFree ((s.liveEasel core).map (·.slot)) 0 256
  ({ s with
    easel := { core := core, slot := n, live := true, delivered := none, answered := false, posted := posted,
               batch := batch, owner := owner, seq := s.fresh, body := r } :: s.easel.filter fun q => !(q.core == core && q.slot == n)
    fresh := s.fresh + 1 }, n)

/-- May a thread of a world post a record on a core now (R297)? -/
def State.easelRoom (s : State) (core w : Nat) : Bool :=
  !s.isHalted core && s.easelUsed core w < s.quota core w && 64 < s.easelFree core

/-- A device-posted record: it enters at once where there is room, else it waits at its source (R184, R297). -/
def State.postDevice (s : State) (core : Nat) (r : EaselRec) : State :=
  if s.isHalted core || s.easelFree core == 0 || s.pending.any (fun p => p.1 == core) then
    { s with pending := s.pending ++ [(core, r)] }
  else (s.putEasel core false 0 (0, 0) r).1

/-- A record with no posting group (R294). -/
def deviceRec (kind num world : Nat) (dest : Bool) (a : List DWord) : EaselRec :=
  { a := a, berr := 0, bcnt := 0, apoi := 0, kind := kind, num := num, world := BitVec.ofNat 6 world, dest := dest,
    gslot := 0, lane := 0, priv := .u, cls := .p, ginst := 0 }

/-! ## Event counters (R417 to R419) -/

/-- Post a counter's overflow record, unless an earlier one of the same counter is still in the easel (R418). -/
def State.postOverflow (s : State) (core sel own evt : Nat) : State :=
  let mine (r : EaselRec) : Bool := r.kind == 6 && r.num == 2 && r.a.getD 0 0 == BitVec.ofNat 64 sel
  if (s.liveEasel core).any fun q => mine q.body then s
  else s.postDevice core (deviceRec 0x06 2 own false [BitVec.ofNat 64 sel, BitVec.ofNat 64 evt])

/-- Does a counter of a configuration count an event of a world (R418)? World 64 stands for none. -/
def counts {n : Nat} (cfg : BitVec n) (allw : Bool) (world evt : Nat) : Bool :=
  bitAt cfg 8 && bits cfg 5 0 == evt && (allw || bits cfg 21 16 == 0 || bits cfg 21 16 == world)

/-- Add to one of a core's counters. -/
def State.bump (s : State) (core i n evt : Nat) : State :=
  let c := s.core core
  let sum := (c.cnt.getD i 0).toNat + n
  let s1 := s.setCore { c with cnt := c.cnt.set i (BitVec.ofNat 48 sum) }
  let cfg := c.cnsel.getD i 0
  if 2 ^ 48 ≤ sum && bitAt cfg 9 then s1.postOverflow core i (bits cfg 21 16) evt else s1

/-- Count `n` occurrences of a core event of a world. -/
def State.count (s : State) (core world evt n : Nat) : State :=
  if s.cores.isEmpty || n == 0 then s
  else (List.range 8).foldl (fun u i =>
    if counts ((s.core core).cnsel.getD i 0) false world evt then u.bump core i n evt else u) s

/-- COUNT and configuration of a unit counter (R417). -/
def State.unitCnt (s : State) (sel : Nat) : BitVec 48 × DWord := mapGet (0, 0) s.ucnt sel

/-- Add to a unit counter. -/
def State.bumpUnit (s : State) (sel n evt : Nat) : State :=
  let (c, cfg) := s.unitCnt sel
  let sum := c.toNat + n
  let s1 := { s with ucnt := mapSet (0, 0) s.ucnt sel (BitVec.ofNat 48 sum, cfg) }
  if 2 ^ 48 ≤ sum && bitAt cfg 9 then s1.postOverflow (bits cfg 31 23) sel (bits cfg 21 16) evt else s1

/-- Count `n` occurrences of an event of a world in a unit: an L2 slice (1), a memory controller (2) or a NIC port (3). -/
def State.countUnit (s : State) (unit index world evt n : Nat) : State :=
  if s.ucnt.isEmpty then s
  else (List.range 4).foldl (fun u i =>
    let sel := unit * 4096 + index * 16 + i
    if counts (s.unitCnt sel).2 (bitAt (s.unitCnt sel).2 22) world evt then u.bumpUnit sel n evt else u) s

/-- Count an event of a NIC port. -/
def State.countPort (s : State) (port world evt : Nat) : State := s.countUnit 3 port world evt 1

/-! ## Who acts -/

/-- A group's thread as the one who acts. -/
def Group.poster (g : Group) (lane : Nat) : Poster :=
  { core := g.core, slot := g.slot, lane := lane, team := g.team, priv := g.priv, world := g.world, asid := g.asid,
    kcls := g.kcls, prom := g.prom, ginst := g.ginst, lq := g.lq.toNat, lseq := g.lseq.toNat }

/-- An unretired launch. -/
def State.launch? (s : State) (lq lseq : Nat) : Option Launch := s.launches.find? fun l => l.lq == lq && l.lseq == lseq

/-- Replace a launch. -/
def State.setLaunch (s : State) (l : Launch) : State :=
  { s with launches := s.launches.map fun k => if k.lq == l.lq && k.lseq == l.lseq then l else k }

/-- A resident team. -/
def State.team? (s : State) (num : Nat) : Option Team := s.teams.find? fun t => t.num == num

/-- Replace a team. -/
def State.setTeam (s : State) (t : Team) : State := { s with teams := s.teams.map fun u => if u.num == t.num then t else u }

/-- Is an instance of a world cancelled (R332)? -/
def State.cancelled (s : State) (world ginst : Nat) : Bool := s.tokens.contains (world, ginst)

/-! ## Error budgets (R409, R410) -/

/-- Freeze the resident groups that a test names with FZ_B (R410). -/
def State.freezeB (s : State) (p : Group → Bool) : State :=
  { s with groups := s.groups.map fun g => if p g then { g with fzB := true } else g }

/-- Freeze the groups that a test names with FZ_F, those that are saved among them (R410). -/
def State.freezeF (s : State) (p : Group → Bool) : State :=
  let mark (g : Group) : Group := if p g then { g with fzF := true } else g
  { s with groups := s.groups.map mark, images := s.images.map fun i => { i with groups := i.groups.map mark } }

/-- Cores that hold groups of a launch, in ascending order of index. -/
def State.launchCores (s : State) (lq lseq : Nat) : List Nat :=
  (List.range Config.cores).filter fun c => s.groups.any fun g => g.core == c && g.lq.toNat == lq && g.lseq.toNat == lseq

/-- What a charge leaves of REM, and whether it crosses the threshold. -/
def charged (rem warn u : Nat) : Nat × Bool := (rem - u, decide (warn < rem) && decide (rem - u ≤ warn))

/-- Charge a launch's budget for an event on a core. -/
def State.chargeLaunch (s : State) (l : Launch) (core u : Nat) : State :=
  if l.rem == 0#32 then s
  else
    let (r, cross) := charged l.rem.toNat l.warn.toNat u
    let at_ := if (s.launchCores l.lq l.lseq).contains core then core else (s.launchCores l.lq l.lseq).headD 0
    let world := bits l.image 261 256
    let ginst := bits l.image 303 288
    let launchWord := BitVec.ofNat 64 (l.lseq * 2 ^ 32 + l.lq * 2 ^ 16 + ginst)
    let rec_ (k : Nat) := deviceRec k 0 world false [BitVec.ofNat 64 r, launchWord]
    let s1 := s.setLaunch { l with rem := BitVec.ofNat 32 r, exh := l.exh || r == 0 }
    let s2 := if cross then s1.postDevice at_ (rec_ 0x07) else s1
    if r == 0 then
      (s2.postDevice at_ (rec_ 0x08)).freezeB fun g => g.lq.toNat == l.lq && g.lseq.toNat == l.lseq
    else s2

/-- An atelier's budget: REM, WARN, EXH (R409). -/
def State.budget (s : State) (w : Nat) : Word × Word × Bool := mapGet (0, 0, false) s.budgets w

/-- Charge an atelier's budget. -/
def State.chargeWorld (s : State) (w u : Nat) : State :=
  let (rem, warn, exh) := s.budget w
  if rem == 0#32 then s
  else
    let (r, cross) := charged rem.toNat warn.toNat u
    let rec_ (k : Nat) := deviceRec k 0 w true [BitVec.ofNat 64 r, 0]
    let s1 := { s with budgets := mapSet (0, 0, false) s.budgets w (BitVec.ofNat 32 r, warn, exh || r == 0) }
    let s2 := if cross then s1.postDevice 0 (rec_ 0x07) else s1
    if r == 0 then (s2.postDevice 0 (rec_ 0x08)).freezeF fun g => g.priv == .u && g.world.toNat == w else s2

/-- The party of a poster as a command or a unit of the device acts for it: no group has its slot (R409). -/
def Poster.asEngine (p : Poster) : Poster := { p with slot := 2 ^ 32 }

/-- Is the acting group a service group? -/
def State.isService (s : State) (p : Poster) : Bool :=
  match s.group? p.core p.slot with
  | some g => g.service.isSome && g.lq.toNat == p.lq && g.lseq.toNat == p.lseq
  | none => false

/-- Charge an error met by a group, or by an engine command of its poster (`asEngine`), to the launch and the atelier; an error
that a service group itself meets only to the atelier (R409). -/
def State.charge (s : State) (p : Poster) (u : Nat) : State :=
  let s1 := if s.isService p then s
    else match s.launch? p.lq p.lseq with
      | some l => if l.started.isSome then s.chargeLaunch l p.core u else s
      | none => s
  s1.chargeWorld p.world.toNat u

/-! ## World-fatal failures and retired keys (R201, R373) -/

/-- Retire a world's key: its groups halt, its TLB entries go, its snapshots end (R373, R391). -/
def State.retireKey (s : State) (w : Nat) : State :=
  let s1 := s.setKstate w 2
  let die (g : Group) : Group := if g.world.toNat == w then { g with dead := true } else g
  { s1 with
    groups := s1.groups.map die
    images := s1.images.map fun i => { i with groups := i.groups.map die }
    tlbs := s1.tlbs.filter fun t => t.world.toNat != w
    l1 := s1.l1.filter fun t => t.world.toNat != w
    snaps := s1.snaps.filter fun t => t.world.toNat != w }

/-- A failed glaze check on a line of a world at a physical address (R201). The record goes to core 0 (log entry 13). -/
def State.worldFatal (s : State) (w pa : Nat) : State :=
  (s.retireKey w).postDevice 0 (deviceRec 0x0C 0 w true [BitVec.ofNat 64 pa])

end Sys2Proof.Machine
end

