-- ==== Sys2Proof/Machine/Memory.lean ====
section
/-! DEFINITION. Storage: every byte the device holds outside its registers has a key, and memory is a list of keys and
bytes in one canonical form. Page ownership, unscrubbed pages, snapshots, poison and soft errors decide what a read
returns (R189, R203, R206, R219, R364, R390, R429, R430). -/

namespace Sys2Proof.Machine

/-! ## Keys -/

/-- Key of physical main memory (R203); the device window's own address. -/
def mainKey (pa : Nat) : Nat := 0xFE * 2 ^ 56 + pa

/-- Key of a flash byte (R422). -/
def flashKey (o : Nat) : Nat := 0xFE * 2 ^ 56 + 2 ^ 40 + o

/-- Key of a vault byte by the offset of window 0xF2 (R190). -/
def vaultKey (off : Nat) : Nat := 0xF2 * 2 ^ 56 + off

/-- Offset in window 0xF2 of a byte of the vault at a device site (R13, R190). -/
def vaultOff (site o : Nat) : Nat := at_ (site / 144) 32 + at_ (site % 144) 24 + o

/-- Key of a byte of a core's scratchpad. -/
def spadKey (core off : Nat) : Nat := 0xF0 * 2 ^ 56 + core * 2 ^ 20 + off

/-- Is the key one of main memory? -/
def isMain (k : Nat) : Bool := mainKey 0 ≤ k && k < flashKey 0

/-- Is the key one of the boot flash? -/
def isFlash (k : Nat) : Bool := flashKey 0 ≤ k && k < flashKey (2 ^ 29)

/-- Is the key one of a vault? -/
def isVault (k : Nat) : Bool := vaultKey 0 ≤ k && k < vaultKey (2 ^ 33)

/-- What an unlisted key reads as: erased flash is all ones, everything else zero (log entry 14). -/
def blank (k : Nat) : Byte := if isFlash k then 0xFF#8 else 0#8

/-! ## The list of cells -/

/-- Read one cell. -/
def memGet : List Host.Cell → Nat → Byte
  | [], k => blank k
  | (a, b) :: r, k => if a == k then b else if k < a then blank k else memGet r k

/-- Write one cell, keeping the canonical form. -/
def memSet : List Host.Cell → Nat → Byte → List Host.Cell
  | [], k, v => if v == blank k then [] else [(k, v)]
  | (a, b) :: r, k, v =>
    if a == k then (if v == blank k then r else (k, v) :: r)
    else if k < a then (if v == blank k then (a, b) :: r else (k, v) :: (a, b) :: r)
    else (a, b) :: memSet r k v

/-- The canonical form: keys strictly rising and no cell equal to what an unlisted key reads as. -/
def Memory.wf : List Host.Cell → Bool
  | [] => true
  | [(a, b)] => b != blank a
  | (a, b) :: (c, d) :: r => b != blank a && decide (a < c) && Memory.wf ((c, d) :: r)

/-- Write bytes from a key on. -/
def memFill : List Host.Cell → Nat → List Byte → List Host.Cell
  | m, _, [] => m
  | m, k, b :: bs => memFill (memSet m k b) (k + 1) bs

/-- Drop every cell of a range: it reads as unlisted. -/
def memDrop (m : List Host.Cell) (lo hi : Nat) : List Host.Cell := m.filter fun c => !(lo ≤ c.1 && c.1 < hi)

/-! ## Page ownership (R357, R364) -/

/-- Page number of a main-memory key: its physical address over 4 KiB. -/
def pageOf (k : Nat) : Nat := (k - mainKey 0) / 4096

/-- Slots that exist in a frame of a class (R204). -/
def Cls.slots : Cls → Nat
  | .p => 512 | .d => 560 | .n => 576

/-- Does a page's slot exist in its frame (R203)? -/
def State.slotExists (s : State) (page : Nat) : Bool := page % 1024 < (s.frameCls (page / 1024)).slots

/-- Index of a page's entry (R357). -/
def potIdx (page : Nat) : Nat := 576 * (page / 1024) + page % 1024

/-- Is the page one of the POT's own (R357)? -/
def State.potPage (s : State) (page : Nat) : Bool :=
  let f := bits s.tctl 57 40
  s.en && f ≤ page / 1024 && page / 1024 < f + 144 && page % 1024 < 512

/-- What initialisation makes of a page's entry: firmware for the POT's pages and the ASID table's 64, else free and
unscrubbed (R357). -/
def State.potInit (s : State) (page : Nat) : BitVec 16 :=
  let a := bits s.tctl 39 18 * 64
  if s.potPage page || (a ≤ page && page < a + 64) then BitVec.ofNat 16 (at_ 4 13) else BitVec.ofNat 16 (at_ 1 12)

/-- A page's entry (R364). -/
def State.potGet (s : State) (page : Nat) : BitVec 16 := mapGet (s.potInit page) s.pot (potIdx page)

/-- Set a page's entry. -/
def State.potSet (s : State) (page : Nat) (e : BitVec 16) : State :=
  { s with pot := mapSet (s.potInit page) s.pot (potIdx page) e }

/-- STATE of an entry. -/
def potState (e : BitVec 16) : Nat := bits e 15 13

/-- WORLD of an entry. -/
def potWorld (e : BitVec 16) : Nat := bits e 5 0

/-- The L2 slice that is the home of a byte of main memory: one of the die whose stacks hold it, as a fixed hash chooses
(R199, log entry 101). -/
def homeSlice (k : Nat) : Nat := pageOf k / 1024 / 32768 / 4 * 48 + Config.homeHash ((k - mainKey 0) / 128) % 48

/-- The memory controller of a byte of main memory: pages alternate between the two of their stack (R203). -/
def homeController (k : Nat) : Nat := 2 * (pageOf k / 1024 / 32768) + pageOf k % 2

/-- Count an event of an L2 slice or a memory controller for a line of main memory: its world is that of the page (R418). -/
def State.countLine (s : State) (k evt n : Nat) : State :=
  if !isMain k || s.ucnt.isEmpty then s
  else
    let w := potWorld (s.potGet (pageOf k))
    if evt < 0x2C then s.countUnit 1 (homeSlice k) w evt n else s.countUnit 2 (homeController k) w evt n

/-- Reads of the page give no verdict, and any value but for what was written since the reset (R430). -/
def State.unsettled (s : State) (page : Nat) : Bool := !s.en || bitAt (s.potGet page) 12

/-- A byte of the POT itself (R357). -/
def State.potByte (s : State) (page i : Nat) : Byte :=
  let f := bits s.tctl 57 40
  let o := (page / 1024 - f) * 2 ^ 21 + page % 1024 * 4096 + i
  let idx := o / 2
  let e := s.potGet (idx / 576 * 1024 + idx % 576)
  e.extractLsb' (8 * (o % 2)) 8

/-! ## Snapshots (R390) -/

/-- Position of an element of a list. -/
def indexOf? (l : List Nat) (x : Nat) : Option Nat := (List.range l.length).find? fun i => l[i]? == some x

/-- Where a byte of a snapshot area really reads from: the region line while it is not preserved; `none` when its value
is open. -/
def State.snapKey (s : State) (k : Nat) : Option Nat :=
  let page := pageOf k
  match s.snaps.find? fun n => n.pages.any fun p => p.2 == page with
  | none => some k
  | some n =>
    match n.pages.find? fun p => p.2 == page with
    | none => some k
    | some p =>
      let line := p.1 * 32 + k % 4096 / 128
      if n.lost.contains line then none
      else if n.kept.contains line then some k
      else some (mainKey (p.1 * 4096 + k % 4096))

/-! ## Reading and writing one byte -/

/-- Reads of a page of main memory give any value and no verdict: metadata pages, and pages of a world whose key is not
active (R365, R373). -/
def State.sealedPage (s : State) (page : Nat) : Bool :=
  let e := s.potGet page
  potState e == 3 || s.kstate (potWorld e) != 1

/-- Read one byte of storage for a lane; a byte of any value may differ from lane to lane (R2). -/
def State.readKeyFor (s : State) (lane k : Nat) : Byte :=
  let any : Byte := Config.free 8 s.tick (lane * 2 ^ 72 + k)
  if isMain k then
    let page := pageOf k
    if s.potPage page then s.potByte page (k % 4096)
    else if s.unsettled page then (if s.seen.contains k then memGet s.mem k else any)
    else if s.sealedPage page || (s.raw.contains page && !s.seen.contains k) then any
    else match s.snapKey k with
      | some j => memGet s.mem j
      | none => any
  else if isFlash k then
    let o := k - flashKey 0
    let chip := if s.flaky.any fun f => f.1 ≤ o && o < f.1 + f.2 then any &&& memGet s.mem k else memGet s.mem k
    match s.copy with
    | some (o, n) => if flashKey o ≤ k && k < flashKey (o + n) then memGet s.copyMem k else chip
    | none => chip
  else memGet s.mem k

/-- Read one byte of storage. -/
def State.readKey (s : State) (k : Nat) : Byte := s.readKeyFor 0 k

/-- Half lines of the poison granule of a key in storage of a class (R204, R219). -/
def granule (c : Cls) (k : Nat) : List Nat :=
  match c with
  | .p => [k / 128 * 2, k / 128 * 2 + 1]
  | .d => [k / 64]
  | .n => []

/-- Class of the storage that a key names (R205). -/
def State.clsOf (s : State) (k : Nat) : Cls :=
  if isMain k then s.frameCls (pageOf k / 1024)
  else if isVault k then
    let off := k - vaultKey 0
    Cls.ofCode (bits (s.vat (off / 2 ^ 32 * 144 + off / 2 ^ 24 % 256) (off % 2 ^ 23 / 65536)) 9 8)
  else
    match s.teams.find? fun t => spadKey t.core t.base ≤ k && k < spadKey t.core (t.base + t.size) with
    | some t => t.kcls
    | none => .p

/-- Is a byte poisoned in storage? A line of a snapshot's area that is not preserved yet is its region's (R390). -/
def State.isPoisoned (s : State) (k : Nat) : Bool :=
  if !isMain k then s.poisoned.contains (k / 64)
  else if s.unsettled (pageOf k) || s.sealedPage (pageOf k) then false
  else match s.snapKey k with
    | some j => s.poisoned.contains (j / 64)
    | none => false

/-- Mark half lines poisoned. -/
def State.markPoison (s : State) (hs : List Nat) : State :=
  { s with poisoned := hs.filter (fun h => !s.poisoned.contains h) ++ s.poisoned }

/-- Clear half lines. -/
def State.clearPoison (s : State) (hs : List Nat) : State := { s with poisoned := s.poisoned.filter fun h => !hs.contains h }

/-! ## Soft errors met on a read (R103, R201, R206) -/

/-- A place of a group whose slot gets another number. -/
def placeInSlot (p : ErrPlace) (core old new : Nat) : ErrPlace :=
  let k (c n : Nat) : Nat := if c == core && n == old then new else n
  match p with
  | .reg c n l r => .reg c (k c n) l r
  | .hist c n l r h => .hist c (k c n) l r h
  | .base c n b r => .base c (k c n) b r
  | .hbase c n b r h => .hbase c (k c n) b r h
  | .scal c n r h => .scal c (k c n) r h
  | .mask c n r h => .mask c (k c n) r h
  | .frame c n i w => .frame c (k c n) i w
  | .ctl c n r h => .ctl c (k c n) r h
  | .byte _ | .l1 _ _ | .ic _ _ | .layer _ _ => p

/-- Lanes of a block that shares a base (R104). -/
def blockLanes (b : Nat) : DWord := 0xFFFF#64 <<< (16 * b)

/-- Lanes whose registers a place holds. -/
def placeLanes (p : ErrPlace) : DWord :=
  match p with
  | .reg _ _ l _ | .hist _ _ l _ _ => 1#64 <<< l
  | .base _ _ b _ | .hbase _ _ b _ _ => blockLanes b
  | _ => 0

/-- The number of the register, or of the entry of the history, that a place of the registers names. -/
def placeEntry (p : ErrPlace) : Option Nat :=
  match p with
  | .reg _ _ _ n | .base _ _ _ n | .hist _ _ _ n _ | .hbase _ _ _ n _ => some n
  | _ => none

/-- The place with another entry of the history. -/
def placeAtEntry (p : ErrPlace) (i : Nat) : ErrPlace :=
  match p with
  | .hist c n l _ h => .hist c n l i h
  | .hbase c n b _ h => .hbase c n b i h
  | _ => p

/-- Where the word of a soft error is in a lane. -/
def ErrMark.entry (m : ErrMark) (lane : Nat) : Option Nat :=
  if !laneBit (placeLanes m.place) lane then none
  else match m.off.find? fun x => x.1 == lane with
    | some x => x.2
    | none => placeEntry m.place

/-- The soft error once its word is elsewhere in each lane; none when no lane has it any longer. -/
def ErrMark.move (m : ErrMark) (new : Nat → Option Nat) : Option ErrMark :=
  let lanes := ((List.range 64).filter fun l => laneBit (placeLanes m.place) l).map fun l => (l, new l)
  match lanes.filterMap (·.2) with
  | [] => none
  | i :: _ => some { m with place := placeAtEntry m.place i, off := lanes.filter fun x => x.2 != some i }

/-- Forget the soft errors of the places that a test names: they are written anew, or gone. -/
def State.dropMarks (s : State) (p : ErrPlace → Bool) : State :=
  if s.errs.isEmpty then s else { s with errs := s.errs.filter fun m => !p m.place }

/-- Bytes of a range of storage that are written anew carry no soft error (R193, R197, R206). -/
def State.dropByteMarks (s : State) (lo hi : Nat) : State :=
  s.dropMarks fun p => match p with
    | .byte k => lo ≤ k && k < hi
    | _ => false

/-- An S group of a world and address space with class P, as which units of the device make accesses and are charged
(R206, R348, R380). -/
def supervisor (core : Nat) (world : BitVec 6) (asid : BitVec 13) : Poster :=
  { core := core, slot := 0, lane := 0, team := 0, priv := .s, world := world, asid := asid, kcls := .p, prom := false
    ginst := 0, lq := 64, lseq := 0 }

/-- Units that an error of a grade costs (R103, R206). -/
def errUnits (g : ErrGrade) : Nat := if g == .corrected then 1 else 16

/-- One error that a read of its line meets. Nothing is raised for a page that gives no verdict (R373, R430), and in a granule
that is poisoned already a read charges nothing new (R206). -/
def State.meetOne (s : State) (p : Poster) (m : ErrMark) (k : Nat) : State :=
  let c := s.clsOf k
  let s1 := { s with errs := s.errs.filter fun e => e != m }
  if isMain k && (s.unsettled (pageOf k) || s.sealedPage (pageOf k)) then s
  else if c != .n && s.isPoisoned k then s1
  else match m.grade with
    | .corrected => (s1.charge p 1).countLine k 0x30 1
    | .detected => (s1.markPoison (match c with
        | .n => []
        | _ => [k / 128 * 2, k / 128 * 2 + 1])).charge p 16 |>.countLine k 0x31 1
    | .missed =>
      if c == .n then (s.charge p 16).countLine k 0x31 1
      else s1.worldFatal (potWorld (s.potGet (pageOf k))) (k - mainKey 0)

/-- The errors of registers or of words of a group that a test names are met: each is charged once (R103). -/
def State.meetRegs (s : State) (p : Poster) (hit : ErrPlace → Bool) : State :=
  if s.errs.isEmpty then s
  else
    (s.errs.filter fun m => hit m.place).foldl (fun u m =>
      (({ u with errs := u.errs.filter fun e => e != m } : State).charge p (errUnits m.grade)).count
        p.core p.world.toNat (if m.grade == .corrected then 0x1B else 0x1C) 1) s

/-- Where a byte is read from: the region line of a snapshot's area line that is not preserved yet (R390). -/
def State.sourceOf (s : State) (k : Nat) : Nat := if isMain k then (s.snapKey k).getD k else k

/-- The errors in the lines that some keys are read from. -/
def State.marksIn (s : State) (ks : List Nat) : List (ErrMark × Nat) :=
  s.errs.filterMap fun m => match m.place with
    | .byte k => if ks.any fun j => s.sourceOf j / 128 == k / 128 then some (m, k) else none
    | _ => none

/-- The errors that a read of bytes meets. -/
def State.meetErrors (s : State) (p : Poster) (ks : List Nat) : State :=
  if s.errs.isEmpty then s else (s.marksIn ks).foldl (fun u q => u.meetOne p q.1 q.2) s

/-- The errors that a look at the check storage alone meets, which makes no MAC check: patrol and the device's own copies
(R207, R390). The owner of the line is charged. -/
def State.meetScrub (s : State) (ks : List Nat) : State :=
  if s.errs.isEmpty then s
  else ((s.marksIn ks).filter fun q => q.1.grade != .missed).foldl (fun u q =>
    let owner := if isMain q.2 then potWorld (u.potGet (pageOf q.2))
      else bits (u.vat ((q.2 - vaultKey 0) / 2 ^ 32 * 144 + (q.2 - vaultKey 0) / 2 ^ 24 % 256)
        ((q.2 - vaultKey 0) % 2 ^ 23 / 65536)) 5 0
    u.meetOne (supervisor 0 (BitVec.ofNat 6 owner) 0) q.1 q.2) s

/-- Does an N line read so fail its glaze check, which poisons what is delivered (R201)? -/
def State.badGlaze (s : State) (ks : List Nat) : Bool :=
  (s.marksIn ks).any fun q => q.1.grade == .missed && s.clsOf q.2 == .n && !s.unsettled (pageOf q.2) && !s.sealedPage (pageOf q.2)

/-- Does a read of the bytes fail a glaze check whose failure is fatal to a world (R201)? What depends on the data then
takes no effect outside the core (R254). -/
def State.failsGlaze (s : State) (ks : List Nat) : Bool :=
  (s.marksIn ks).any fun q =>
    q.1.grade == .missed && s.clsOf q.2 != .n && !s.unsettled (pageOf q.2) && !s.sealedPage (pageOf q.2) && !s.isPoisoned q.2

/-- Is a byte one of another world's line that fails its glaze check? Only registers of that world may hold such data, so what
a reader of another world gets is any value, on which nothing depends (R201, R254, log entry 98). -/
def State.withheld (s : State) (world : BitVec 6) (k : Nat) : Bool :=
  !s.errs.isEmpty && isMain k && s.failsGlaze [k] && potWorld (s.potGet (pageOf (s.sourceOf k))) != world.toNat

/-- Do the bytes of a read carry poison? -/
def State.readsPoison (s : State) (ks : List Nat) : Bool := ks.any s.isPoisoned || s.badGlaze ks

/-! ## Writing -/

/-- Copy a line of a snapshot's region, page `i` of it, with its poison to the snapshot's area and set its bit; an error that the
copy meets is charged to the owning atelier (R390). -/
def State.keepLine (s : State) (n : Snap) (i k : Nat) : State :=
  let line := pageOf k * 32 + k % 4096 / 128
  let area := (n.pages.map (·.2)).getD i 0
  let src := mainKey (pageOf k * 4096 + k % 4096 / 128 * 128)
  let dst := mainKey (area * 4096 + k % 4096 / 128 * 128)
  let bit := 32 * i + k % 4096 / 128
  let bo := n.boff + bit / 8
  let bk := mainKey (n.bits.getD (bo / 4096) 0 * 4096 + bo % 4096)
  let s0 := (s.meetScrub [src]).dropByteMarks dst (dst + 128)
  let m1 := memFill s0.mem dst ((List.range 128).map fun j => memGet s0.mem (src + j))
  let m2 := memSet m1 bk (memGet m1 bk ||| BitVec.ofNat 8 (2 ^ (bit % 8)))
  let halves := (if s0.poisoned.contains (src / 64) then [dst / 64] else []) ++
    (if s0.poisoned.contains (src / 64 + 1) then [dst / 64 + 1] else [])
  let keep (x : Snap) : Snap := if x.handle == n.handle then { x with kept := line :: x.kept } else x
  let s1 : State := { s0 with mem := m2, snaps := s0.snaps.map keep }
  (s1.clearPoison [dst / 64, dst / 64 + 1]).markPoison halves

/-- Preserve the snapshot line that a write is about to change, and count the copy (R390, R419). A line whose snapshot is any
value is copied like the others. -/
def State.preserve (s : State) (k : Nat) : State :=
  match s.snaps.find? fun n => (n.pages.any fun p => p.1 == pageOf k) && !n.kept.contains (pageOf k * 32 + k % 4096 / 128) with
  | none => s
  | some n =>
    match indexOf? (n.pages.map (·.1)) (pageOf k) with
    | none => s
    | some i => (s.keepLine n i k).countLine k 0x2B 1

/-- A write to a snapshot's area makes its line open, one to its bitmap the lines of the bits it changes (R390). -/
def State.spoilSnaps (s : State) (k : Nat) (v : Byte) : State :=
  let page := pageOf k
  { s with snaps := s.snaps.map fun n =>
      let n1 := match n.pages.find? fun p => p.2 == page with
        | some p => { n with lost := (p.1 * 32 + k % 4096 / 128) :: n.lost }
        | none => n
      match indexOf? n.bits page with
      | none => n1
      | some j =>
        let o := j * 4096 + k % 4096
        let diff := (memGet s.mem k) ^^^ v
        let hit := (List.range 8).filterMap fun b =>
          if diff.getLsbD b && n.boff ≤ o then
            let bit := 8 * (o - n.boff) + b
            (n.pages[bit / 32]?).map fun p => p.1 * 32 + bit % 32
          else none
        { n1 with lost := hit ++ n1.lost } }

/-- A byte that is written anew carries no soft error (R206). -/
def State.overwrite (s : State) (k : Nat) : State :=
  if s.errs.isEmpty then s else { s with errs := s.errs.filter fun m => m.place != .byte k }

/-- Write one byte of storage. The POT's pages and metadata are never written so (R354). -/
def State.writeKey (s : State) (k : Nat) (v : Byte) : State :=
  if isMain k then
    let page := pageOf k
    if s.potPage page || (s.en && potState (s.potGet page) == 3) then s
    else
      let s1 := if s.snaps.isEmpty then s else (s.preserve k).spoilSnaps k v
      { s1.overwrite k with
        mem := memSet s1.mem k v
        seen := if (s.unsettled page || s.raw.contains page) && !s.seen.contains k then k :: s1.seen else s1.seen }
  else { s.overwrite k with mem := memSet s.mem k v }

/-- Write bytes to the keys of an access. -/
def State.writeKeys (s : State) : List Nat → List Byte → State
  | k :: ks, b :: bs => (s.writeKey k b).writeKeys ks bs
  | _, _ => s

/-- Granules that an access covers whole are clean afterwards (R219). -/
def State.coverPoison (s : State) (ks : List Nat) : State :=
  if s.poisoned.isEmpty then s
  else
    let hs := (s.poisoned.filter fun h => (List.range 64).all fun i => ks.contains (h * 64 + i)).filter fun h =>
      (granule (s.clsOf (h * 64)) (h * 64)).all fun q => (List.range 64).all fun i => ks.contains (q * 64 + i)
    s.clearPoison hs

/-! ## Words of bytes -/

/-- Little-endian number of bytes (R4). -/
def leNat : List Byte → Nat
  | [] => 0
  | b :: bs => b.toNat + 256 * leNat bs

/-- The bytes of a number, lowest first. -/
def toBytes (n : Nat) : Nat → List Byte
  | 0 => []
  | k + 1 => BitVec.ofNat 8 n :: toBytes (n / 256) k

end Sys2Proof.Machine
end

