-- ==== Sys2Proof/Machine/Space.lean ====
section
/-! DEFINITION. Addresses: windows, translation, the walk and the checks of an access (R190 to R197, R358 to R367). -/

namespace Sys2Proof.Machine

/-! ## Translation -/

/-- Does the kind of access write memory? -/
def AKind.writes : AKind → Bool
  | .store | .atomic | .reduction | .spill => true
  | _ => false

/-- ACC of a record of the access (R299). -/
def AKind.acc : AKind → Nat
  | .fetch => 0 | .load => 1 | .store => 2 | .atomic => 3 | .reduction => 4 | .refill => 5 | .spill => 5
  | .descriptor => 6

/-- Do the rights of an entry permit a kind of access at a level (R362)? -/
def Tlb.permits (t : Tlb) (kind : AKind) (lvl : Priv) : Bool :=
  (lvl != .u || t.u) &&
  match kind with
  | .fetch => t.x
  | .load | .refill | .descriptor => t.r
  | .store | .reduction | .spill => t.w
  | .atomic => t.r && t.w

/-- What a translation answers. -/
inductive Tr where
  | page (ppn : Nat)
  | fault (c : FaultCode)
  | miss
  deriving DecidableEq, Repr

/-- Does a TLB entry serve an access of the acting party (R366)? -/
def Tlb.serves (t : Tlb) (p : Poster) (sup : Bool) (vpn : Nat) : Bool :=
  t.core == p.core && t.world == p.world && t.sup == sup && t.vpn ≤ vpn && vpn < t.vpn + t.pages &&
  (match t.asid with
   | none => true
   | some a => a == p.asid)

/-- Is a walk for the same world, ASID, window kind and page (R367)? -/
def Walk.same (w : Walk) (p : Poster) (sup : Bool) (vpn : Nat) : Bool :=
  w.core == p.core && w.world == p.world && w.asid == p.asid && w.sup == sup && w.vpn == vpn

/-- The quarter of the group that acts, whose TLB serves it beside the core's shared one (R366). -/
def State.quarterOf (s : State) (p : Poster) : Option Nat := (s.group? p.core p.slot).map (·.quarter)

/-- The TLB entry that serves a page: one of the quarter's TLB or of the core's shared one (R366). -/
def State.tlbFor (s : State) (p : Poster) (sup : Bool) (vpn : Nat) : Option Tlb :=
  s.tlbs.find? fun t => t.serves p sup vpn && (t.quarter.isNone || t.quarter == s.quarterOf p)

/-- Translate a page: by an entry of the quarter's or the core's shared TLB, by a walk that ended with a fault for this kind
of access, or not yet. -/
def State.translate (s : State) (p : Poster) (sup : Bool) (vpn : Nat) (kind : AKind) : Tr :=
  match s.tlbFor p sup vpn with
  | some t =>
    if !t.permits kind p.priv then .fault .pagePerm
    else if t.ro && kind.writes then .fault .owner
    else .page (t.ppn + (vpn - t.vpn))
  | none =>
    match s.walks.find? fun w => w.same p sup vpn && w.kind == kind && w.by_.priv == p.priv && w.done.isSome with
    | some w => .fault (w.done.getD .pageMiss)
    | none => .miss

/-- Entries of one TLB with one more, within its size. An open one of the others may leave, and must where it is full
(R366). -/
def enterTlb (l : List Tlb) (t : Tlb) (size tick : Nat) : List Tlb :=
  let mine := l.filter fun x => x.core == t.core && x.quarter == t.quarter
  if mine.isEmpty then t :: l
  else if mine.length < size && Config.free 1 tick 61000 == 0#1 then t :: l
  else
    t :: (match mine[(Config.free 16 tick 61001).toNat % mine.length]? with
      | some x => l.erase x
      | none => l)

/-- A walk's entry enters the core's shared TLB of 4,096 entries and, for a group, its quarter's of 64 (R366). -/
def State.fillTlb (s : State) (p : Poster) (t : Tlb) : State :=
  let l := enterTlb s.tlbs { t with quarter := none } 4096 s.tick
  { s with tlbs := match s.quarterOf p with
      | some q => enterTlb l { t with quarter := some q } 64 s.tick
      | none => l }

/-- Start the walk of a missing page, if the core has fewer than 64 outstanding and none for the page (R367). -/
def State.startWalk (s : State) (p : Poster) (sup : Bool) (vpn : Nat) (kind : AKind) : State :=
  if s.walks.any (fun w => w.same p sup vpn && w.done.isNone) then s
  else if 64 ≤ (s.walks.filter fun w => w.core == p.core && w.done.isNone).length then s
  else { s with
    walks := s.walks ++ [{ id := s.fresh, core := p.core, world := p.world, asid := p.asid, sup := sup, vpn := vpn,
                           kind := kind, by_ := p, done := none }]
    fresh := s.fresh + 1 }

/-- Forget the faults that walks delivered for pages of an access, once they have been raised. -/
def State.dropWalks (s : State) (p : Poster) : State :=
  { s with walks := s.walks.filter fun w => !(w.core == p.core && w.world == p.world && w.asid == p.asid && w.done.isSome) }

/-- Has the stack of a frame finished training (R430)? -/
def State.trainedPage (s : State) (page : Nat) : Bool := s.trained.contains (page / 1024 / 32768)

/-- A little-endian doubleword of main memory at a physical address. -/
def State.readPa (s : State) (pa n : Nat) : Nat := leNat ((List.range n).map fun i => s.readKey (mainKey (pa + i)))

/-- Keys of a stretch of main memory. -/
def paKeys (pa n : Nat) : List Nat := (List.range n).map fun i => mainKey (pa + i)

/-- Is a page of a table one that the walk may read (R362)? A slot that does not exist has no owner and raises DECODE
(R203). -/
def State.tableCheck (s : State) (world : Nat) (pa : Nat) : Option FaultCode :=
  let page := pa / 4096
  let e := s.potGet page
  if !s.slotExists page then some .decode
  else if (potState e == 1 && potWorld e == world) || (potState e == 4 && world == 0) then none
  else some .owner

/-- The fill check of one page (R365); a shared-read-only page admits reads. A slot that does not exist has no owner and
raises DECODE (R203). -/
def State.fillCheck (s : State) (world page : Nat) (writes : Bool) : Option FaultCode :=
  let e := s.potGet page
  if !s.slotExists page then some .decode
  else if (potState e == 1 && potWorld e == world) || (potState e == 4 && world == 0) || (potState e == 2 && !writes) then none
  else some .owner

/-- Does a read of table bytes find them poisoned, or an error that the check detects only? Such an entry is never used
(R362). -/
def State.spoiltEntry (s : State) (ks : List Nat) : Bool :=
  s.readsPoison ks || (s.marksIn ks).any fun q => q.1.grade == .detected && !s.unsettled (pageOf q.2) && !s.sealedPage (pageOf q.2)

/-- The levels of a walk from table `t` on (R358 to R362): `n` levels remain. Answers the bytes of the entries read and the
mapping entry or the fault. -/
def walkLevels (s : State) (world : Nat) (va : Nat) : Nat → Nat → List Nat × Except FaultCode Nat
  | 0, t => ([], .ok t)
  | n + 1, t =>
    match s.tableCheck world t with
    | some c => ([], .error c)
    | none =>
      let a := t + 8 * (va / 2 ^ (12 + 11 * n) % 2048)
      let ks := paKeys a 8
      if s.spoiltEntry ks then (ks, .error .pageMiss)
      else
        let e : DWord := BitVec.ofNat 64 (s.readPa a 8)
        if n == 0 then
          let slot := bits e 39 12 % 1024
          let bad := bits e 51 40 != 0 || bits e 11 8 != 0 || bits e 7 6 == 3 ||
            (bits e 7 6 == 1 && slot % 16 != 0) || (bits e 7 6 == 2 && slot != 0)
          (ks, if bitAt e 0 && !bad then .ok e.toNat else .error .pageMiss)
        else if !bitAt e 0 || bits e 63 40 != 0 || bits e 13 1 != 0 then (ks, .error .pageMiss)
        else
          let r := walkLevels s world va n (bits e 39 14 * 2 ^ 14)
          (ks ++ r.1, r.2)

/-- Bytes of the ASID table's entry that a walk reads (R356). -/
def State.asidKeys (s : State) (asid : BitVec 13) : List Nat := paKeys (bits s.tctl 39 18 * 2 ^ 18 + 32 * asid.toNat) 32

/-- A walk: the bytes of page-table entries it reads, and the TLB entry it makes, or its fault (R356, R362). -/
def State.walkFull (s : State) (w : Walk) : List Nat × Except FaultCode Tlb :=
  if s.spoiltEntry (s.asidKeys w.asid) then ([], .error .pageMiss)
  else
    let a : BitVec 256 := BitVec.ofNat 256 (leNat ((s.asidKeys w.asid).map s.readKey))
    let root := if w.sup then bits a 231 192 else bits a 167 128
    let valid := if w.sup then bitAt a 7 else bitAt a 6
    let reserved := bits a 255 232 != 0 || bits a 191 168 != 0 || bits a 127 8 != 0
    if bits a 5 0 != w.world.toNat then ([], .error .owner)
    else if !valid || reserved then ([], .error .pageMiss)
    else
      let r := walkLevels s w.world.toNat (w.vpn * 4096) 4 root
      (r.1, match r.2 with
      | .error c => .error c
      | .ok e =>
        let x : DWord := BitVec.ofNat 64 e
        let sz := bits x 7 6
        let n := if sz == 0 then 1 else if sz == 1 then 16 else 512
        let ppn := bits x 39 12
        let base := if sz == 0 then ppn else ppn / n * n
        let t : Tlb :=
          { core := w.core, quarter := none, world := w.world, asid := if bitAt x 5 then none else some w.asid, sup := w.sup
            vpn := w.vpn / n * n, pages := n, ppn := base, sz := sz
            r := bitAt x 1
            w := bitAt x 2
            x := bitAt x 3
            u := bitAt x 4
            ro := (List.range n).any fun i => potState (s.potGet (base + i)) == 2 }
        if !t.permits w.kind w.by_.priv then .error .pagePerm
        else match (List.range n).filterMap fun i => s.fillCheck w.world.toNat (base + i) w.kind.writes with
          | c :: _ => .error c
          | [] => .ok t)

/-- What a walk comes to: its TLB entry, or its fault. -/
def State.walk (s : State) (w : Walk) : Except FaultCode Tlb := (s.walkFull w).2

/-- Does a walk read an entry from a stack that is still in training, and wait (R430)? -/
def State.walkWaits (s : State) (w : Walk) : Bool :=
  (s.asidKeys w.asid ++ (s.walkFull w).1).any fun k => !s.trainedPage (pageOf k)

/-- Does an entry that a walk reads fail its glaze check? Nothing then follows from what was read (R254). -/
def State.walkFails (s : State) (w : Walk) : Bool := s.failsGlaze (s.asidKeys w.asid ++ (s.walkFull w).1)

/-- A walk meets the soft errors of the entries it reads: of the ASID table's for atelier 0 alone, of the page tables' for
the requester (R362). -/
def State.meetWalk (s : State) (w : Walk) : State :=
  let ks := (s.walkFull w).1
  (s.meetErrors { w.by_ with world := 0#6, lq := 64 } (s.asidKeys w.asid)).meetErrors w.by_ ks

/-! ## Windows -/

/-- Where the bytes of an access lie. -/
inductive Where where
  /-- Bytes of storage by key, with its class; `cached` for the windows that L1 serves; `line` names a scratchpad team
  and the offset of its first byte. -/
  | keys (ks : List Nat) (cls : Cls) (cached : Bool) (line : Option (Nat × Nat))
  /-- The core's own queue window at an offset (R191). -/
  | queue (off : Nat)
  /-- Device-window registers at an offset (R354). -/
  | dev (off : Nat)
  | fault (i : FaultInfo)
  /-- Pages whose translation is not there yet. -/
  | walk (sup : Bool) (vpns : List Nat)
  /-- Something else to wait for. -/
  | wait
  deriving DecidableEq, Repr

/-- May a kernel class write memory of a class (R205)? -/
def mayWrite (k m : Cls) : Bool := k.code ≤ m.code

/-- Rank of a fault among those of R192. -/
def FaultCode.rank : FaultCode → Nat
  | .aperture => 0
  | .pageMiss => 1
  | .pagePerm => 2
  | .owner => 3
  | .decode => 4
  | _ => 5

/-- The fault that the translations of an access's two pages come to: the first in R192's order, the lower page's where
they rank alike; none while a page that is still to be translated could rank before it. -/
def Tr.first : Tr → Tr → Option FaultCode
  | .fault c, .fault d => some (if d.rank < c.rank then d else c)
  | .fault c, .page _ => some c
  | .page _, .fault d => some d
  | .fault c, .miss => if c.rank ≤ 1 then some c else none
  | _, _ => none

/-- An access in a translated window, or at a stack's backing address (R195, R210, R362). `addr` and `addr2` are what a
record shows. -/
def State.translated (s : State) (p : Poster) (sup : Bool) (va n : Nat) (kind : AKind) (addr addr2 : DWord) : Where :=
  let f (c : FaultCode) : Where := .fault { code := c, acc := kind.acc, addr := addr, addr2 := addr2 }
  let v0 := va / 4096
  let v1 := (va + n - 1) / 4096
  match s.translate p sup v0 kind, s.translate p sup v1 kind with
  | .page a, .page b =>
    if kind.writes && !(mayWrite p.kcls (s.frameCls (a / 1024)) && mayWrite p.kcls (s.frameCls (b / 1024))) then f .xclass
    else if !s.trainedPage a || !s.trainedPage b then .wait
    else
      .keys ((List.range n).map fun i =>
          if (va + i) / 4096 == v0 then mainKey (a * 4096 + (va + i) % 4096) else mainKey (b * 4096 + (va + i) % 4096))
        (s.frameCls (a / 1024)) true none
  | x, y =>
    match x.first y with
    | some c => f c
    | none => .walk sup ((if x == .miss then [v0] else []) ++ (if y == .miss && v1 != v0 then [v1] else []))

/-- A scratchpad allocation (R190, R193, R205). -/
def inSpad (p : Poster) (t : Option Team) (off n : Nat) (kind : AKind) (addr : DWord) : Where :=
  let f (c : FaultCode) : Where := .fault { code := c, acc := kind.acc, addr := addr, addr2 := 0 }
  match t with
  | none => f .aperture
  | some t =>
    if t.size < off + n then f .aperture
    else if kind.writes && !mayWrite p.kcls t.kcls then f .xclass
    else if t.uncleared.any fun l => off / 128 ≤ l && l ≤ (off + n - 1) / 128 then .wait
    else .keys ((List.range n).map fun i => spadKey t.core (t.base + off + i)) t.kcls false (some (t.num, off))

/-- The team of the launch on the cluster core at a position (R190). -/
def State.clusterTeam (s : State) (p : Poster) (cx cy : Nat) : Option Team :=
  match s.team? p.team with
  | none => none
  | some t =>
    match s.groups.find? fun g => g.lq.toNat == p.lq && g.lseq.toNat == p.lseq && g.clid == t.clid && g.cx == cx && g.cy == cy with
    | some g => s.team? g.team
    | none => none

/-- What the vault allocation table says to an access of one segment (R197, R385, R386). -/
def State.vaultCheck (s : State) (p : Poster) (off : Nat) : Option (Option FaultCode) :=
  let e := s.vat (off / 2 ^ 32 * 144 + off / 2 ^ 24 % 256) (off % 2 ^ 23 / 65536)
  let own := p.priv == .f || (bitAt e 31 && bits e 5 0 == p.world.toNat && (p.priv != .u || bitAt e 11))
  if bitAt e 29 || !own then some (some .owner)
  else if bitAt e 30 then some none
  else none

/-- The vault window (R190, R197). -/
def State.inVault (s : State) (p : Poster) (off n : Nat) (kind : AKind) (addr : DWord) : Where :=
  let f (c : FaultCode) : Where := .fault { code := c, acc := kind.acc, addr := addr, addr2 := 0 }
  let bad (o : Nat) : Bool := 2 ^ 33 ≤ o || 144 ≤ o / 2 ^ 24 % 256 || o / 2 ^ 23 % 2 == 1
  if bad off || bad (off + n - 1) then f .aperture
  else match s.vaultCheck p off, s.vaultCheck p (off + n - 1) with
    | some (some c), _ => f c
    | _, some (some c) => f c
    | some none, _ => .wait
    | _, some none => .wait
    | none, none =>
      if kind.writes && !(mayWrite p.kcls (s.clsOf (vaultKey off)) && mayWrite p.kcls (s.clsOf (vaultKey (off + n - 1)))) then
        f .xclass
      else .keys ((List.range n).map fun i => vaultKey (off + i)) (s.clsOf (vaultKey off)) false none

/-- Does the device window map registers there (R354, R384, R392)? -/
def devMapped (o : Nat) : Bool :=
  (2 * 2 ^ 40 ≤ o && o < 2 * 2 ^ 40 + 0x10000 * Config.cores && o % 0x10000 < 256) ||
  (dev3 ≤ o && (o - dev3 < 8 || (0x100 ≤ o - dev3 && o - dev3 < 0x200) || (0x800 ≤ o - dev3 && o - dev3 < 0x880) ||
    (0x1000 ≤ o - dev3 && o - dev3 < 0x3000) || (0x4000 ≤ o - dev3 && o - dev3 < 0x8080) ||
    (0x8100 ≤ o - dev3 && o - dev3 < 0x8108) || (0x40000 ≤ o - dev3 && o - dev3 < 0x40000 + 147456) ||
    (0x100000 ≤ o - dev3 && o - dev3 < 0x200000))) ||
  (4 * 2 ^ 40 ≤ o && o < 4 * 2 ^ 40 + 0x20000)

/-- The device window (R190, R203, R354, R423). A register access of another size or alignment than R354's raises
APERTURE (log entry 15). -/
def State.inDevice (s : State) (p : Poster) (off n : Nat) (kind : AKind) (addr : DWord) : Where :=
  let f (c : FaultCode) : Where := .fault { code := c, acc := kind.acc, addr := addr, addr2 := 0 }
  if p.priv != .f then f .aperture
  else if off + n ≤ 2 ^ 40 then
    let a := off / 4096
    let b := (off + n - 1) / 4096
    if !s.slotExists a || !s.slotExists b then f .decode
    else if kind.writes && !(mayWrite p.kcls (s.frameCls (a / 1024)) && mayWrite p.kcls (s.frameCls (b / 1024))) then f .xclass
    else if !s.trainedPage a || !s.trainedPage b then .wait
    else .keys ((List.range n).map fun i => mainKey (off + i)) (s.frameCls (a / 1024)) false none
  else if 2 ^ 40 ≤ off && off + n ≤ 2 ^ 40 + 2 ^ 29 then
    if s.busy.any fun b => b.1 / 65536 == (off - 2 ^ 40) / 65536 || b.1 / 65536 == (off - 2 ^ 40 + n - 1) / 65536 then .wait
    else .keys ((List.range n).map fun i => flashKey (off - 2 ^ 40 + i)) .p false none
  else if (n == 4 || n == 8) && off % n == 0 && devMapped off && devMapped (off + n - 1) then .dev off
  else f .aperture

/-- Where an access of `n` bytes at an address leads (R190 to R195). -/
def State.resolve (s : State) (p : Poster) (ea : DWord) (n : Nat) (kind : AKind) : Where :=
  let f (c : FaultCode) : Where := .fault { code := c, acc := kind.acc, addr := ea, addr2 := 0 }
  let off := bits ea 55 0
  match bits ea 63 56 with
  | 0x00 => if 2 ^ 56 < off + n then f .aperture else s.translated p false off n kind ea 0
  | 0x01 =>
    if p.priv == .u || 2 ^ 56 < off + n then f .aperture
    else if 2 ^ 56 - 2 ^ 24 < off + n then
      if 2 ^ 56 - 2 ^ 24 ≤ off && kind == .load then .queue (off - (2 ^ 56 - 2 ^ 24)) else f .aperture
    else s.translated p true off n kind ea 0
  | 0xF0 => inSpad p (s.team? p.team) off n kind ea
  | 0xF1 =>
    if 2 ^ 28 ≤ off || 2 ^ 20 < off % 2 ^ 20 + n then f .aperture
    else inSpad p (s.clusterTeam p (bits ea 27 24) (bits ea 23 20)) (off % 2 ^ 20) n kind ea
  | 0xF2 => s.inVault p off n kind ea
  | 0xF4 =>
    match s.group? p.core p.slot with
    | none => f .aperture
    | some g =>
      let size := 1024 * 2 ^ g.stkSzc.toNat
      let back := g.stkBase.toNat * 4096 + p.lane * size + off
      if size < off + n || 2 ^ 56 < back + n then f .aperture
      else s.translated p false back n kind ea (BitVec.ofNat 64 back)
  | 0xFE => s.inDevice p off n kind ea
  | _ => f .aperture

/-- May a walk for a page be made now? The page ownership table is initialised, none for the page is in flight on the core,
and fewer than 64 are outstanding there (R357, R367). -/
def State.walkFree (s : State) (p : Poster) (sup : Bool) (vpn : Nat) : Bool :=
  s.rdy && !(s.walks.any fun w => w.same p sup vpn && w.done.isNone) &&
  (s.walks.filter fun w => w.core == p.core && w.done.isNone).length < 64

/-- The state in which the walks that an access lacks have just been made: their translations stand in the TLB, or their
faults are delivered, and the errors they met are charged (R362). Pages for which no walk may be made now stay as they
are. -/
def State.walked (s : State) (p : Poster) (kind : AKind) (w : Where) : State :=
  match w with
  | .walk sup vpns => vpns.foldl (fun u v =>
      let x : Walk := { id := 0, core := p.core, world := p.world, asid := p.asid, sup := sup, vpn := v, kind := kind,
                        by_ := p, done := none }
      if !u.walkFree p sup v || u.walkWaits x then u
      else if u.walkFails x then u.meetWalk x
      else match u.walk x with
      | .ok t => (u.meetWalk x).fillTlb p t
      | .error c =>
        let m := u.meetWalk x
        { m with walks := { x with done := some c } :: m.walks }) s
  | _ => s

/-- An access of a unit that makes its walks as part of one step: the state in which they are made, and where the access
leads. A page that is still missing then has to be waited for. -/
def State.reach (s : State) (p : Poster) (ea : DWord) (n : Nat) (kind : AKind) : State × Where :=
  let s1 := s.walked p kind (s.resolve p ea n kind)
  (s1.dropWalks p, s1.resolve p ea n kind)

/-- Where an access leads once its walks have been made. -/
def State.resolveNow (s : State) (p : Poster) (ea : DWord) (n : Nat) (kind : AKind) : Where := (s.reach p ea n kind).2

/-- The translated address of an access in a window that the side log knows: the stack's backing address, or the address
itself (R218). -/
def State.logAddr (s : State) (p : Poster) (ea : DWord) : Option DWord :=
  match bits ea 63 56 with
  | 0x00 | 0x01 => some ea
  | 0xF4 =>
    match s.group? p.core p.slot with
    | some g => some (BitVec.ofNat 64 (g.stkBase.toNat * 4096 + p.lane * (1024 * 2 ^ g.stkSzc.toNat) + bits ea 55 0))
    | none => none
  | _ => none

/-- Where to fetch a word (R174). -/
def State.fetchAt (s : State) (p : Poster) (pc : DWord) : Where :=
  let f (c : FaultCode) : Where := .fault { code := c, acc := 0, addr := pc, addr2 := pc }
  match bits pc 63 56 with
  | 0x00 => s.translated p false (bits pc 55 0) 4 .fetch pc pc
  | 0x01 =>
    if p.priv == .u || 2 ^ 56 - 2 ^ 24 ≤ bits pc 55 0 then f .aperture
    else s.translated p true (bits pc 55 0) 4 .fetch pc pc
  | 0xFE =>
    if bits pc 55 0 < 2 ^ 40 + 2 ^ 29 then
      match s.inDevice p (bits pc 55 0) 4 .fetch pc with
      | .fault i => .fault { i with addr2 := pc }
      | w => w
    else f .aperture
  | _ => f .aperture

end Sys2Proof.Machine
end

