-- ==== Sys2Proof/Machine/Device.lean ====
section
/-! DEFINITION. Loads and stores of the device window's registers and tables, and of the boot flash, with the steps of
the device that such stores start (R297, R323, R341, R354 to R357, R374, R384 to R386, R392, R422, R423, R429). -/

namespace Sys2Proof.Machine

/-! ## Reading -/

/-- Records held by a launch queue (R323). -/
def State.lqCount (s : State) (q : Nat) : Nat := (s.launches.filter fun l => l.lq == q && l.started.isNone).length

/-- A 32-bit entry as a load reads it: with COUNT of a launch queue (R323) and USED of an easel quota (R297). -/
def State.devRead32 (s : State) (o : Nat) : Nat :=
  let x := (s.devWord o).toNat
  if dev3 + 0x100 ≤ o && o < dev3 + 0x200 then x + s.lqCount ((o - dev3 - 0x100) / 4)
  else if 2 * 2 ^ 40 ≤ o && o < dev3 then
    x + at_ (s.easelUsed ((o - 2 * 2 ^ 40) / 0x10000) (o % 0x10000 / 4)) 16
  else x

/-- A load of `n` bytes, 4 or 8, of the window's registers. -/
def State.devRead (s : State) (o n : Nat) : Nat :=
  if n == 4 then s.devRead32 o else s.devRead32 o + at_ (s.devRead32 (o + 4)) 32

/-! ## Writing -/

/-- Replace the bits of a doubleword that a mask names. -/
def masked (old v m : DWord) : DWord := (old &&& ~~~m) ||| (v &&& m)

/-- The bits that F's stores change in a register without behaviour of its own, by offset (R323, R341, R343, R348, R374,
R392). -/
def rwMask (o : Nat) : DWord :=
  let e := o % 64 / 8
  if dev3 + 0x100 ≤ o && o < dev3 + 0x200 then BitVec.ofNat 64 (at_ 0x803F0000803F0000 0)
  else if dev3 + 0x800 ≤ o && o < dev3 + 0x880 then 0x10F
  else if dev3 + 0x2000 ≤ o && o < dev3 + 0x3000 then
    (if e == 1 then BitVec.ofNat 64 (0x1FFF + at_ 0xFF 40) else if e == 6 || e == 7 then BitVec.allOnes 64 else 0)
  else if dev3 + 0x4000 ≤ o && o < dev3 + 0x8000 then
    (if e < 4 then 0 else if e == 4 then ~~~3#64 else BitVec.allOnes 64)
  else if dev3 + 0x8000 ≤ o && o < dev3 + 0x8080 then BitVec.allOnes 64
  else if o == dev3 + 0x8100 then 0x1F
  else if 4 * 2 ^ 40 ≤ o then (if e == 0 then 0 else if e == 1 then BitVec.ofNat 64 (at_ 0x3F 58) else BitVec.allOnes 64)
  else 0

/-- The bits of a doubleword that a store of `n` bytes covers. -/
def coverMask (o n : Nat) : DWord :=
  if n == 8 then BitVec.allOnes 64 else if o % 8 == 0 then 0xFFFFFFFF else ~~~0xFFFFFFFF#64

/-- A store's data where it stands in its doubleword. -/
def placed (o : Nat) (v : DWord) : DWord := v <<< (8 * (o % 8))

/-- R357: a store to TCTL. While EN = 1 it is ignored; so is one that sets EN without world 0's key or over frames that
are not all P. Setting EN makes every page free and unscrubbed and releases the flash copy (R429). -/
def tctlWrite (v : DWord) (s : State) : State :=
  let m : DWord := BitVec.ofNat 64 (at_ 1 63 + at_ (2 ^ 18 - 1) 40 + at_ (2 ^ 22 - 1) 18)
  let f := bits v 57 40
  if s.en then s
  else if bitAt v 63 then
    if s.kstate 0 != 1 || (List.range 144).any (fun i => 262144 ≤ f + i || s.frameCls (f + i) != .p) then s
    else
      let s1 := s.devSet dev3 (v &&& m)
      { s1.setGlz 0 (144 * 512 + 64) with
        pot := [], copy := none, copyMem := [], raw := (List.range 64).map (bits v 39 18 * 64 + ·) }
  else s.devSet dev3 (v &&& m)

/-- R355: a store to a world's RESV0 and RESV1: ignored if it would give a pair to two worlds; it waits while the world
gives up pairs. -/
def reserveWrite (w : Nat) (v : DWord) (s : State) : State :=
  let m : DWord := 0xFFF000
  let want := v &&& m
  let old := s.devGet (worldOff w) &&& m
  let others (u : Nat) : DWord := (s.devGet (worldOff u) ||| mapGet 0 s.resv u) &&& m
  if (List.range 64).any fun u => u != w && (others u &&& want) != 0#64 then s
  else if (old &&& ~~~want) != 0#64 then { s with resv := mapSet 0 s.resv w (want ||| 1#64) }
  else { s.devSet (worldOff w) (masked (s.devGet (worldOff w)) want m) with resv := mapSet 0 s.resv w 0 }

/-- R342: a store to a fabric domain's STATE. -/
def domainStateWrite (w : Nat) (v : BitVec 2) (s : State) : State :=
  let o := dev3 + 0x2000 + 64 * w
  s.devSet o (setBits (s.devGet o) 1 0 v.toNat)

/-- Segments of a vault with SHD set (R386). -/
def State.shadowLen (s : State) (site : Nat) : Nat := ((List.range 32).filter fun i => bitAt (s.vat site (127 - i)) 29).length

/-- Is a context saved at a site (R314)? -/
def State.savedAt (s : State) (site : Nat) : Bool := s.images.any fun i => s.siteOf i.core == site

/-- Does a started launch keep its scoreboard in a vault segment (R379)? -/
def Launch.scoreIn (l : Launch) (site seg : Nat) : Bool :=
  let r := l.image
  let teams := (bits r 147 128 + 1) * (bits r 167 148 + 1) * (bits r 187 168 + 1)
  let lo := bits r 503 448
  let here := vaultOff site (seg * 65536)
  l.started.isSome && bits r 214 212 != 0 && bits r 511 504 == 0xF2 && lo < here + 65536 &&
    here < lo + (teams + 1023) / 1024 * 128

/-- A segment is reassigned: a pipe's ring in it holds any value, and a launch whose scoreboard it held stops its sweep; one
with no released team left retires (R380, R385). -/
def State.reassigned (s : State) (site seg : Nat) : State :=
  { s with
    pipes := s.pipes.map fun p => if p.site == site && p.seg == seg then { p with spoilt := true } else p
    launches := s.launches.filterMap fun l =>
      if !l.scoreIn site seg then some l
      else if l.queued.isEmpty && l.placed.isEmpty then none
      else some { l with stopped := true } }

/-- R385, R386: a store to a vault allocation entry. -/
def vatWrite (site seg : Nat) (v : Word) (s : State) : State :=
  let e := s.vat site seg
  let n := s.shadowLen site
  let want : Word := v &&& BitVec.ofNat 32 (at_ 1 31 + at_ 1 29 + at_ 1 11 + at_ 3 8 + 63)
  let setShd := bitAt v 29
  let ignored := bitAt e 30 || bits v 9 8 == 3 ||
    (setShd && (bits v 5 0 != 0 || bitAt v 11 || bits v 9 8 != 0)) ||
    (setShd && !bitAt e 29 && (seg + n != 127 || 32 ≤ n)) ||
    (!setShd && bitAt e 29 && (seg + n != 128 || s.savedAt site))
  if ignored then s
  else
    let zero := (bitAt v 31 && (!bitAt e 31 || bits v 5 0 != bits e 5 0 || bits v 9 8 != bits e 9 8)) ||
      (setShd && !bitAt e 29)
    let s1 := s.setDevWord (vatOff site seg) (if zero then want ||| BitVec.ofNat 32 (at_ 1 30) else want)
    if zero then s1.reassigned site seg else s1

/-- A store to a register without behaviour of its own: RO fields keep their value; ILOG above 8 is stored as 8 (R354,
R374). -/
def plainWrite (o n : Nat) (v : DWord) (s : State) : State :=
  let b := o / 8 * 8
  let x := masked (s.devGet b) (placed o v) (rwMask b &&& coverMask o n)
  let y := if dev3 + 0x800 ≤ b && b < dev3 + 0x880 && 8 < bits x 3 0 then setBits x 3 0 8 else x
  s.devSet b y

/-- R297: a store to an easel quota entry. -/
def quotaWrite (o : Nat) (v : Nat) (s : State) : State := s.setDevWord o (BitVec.ofNat 32 (min (v % 512) 256))

/-- A store of 4 or 8 bytes to the window's registers (R354). -/
def State.devStore (s : State) (o n : Nat) (v : DWord) : State :=
  let b := o / 8 * 8
  let lo := bits v 31 0
  if b == dev3 then tctlWrite (masked (s.devGet b) (placed o v) (coverMask o n)) s
  else if dev3 + 0x1000 ≤ o && o < dev3 + 0x2000 then
    (if o % 64 < 4 then reserveWrite ((o - dev3 - 0x1000) / 64) v s else s)
  else if dev3 + 0x2000 ≤ o && o < dev3 + 0x3000 && b % 64 == 0 then
    (if o % 8 == 0 then domainStateWrite ((o - dev3 - 0x2000) / 64) (v.setWidth 2) s else s)
  else if dev3 + 0x40000 ≤ o && o < dev3 + 0x40000 + 147456 then
    let i := (o - dev3 - 0x40000) / 4
    let s1 := vatWrite (i / 128) (i % 128) (BitVec.ofNat 32 lo) s
    if n == 8 then vatWrite ((i + 1) / 128) ((i + 1) % 128) (BitVec.ofNat 32 (bits v 63 32)) s1 else s1
  else if 2 * 2 ^ 40 ≤ o && o < dev3 then
    let s1 := quotaWrite o lo s
    if n == 8 then quotaWrite (o + 4) (bits v 63 32) s1 else s1
  else plainWrite o n v s

/-! ## The boot flash (R423) -/

/-- A stretch of the flash cut at its sectors. -/
def flashParts (o n : Nat) : List (Nat × Nat) :=
  (List.range ((o % 65536 + n + 65535) / 65536)).map fun j =>
    let lo := max o ((o / 65536 + j) * 65536)
    (lo, min (o + n) ((o / 65536 + j + 1) * 65536) - lo)

/-- Program: clear the bits that are 0 in the data; the sectors are busy until the flash has finished. -/
def flashProgram (o : Nat) (bs : List Byte) (s : State) : State :=
  let old := (List.range bs.length).map fun i => memGet s.mem (flashKey (o + i))
  let new := (old.zip bs).map fun p => p.1 &&& p.2
  { s with
    mem := memFill s.mem (flashKey o) new
    busy := flashParts o bs.length ++ s.busy }

/-- Erase a sector to all ones. -/
def sectorErase (o : Nat) (s : State) : State :=
  let b := o / 65536
  { s with
    mem := memDrop s.mem (flashKey (b * 65536)) (flashKey ((b + 1) * 65536))
    busy := (b * 65536, 65536) :: s.busy
    flaky := s.flaky.filter fun x => x.1 / 65536 != b }

/-- A store to the flash window. -/
def State.flashStore (s : State) (o : Nat) (bs : List Byte) : State :=
  if bs.length == 8 && o % 65536 == 0 && bs.all (· == 0xFF#8) then sectorErase o s else flashProgram o bs s

/-! ## The steps of the device that these stores make or start -/

/-- R357: the store to TCTL. -/
def execTctlWrite (v : BitVec 64) (s : State) : Out := .next (tctlWrite v s)

/-- R355: the store to RESV0 and RESV1 of a world. -/
def execWorldTableReserveWrite (world : Nat) (v : BitVec 64) (s : State) : Out := .next (reserveWrite world v s)

/-- R342: the store to STATE of a world's fabric domain. -/
def execDomainStateWrite (world : Nat) (v : BitVec 2) (s : State) : Out := .next (domainStateWrite world v s)

/-- R385: the store to a vault allocation entry. -/
def execVaultAllocationWrite (site seg : Nat) (v : BitVec 32) (s : State) : Out := .next (vatWrite site seg v s)

/-- R354: the store to a register without behaviour of its own. -/
def execDeviceRegisterWrite (o len : Nat) (v : BitVec 64) (s : State) : Out := .next (plainWrite o len v s)

/-- R423: programming. -/
def execFlashProgram (o : Nat) (data : List (BitVec 8)) (s : State) : Out := .next (flashProgram o data s)

/-- R423: erasure of the sector of an offset. -/
def execSectorErase (o : Nat) (s : State) : Out := .next (sectorErase o s)

/-- R423: the flash finishes in a sector that is busy. -/
def execFlashOperationDone (o : Nat) (s : State) : Out :=
  if s.busy.any fun b => b.1 / 65536 == o / 65536 then
    .next { s with busy := s.busy.filter fun b => b.1 / 65536 != o / 65536 }
  else notReady s

/-- R357: initialisation ends and RDY is set, once the stacks of the POT's frames are trained (R430). -/
def execPotInitialisationDone (s : State) : Out :=
  if s.en && !s.rdy && (List.range 144).all fun i => s.trainedPage (1024 * (bits s.tctl 57 40 + i)) then .next (s.devSet dev3 (s.tctl ||| BitVec.ofNat 64 (at_ 1 62))) else notReady s

/-- R355: the lines in given-up ways are glazed and the reservation takes effect. -/
def execWayGlazingDone (world : Nat) (s : State) : Out :=
  let r := mapGet 0 s.resv world
  if r == 0#64 then notReady s
  else .next { s.devSet (worldOff world) (masked (s.devGet (worldOff world)) r 0xFFF000) with resv := mapSet 0 s.resv world 0 }

/-- R385: a segment has been zeroed, its poison and its soft errors gone, and ZB returns to 0. -/
def execSegmentZeroingDone (site seg : Nat) (s : State) : Out :=
  let e := s.vat site seg
  if !bitAt e 30 then notReady s
  else
    let lo := vaultKey (vaultOff site (seg * 65536))
    let s1 := s.setDevWord (vatOff site seg) (e &&& ~~~(BitVec.ofNat 32 (at_ 1 30)))
    .next { s1.dropByteMarks lo (lo + 65536) with
      mem := memDrop s1.mem lo (lo + 65536)
      poisoned := s1.poisoned.filter fun h => !(lo ≤ h * 64 && h * 64 < lo + 65536) }

/-- R430: a controller finishes training its stack. -/
def execStackTrainingDone (stack : Nat) (s : State) : Out :=
  if s.phase == .running && stack < 8 && !s.trained.contains stack then .next { s with trained := stack :: s.trained }
  else notReady s

/-- R367: a walk ends, filling the TLBs or delivering its fault; from entries whose glaze check fails it does neither, and is
made anew where it is still wanted (R254, R373). -/
def execTranslationWalkDone (id : Nat) (s : State) : Out :=
  match s.walks.find? fun w => w.id == id && w.done.isNone with
  | none => notReady s
  | some w =>
    if !s.rdy || s.walkWaits w then notReady s
    else
      let s1 := s.meetWalk w
      if s.walkFails w then .next { s1 with walks := s1.walks.filter fun x => x.id != id }
      else match s.walk w with
      | .ok t => .next { s1.fillTlb w.by_ t with walks := s1.walks.filter fun x => x.id != id }
      | .error c =>
        .next { s1 with walks := s1.walks.map fun x => if x.id == id then { x with done := some c } else x }

end Sys2Proof.Machine
end

