-- ==== Sys2Proof/WellFormed.lean ====
section
/-! DEFINITION. Which instructions the encoding allows (R56 to R66, R79 to R83 and the ILL lists of the entries). The one
check that depends on the group, a register at or above NREG (R91), is made when the instruction issues. -/

namespace Sys2Proof

/-- Types that occupy a pair of registers. -/
def FTy.wide : FTy → Bool
  | .f64 => true
  | _ => false

/-- Types that occupy a pair of registers. -/
def ITy.wide : ITy → Bool
  | .i64 | .n64 => true
  | _ => false

/-- Types that occupy a pair of registers. -/
def RedOp.wide : RedOp → Bool
  | .addI64 | .faddF64 | .fminF64 | .fmaxF64 => true
  | _ => false

/-- Types that occupy a pair of registers. -/
def CvtTy.wide : CvtTy → Bool
  | .f64 | .i64 | .n64 => true
  | _ => false

/-- Types that occupy a pair of registers. -/
def FmtTy.wide : FmtTy → Bool
  | .f64 => true
  | _ => false

/-- Integer type codes of `fcvt`. -/
def CvtTy.isInt : CvtTy → Bool
  | .i32 | .n32 | .i64 | .n64 | .i16 | .n16 | .i8 | .n8 => true
  | _ => false

/-- Destinations that stochastic rounding may be used for (R39). -/
def CvtTy.stochastic : CvtTy → Bool
  | .bf16 | .f16 | .e4m3 | .e5m2 => true
  | _ => false

/-- 64-bit vector source: a `v` selector must be even (R64, R66). -/
def vsrc64 (s : Sel) : Bool := 0x20 ≤ s.toNat || s.toNat % 2 == 0

/-- Vector source of a 32-bit (`false`) or 64-bit (`true`) operand. Every code is a 32-bit source (R64). -/
def vsrc (w : Bool) (s : Sel) : Bool := !w || vsrc64 s

/-- 32-bit vector destination: `v0`–`v31` or `_` (R64). -/
def vdst32 (s : Sel) : Bool := s.toNat < 0x20 || s == 0x3F#6

/-- 64-bit vector destination: an even `v` register or `_`. -/
def vdst64 (s : Sel) : Bool := (s.toNat < 0x20 && s.toNat % 2 == 0) || s == 0x3F#6

/-- 128-bit vector destination: a `v` register whose number is a multiple of 4, or `_`. -/
def vdst128 (s : Sel) : Bool := (s.toNat < 0x20 && s.toNat % 4 == 0) || s == 0x3F#6

/-- Vector destination by width. -/
def vdst (w : Bool) (s : Sel) : Bool := if w then vdst64 s else vdst32 s

/-- A named vector register. -/
def vreg (s : Sel) : Bool := s.toNat < 0x20

/-- A pair of named vector registers. -/
def vpair (s : Sel) : Bool := s.toNat < 0x20 && s.toNat % 2 == 0

/-- Four named vector registers. -/
def vquad (s : Sel) : Bool := s.toNat < 0x20 && s.toNat % 4 == 0

/-- Eight named vector registers. -/
def voct (s : Sel) : Bool := s.toNat < 0x20 && s.toNat % 8 == 0

/-- A named vector register or a history entry (R136). -/
def vOrH (s : Sel) : Bool := s.toNat < 0x30

/-- Scalar source (R65). -/
def ssrc (s : Sel) : Bool := s.toNat < 0x20 || s == 0x3E#6 || s == 0x3F#6

/-- Scalar source of the barrier and network instructions, which refuse the group index (R287, R397). -/
def ssrcNG (s : Sel) : Bool := s.toNat < 0x20 || s == 0x3E#6

/-- Scalar destination (R65). -/
def sdst (s : Sel) : Bool := s.toNat < 0x20 || s == 0x3F#6

/-- A scalar register proper. -/
def sreg (s : Sel) : Bool := s.toNat < 0x20

/-- Mask source (R65). -/
def msrc (s : Sel) : Bool := s.toNat < 8

/-- Mask destination: `m0` is constant (R65). -/
def mdst (s : Sel) : Bool := 1 ≤ s.toNat && s.toNat < 8

/-- Mask destination of VCMP, which may also discard (R65). -/
def mdstC (s : Sel) : Bool := mdst s || s == 0x3F#6

/-- The prefix of VINT: no rounding mode, a fourth operand only where the instruction has one (`four`, and whether that
operand is a pair), saturation only where the entry shows it (R61, R121). -/
def pfxVint (p : Option Pfx) (satOk : Bool) (four : Option Bool) : Bool :=
  match p with
  | none => true
  | some q => q.rm == 0#3 && (if satOk then q.sat != 3#2 else q.sat == 0#2) &&
      (match four with
       | none => q.c == 0#6
       | some w => vsrc w q.c)

/-- The prefix of VFP and VSFU (R61, R140). -/
def pfxVfp (p : Option Pfx) (four : Option Bool) : Bool :=
  match p with
  | none => true
  | some q => q.rm != 6#3 && q.rm != 7#3 && q.sat == 0#2 &&
      (match four with
       | none => q.c == 0#6
       | some w => vsrc w q.c)

/-- The prefix of VCVT: stochastic rounding only into the formats of R39 (R61, R140). -/
def pfxCvt (p : Option Pfx) (stoch : Bool) : Bool :=
  match p with
  | none => true
  | some q => q.rm != 7#3 && (stoch || q.rm != 6#3) && q.sat == 0#2 && q.c == 0#6

/-- The prefix of VCPX (R61, R140). -/
def pfxCpx (p : Option Pfx) (satOk : Bool) : Bool :=
  match p with
  | none => true
  | some q => q.rm == 0#3 && (if satOk then q.sat != 3#2 else q.sat == 0#2) && q.c == 0#6

/-- The prefix of VCMP (R61). -/
def pfxCmp (p : Option Pfx) : Bool :=
  match p with
  | none => true
  | some q => q.rm == 0#3 && q.sat == 0#2 && q.c == 0#6

/-- The prefix of a shuffle, whose C field names the out-of-range mask (R61, R159). -/
def pfxXl (p : Option Pfx) : Bool :=
  match p with
  | none => true
  | some q => q.rm == 0#3 && q.sat == 0#2 && q.c.toNat < 8

/-- The prefix of a load or (`st`) a store, which refuses the zero policy (R61). -/
def pfxLd (p : Option Pfx) (st : Bool) : Bool :=
  match p with
  | none => true
  | some q => q.rm == 0#3 && q.sat == 0#2 && q.c == 0#6 && !(st && q.z)

/-- With a literal, IMM8 must be 0 (R54). -/
def litImm (lit : Option Imm) (i : Imm8) : Bool := lit.isNone || i == 0#8

/-- With a literal, OFF14 must be 0 (R55). -/
def litOff (lit : Option Imm) (o : BitVec 14) : Bool := lit.isNone || o == 0#14

/-- Scopes are numbered 0 to 9 (R56). -/
def scopeOk (q : Scope) : Bool := q.toNat ≤ 9

/-- Which conversions exist (R71, R150). -/
def fcvtOk (n : Bool) (s t : CvtTy) : Bool :=
  s != t && !(s.isInt && t.isInt) && s != .e2m1 && s != .e8m0 && t != .e2m1 && t != .e8m0 && (!n || t == .e4m3)

/-- AT and SCP rules common to loads and stores (R56, R214). -/
def memOk (a : Sel) (s : MemSize) (o : MemOrd) (q : Scope) (t : MemAt) : Bool :=
  vsrc64 a && scopeOk q && ((o != .plain && o != .nt) || q == 0#4) &&
  (match t with
   | .dflt => true
   | .a8 => s == .d || s == .q
   | .a16 => s == .q)

/-- Load encodings (R56, R211, R214). -/
def ldOk (d a : Sel) (s : MemSize) (o : MemOrd) (q : Scope) (t : MemAt) : Bool :=
  memOk a s o q t && (o == .plain || o == .acq || o == .csm || o == .rlx || o == .nt) &&
  (match s with
   | .q => vdst128 d
   | .d => vdst64 d
   | _ => vdst32 d)

/-- Store encodings (R56, R211, R214). -/
def stOk (d a : Sel) (s : MemSize) (o : MemOrd) (q : Scope) (t : MemAt) : Bool :=
  memOk a s o q t && (o == .plain || o == .rel || o == .rlx || o == .nt) &&
  (match s with
   | .q => vquad d
   | .d => vsrc64 d
   | .bi | .hi => false
   | _ => true)

/-- Scales 5 to 7 are reserved (R63). -/
def scaleOk (k : BitVec 3) : Bool := k.toNat ≤ 4

/-- Operand of an atomic that returns a value (R223, R225). -/
def atomD (w : Bool) (d : Sel) : Bool := if w then vpair d else vreg d

/-- Operands of `cas` (R80, R223). -/
def atomCasD (w : Bool) (d : Sel) : Bool := if w then vquad d else vpair d

/-- Data register of a borrowed load (R303). -/
def bldD (z : BSize) (d : Sel) : Bool :=
  match z with
  | .q => vdst128 d
  | .d => vdst64 d
  | _ => vdst32 d

/-- Data operand of a borrowed store (R303). -/
def bstD (z : BSize) (d : Sel) : Bool :=
  match z with
  | .q => vquad d
  | .d => vsrc64 d
  | _ => true

/-- Barriers and completion barriers are numbered 0 to 15 (R79). -/
def barNo (n : Imm8) : Bool := n.toNat ≤ 15

/-- The numbers of R108. -/
def csrAssigned (c : BitVec 12) : Bool :=
  let n := c.toNat
  n ≤ 0x008 || (0x010 ≤ n && n ≤ 0x013) || (0x020 ≤ n && n ≤ 0x022) || (0x030 ≤ n && n ≤ 0x033) ||
  (0x040 ≤ n && n ≤ 0x042) || (0x050 ≤ n && n ≤ 0x054) || (0x060 ≤ n && n ≤ 0x06F)

/-- The registers whose writes have rows of their own in the opcode table: `c.rm`, `c.srseed`, `c.fflags`, `c.rcvbase`
and `c.bpc`. -/
def csrNamed (c : BitVec 12) : Bool :=
  c == 0x020#12 || c == 0x021#12 || c == 0x022#12 || c == 0x030#12 || c == 0x054#12

/-- Bits `lo` to `lo + n - 1` of a 96-bit command. -/
def cmdFld (cmd : BitVec 96) (lo n : Nat) : BitVec n := cmd.extractLsb' lo n

/-- No reserved bit or code of a matrix command is used (R263, R264). -/
def matReserved (cmd : BitVec 96) : Bool :=
  let kind := cmdFld cmd 22 2
  let fmt := (cmdFld cmd 12 4).toNat
  let tri := cmdFld cmd 8 1 == 1#1
  let tm := cmdFld cmd 6 2
  kind.toNat ≤ 1 && fmt != 15 && tm != 3#2 && (tri || tm == 0#2) &&
  cmdFld cmd 5 1 == 0#1 && cmdFld cmd 32 6 == 0#6 &&
  (if kind == 0#2 then cmdFld cmd 20 2 == 0#2 else cmdFld cmd 43 8 == 0#8) &&
  (tri || (if 7 ≤ fmt && fmt ≤ 9 then cmdFld cmd 64 19 == 0#19 else cmdFld cmd 64 32 == 0#32))

/-- An extended `mma` (`j = false`) or `mma.j` word (R63, R263). -/
def mmaOk (j : Bool) (cmd : BitVec 96) : Bool :=
  cmdFld cmd 24 8 == 0xB0#8 && cmdFld cmd 22 2 == (if j then 1#2 else 0#2) && matReserved cmd

/-- Legal values of a copy header, MAJ and KIND aside (R277). -/
def cpHeadOk (cmd : BitVec 96) : Bool :=
  let ds := cmdFld cmd 16 6
  let scp := (cmdFld cmd 7 4).toNat
  (ds.toNat < 0x20 || ds == 0x3E#6) && cmdFld cmd 0 5 == 0#5 &&
  (if cmdFld cmd 11 1 == 1#1 then 2 ≤ scp && scp ≤ 9 else scp == 0)

/-- An extended `cp`, `cp.mx` or `cp.gx` (R63, R277). -/
def cpOk (kind : Nat) (cmd : BitVec 96) : Bool :=
  cmdFld cmd 24 8 == 0xB1#8 && (cmdFld cmd 22 2).toNat == kind && cpHeadOk cmd

/-- The encodings that are instructions; everything else raises ILL (R83). The device's own steps have no encoding. -/
def Instr.wellFormed : Instr → Bool
  | .add d a b w p => vdst w d && vsrc w a && vsrc w b && pfxVint p true none
  | .sub d a b w p => vdst w d && vsrc w a && vsrc w b && pfxVint p true none
  | .mul d a b w p => vdst w d && vsrc w a && vsrc w b && pfxVint p true none
  | .mulhi d a b w p => vdst w d && vsrc w a && vsrc w b && pfxVint p false none
  | .mulhn d a b w p => vdst w d && vsrc w a && vsrc w b && pfxVint p false none
  | .divI d a b w p => vdst w d && vsrc w a && vsrc w b && pfxVint p true none
  | .divN d a b w p => vdst w d && vsrc w a && vsrc w b && pfxVint p true none
  | .remI d a b w p => vdst w d && vsrc w a && vsrc w b && pfxVint p false none
  | .remN d a b w p => vdst w d && vsrc w a && vsrc w b && pfxVint p false none
  | .minI d a b w p => vdst w d && vsrc w a && vsrc w b && pfxVint p false none
  | .minN d a b w p => vdst w d && vsrc w a && vsrc w b && pfxVint p false none
  | .maxI d a b w p => vdst w d && vsrc w a && vsrc w b && pfxVint p false none
  | .maxN d a b w p => vdst w d && vsrc w a && vsrc w b && pfxVint p false none
  | .and d a b w p => vdst w d && vsrc w a && vsrc w b && pfxVint p false none
  | .or d a b w p => vdst w d && vsrc w a && vsrc w b && pfxVint p false none
  | .xor d a b w p => vdst w d && vsrc w a && vsrc w b && pfxVint p false none
  | .andn d a b w p => vdst w d && vsrc w a && vsrc w b && pfxVint p false none
  | .orn d a b w p => vdst w d && vsrc w a && vsrc w b && pfxVint p false none
  | .shl d a _ w p => vdst w d && vsrc w a && pfxVint p false none
  | .shr d a _ w p => vdst w d && vsrc w a && pfxVint p false none
  | .sra d a _ w p => vdst w d && vsrc w a && pfxVint p false none
  | .rol d a _ w p => vdst w d && vsrc w a && pfxVint p false none
  | .addc d a b w p => vdst64 d && vsrc w a && vsrc w b && pfxVint p false none
  | .subc d a b w p => vdst64 d && vsrc w a && vsrc w b && pfxVint p false none
  | .mad d a b w p => vdst w d && vsrc w a && vsrc w b && pfxVint p true (some w)
  | .bfxI d _ _ p => vdst32 d && pfxVint p false none
  | .bfxN d _ _ p => vdst32 d && pfxVint p false none
  | .bfi d _ _ p => vdst32 d && pfxVint p false (some false)
  | .sel d _ _ p => vdst32 d && pfxVint p false (some false)
  | .selB64 d a b p => vdst64 d && vsrc64 a && vsrc64 b && pfxVint p false (some false)
  | .bsel d _ _ p => vdst32 d && pfxVint p false (some false)
  | .abs d a w p => vdst w d && vsrc w a && pfxVint p true none
  | .neg d a w p => vdst w d && vsrc w a && pfxVint p true none
  | .clz d a w p => vdst w d && vsrc w a && pfxVint p false none
  | .ctz d a w p => vdst w d && vsrc w a && pfxVint p false none
  | .popc d a w p => vdst w d && vsrc w a && pfxVint p false none
  | .brev d a w p => vdst w d && vsrc w a && pfxVint p false none
  | .mov d a w p => vdst w d && vsrc w a && pfxVint p false none
  | .extI d _ p => vdst64 d && pfxVint p false none
  | .extN d _ p => vdst64 d && pfxVint p false none
  | .lea d a _ p => vdst64 d && vsrc64 a && pfxVint p false none
  | .dot4Ii d _ _ p => vdst32 d && pfxVint p true none
  | .dot4Nn d _ _ p => vdst32 d && pfxVint p true none
  | .dot4In d _ _ p => vdst32 d && pfxVint p true none
  | .dot8Ii d _ _ p => vdst32 d && pfxVint p true none
  | .dot8Nn d _ _ p => vdst32 d && pfxVint p true none
  | .dot8In d _ _ p => vdst32 d && pfxVint p true none
  | .addImm d _ i lit p => vdst32 d && litImm lit i && pfxVint p true none
  | .add64Imm d a i lit p => vdst64 d && vsrc64 a && litImm lit i && pfxVint p true none
  | .mulImm d _ i lit p => vdst32 d && litImm lit i && pfxVint p true none
  | .andImm d _ i lit p => vdst32 d && litImm lit i && pfxVint p false none
  | .orImm d _ i lit p => vdst32 d && litImm lit i && pfxVint p false none
  | .xorImm d _ i lit p => vdst32 d && litImm lit i && pfxVint p false none
  | .shlImm d _ i lit p => vdst32 d && litImm lit i && pfxVint p false none
  | .shrImm d _ i lit p => vdst32 d && litImm lit i && pfxVint p false none
  | .sraImm d _ i lit p => vdst32 d && litImm lit i && pfxVint p false none
  | .minIImm d _ i lit p => vdst32 d && litImm lit i && pfxVint p false none
  | .maxIImm d _ i lit p => vdst32 d && litImm lit i && pfxVint p false none
  | .moviB32 d _ p => vdst32 d && pfxVint p false none
  | .moviB64 d _ p => vdst64 d && pfxVint p false none
  | .leaImm d a i lit p => vdst64 d && vsrc64 a && litImm lit i && pfxVint p false none
  | .litB32 d _ p => vdst32 d && pfxVint p false none
  | .litB64 d _ p => vdst64 d && pfxVint p false none
  | .fadd d a b t p => vdst t.wide d && vsrc t.wide a && vsrc t.wide b && pfxVfp p none
  | .fsub d a b t p => vdst t.wide d && vsrc t.wide a && vsrc t.wide b && pfxVfp p none
  | .fmul d a b t p => vdst t.wide d && vsrc t.wide a && vsrc t.wide b && pfxVfp p none
  | .fma d a b t p => vdst t.wide d && vsrc t.wide a && vsrc t.wide b && pfxVfp p (some t.wide)
  | .fnma d a b t p => vdst t.wide d && vsrc t.wide a && vsrc t.wide b && pfxVfp p (some t.wide)
  | .fmin d a b t p => vdst t.wide d && vsrc t.wide a && vsrc t.wide b && pfxVfp p none
  | .fmax d a b t p => vdst t.wide d && vsrc t.wide a && vsrc t.wide b && pfxVfp p none
  | .fminm d a b t p => vdst t.wide d && vsrc t.wide a && vsrc t.wide b && pfxVfp p none
  | .fmaxm d a b t p => vdst t.wide d && vsrc t.wide a && vsrc t.wide b && pfxVfp p none
  | .fdiv d a b t p => vdst t.wide d && vsrc t.wide a && vsrc t.wide b && pfxVfp p none
  | .fsqrt d a t p => vdst t.wide d && vsrc t.wide a && pfxVfp p none
  | .fabs d a t p => vdst t.wide d && vsrc t.wide a && pfxVfp p none
  | .fneg d a t p => vdst t.wide d && vsrc t.wide a && pfxVfp p none
  | .fsgn d a b t p => vdst t.wide d && vsrc t.wide a && vsrc t.wide b && pfxVfp p none
  | .fclass d a t p => vdst32 d && vsrc t.wide a && pfxVfp p none
  | .fscale d a _ t p => vdst t.wide d && vsrc t.wide a && pfxVfp p none
  | .frcp d a t p => vdst t.wide d && vsrc t.wide a && pfxVfp p none
  | .frsq d a t p => vdst t.wide d && vsrc t.wide a && pfxVfp p none
  | .fex2 d a t p => vdst t.wide d && vsrc t.wide a && pfxVfp p none
  | .flg2 d a t p => vdst t.wide d && vsrc t.wide a && pfxVfp p none
  | .fsin d a t p => vdst t.wide d && vsrc t.wide a && pfxVfp p none
  | .fcos d a t p => vdst t.wide d && vsrc t.wide a && pfxVfp p none
  | .ftanh d a t p => vdst t.wide d && vsrc t.wide a && pfxVfp p none
  | .fcvt d a n s t p => fcvtOk n s t && vdst t.wide d && vsrc s.wide a && pfxCvt p t.stochastic
  | .fround d a t p => vdst t.wide d && vsrc t.wide a && pfxCvt p false
  | .fsplitBf16 d _ p => vdst64 d && pfxCvt p false
  | .fpack d a _ p => vdst32 d && vsrc64 a && pfxCvt p false
  | .funpk d a _ p => vdst32 d && vsrc64 a && pfxCvt p false
  | .caddCi16 d _ _ p => vdst32 d && pfxCpx p true
  | .caddCi32 d a b p => vdst64 d && vsrc64 a && vsrc64 b && pfxCpx p true
  | .cmulCi16 d _ _ p => vdst32 d && pfxCpx p true
  | .cmacCi16 d _ _ p => vdst64 d && pfxCpx p true
  | .cmacCi8 d _ _ p => vdst64 d && pfxCpx p true
  | .cconjCi16 d _ p => vdst32 d && pfxCpx p true
  | .cconjCi32 d a p => vdst64 d && vsrc64 a && pfxCpx p true
  | .cmag2Ci16 d _ p => vdst32 d && pfxCpx p false
  | .cunpkCi8 d _ p => vdst64 d && pfxCpx p false
  | .cunpkCi4 d _ p => vdst128 d && pfxCpx p false
  | .cmp d a b t c p => mdstC d && vsrc t.wide a && vsrc t.wide b && c != .un && pfxCmp p
  | .fcmp d a b t _ p => mdstC d && vsrc t.wide a && vsrc t.wide b && pfxCmp p
  | .xlPick d _ _ k p => vdst32 d && k != 7#3 && pfxXl p
  | .xlSwap d _ b k p => vdst32 d && k != 7#3 && (k == 0#3 || b == 0#6) && pfxXl p
  | .xlFwd d _ b k p => vdst32 d && k != 7#3 && (k == 0#3 || b == 0#6) && pfxXl p
  | .xlBack d _ b k p => vdst32 d && k != 7#3 && (k == 0#3 || b == 0#6) && pfxXl p
  | .red d a o => vdst o.wide d && vsrc o.wide a
  | .scan d a o => vdst o.wide d && vsrc o.wide a
  | .mand d a b => mdst d && msrc a && msrc b
  | .mor d a b => mdst d && msrc a && msrc b
  | .mxor d a b => mdst d && msrc a && msrc b
  | .mnot d a => mdst d && msrc a
  | .mmov d a => mdst d && msrc a
  | .mpop d a => sdst d && msrc a
  | .mfirst d a => sdst d && msrc a
  | .mset d a => mdst d && ssrc a
  | .mget d a => sdst d && msrc a
  | .voteAny d _ => sdst d
  | .voteAll d _ => sdst d
  | .ballot d _ => mdst d
  | .matchLanes d _ => vdst64 d
  | .popm d a => vdst32 d && msrc a
  | .sadd d a b => sdst d && ssrc a && ssrc b
  | .ssub d a b => sdst d && ssrc a && ssrc b
  | .smul d a b => sdst d && ssrc a && ssrc b
  | .smulhi d a b => sdst d && ssrc a && ssrc b
  | .sdiv d a b => sdst d && ssrc a && ssrc b
  | .sdivN d a b => sdst d && ssrc a && ssrc b
  | .srem d a b => sdst d && ssrc a && ssrc b
  | .sremN d a b => sdst d && ssrc a && ssrc b
  | .smin d a b => sdst d && ssrc a && ssrc b
  | .sminN d a b => sdst d && ssrc a && ssrc b
  | .smax d a b => sdst d && ssrc a && ssrc b
  | .smaxN d a b => sdst d && ssrc a && ssrc b
  | .sand d a b => sdst d && ssrc a && ssrc b
  | .sor d a b => sdst d && ssrc a && ssrc b
  | .sxor d a b => sdst d && ssrc a && ssrc b
  | .sshl d a b => sdst d && ssrc a && ssrc b
  | .sshr d a b => sdst d && ssrc a && ssrc b
  | .ssra d a b => sdst d && ssrc a && ssrc b
  | .sclz d a => sdst d && ssrc a
  | .spopc d a => sdst d && ssrc a
  | .smov d a => sdst d && ssrc a
  | .ssel d a b => sreg d && ssrc a && ssrc b
  | .scmpEq d a b => sdst d && ssrc a && ssrc b
  | .scmpNe d a b => sdst d && ssrc a && ssrc b
  | .scmpLt d a b => sdst d && ssrc a && ssrc b
  | .scmpLe d a b => sdst d && ssrc a && ssrc b
  | .scmpLtN d a b => sdst d && ssrc a && ssrc b
  | .scmpLeN d a b => sdst d && ssrc a && ssrc b
  | .saddImm d a i lit => sdst d && ssrc a && litImm lit i
  | .smulImm d a i lit => sdst d && ssrc a && litImm lit i
  | .sandImm d a i lit => sdst d && ssrc a && litImm lit i
  | .sorImm d a i lit => sdst d && ssrc a && litImm lit i
  | .sxorImm d a i lit => sdst d && ssrc a && litImm lit i
  | .sshlImm d a i lit => sdst d && ssrc a && litImm lit i
  | .sshrImm d a i lit => sdst d && ssrc a && litImm lit i
  | .ssraImm d a i lit => sdst d && ssrc a && litImm lit i
  | .smovi d _ => sdst d
  | .slit d _ => sdst d
  | .csrr d c => sdst d && csrAssigned c
  | .csrw d c => ssrc d && csrAssigned c && !csrNamed c
  | .csrs d c => ssrc d && csrAssigned c && !csrNamed c
  | .csrc d c => ssrc d && csrAssigned c && !csrNamed c
  | .sRd d a b => sdst d && vOrH a && ssrc b
  | .sWr d a b => vreg d && ssrc a && ssrc b
  | .srseedWrite _ d => ssrc d
  | .rmWrite _ d => ssrc d
  | .fflagsWrite _ d => ssrc d
  | .rcvbaseWrite _ d => ssrc d
  | .bpcWrite _ d => ssrc d
  | .bra o lit => litOff lit o
  | .brz _ o lit => litOff lit o
  | .brnz _ o lit => litOff lit o
  | .bsz c o lit => ssrc c && litOff lit o
  | .bsnz c o lit => ssrc c && litOff lit o
  | .call c o lit => vpair c && litOff lit o
  | .ret c => vpair c
  | .jmp c => vpair c
  | .exit => true
  | .nop => true
  | .yield => true
  | .sleep c => ssrc c
  | .rcvPush o lit => litOff lit o
  | .rcvWait => true
  | .rcvPop => true
  | .rcvDrop => true
  | .barTeam => true
  | .barClu => true
  | .barNamed a n => ssrcNG a && barNo n
  | .barArrive a n => ssrcNG a && barNo n
  | .cbInit a n => ssrcNG a && barNo n
  | .cbArrive n => barNo n
  | .cbWait n => barNo n
  | .cbTest d n => sdst d && barNo n
  | .ecall _ => true
  | .ebreak _ => true
  | .wcall _ => true
  | .trap _ => true
  | .wfe => true
  | .fenceI => true
  | .halt => true
  | .ld d a s o q t _ p => ldOk d a s o q t && pfxLd p false
  | .st d a s o q t _ p => stOk d a s o q t && pfxLd p true
  | .ldx d a s o q t _ k _ p => ldOk d a s o q t && scaleOk k && pfxLd p false
  | .stx d a s o q t _ k _ p => stOk d a s o q t && scaleOk k && pfxLd p true
  | .loadDataArrival _ => false
  | .atomAdd d a _ q w => atomD w d && vsrc64 a && scopeOk q
  | .atomSub d a _ q w => atomD w d && vsrc64 a && scopeOk q
  | .atomMinI d a _ q w => atomD w d && vsrc64 a && scopeOk q
  | .atomMaxI d a _ q w => atomD w d && vsrc64 a && scopeOk q
  | .atomMinN d a _ q w => atomD w d && vsrc64 a && scopeOk q
  | .atomMaxN d a _ q w => atomD w d && vsrc64 a && scopeOk q
  | .atomAnd d a _ q w => atomD w d && vsrc64 a && scopeOk q
  | .atomOr d a _ q w => atomD w d && vsrc64 a && scopeOk q
  | .atomXor d a _ q w => atomD w d && vsrc64 a && scopeOk q
  | .atomXchg d a _ q w => atomD w d && vsrc64 a && scopeOk q
  | .atomCas d a _ q w => atomCasD w d && vsrc64 a && scopeOk q
  | .atomIncw d a _ q w => atomD w d && vsrc64 a && scopeOk q
  | .atomDecw d a _ q w => atomD w d && vsrc64 a && scopeOk q
  | .atomAddF d a _ q w => atomD w d && vsrc64 a && scopeOk q
  | .atomXchgA16 d a _ q => vquad d && vsrc64 a && scopeOk q
  | .atomCasA16 d a _ q => voct d && vsrc64 a && scopeOk q
  | .memoryReduction d a _ r q w => vsrc w d && vsrc64 a && (r == .rlx || r == .rel) && scopeOk q
  | .pf _ a _ => vsrc64 a
  | .ipf a _ => vsrc64 a
  | .phaseBegin q => scopeOk q
  | .phaseEnd q => scopeOk q
  | .phase q => scopeOk q
  | .fence q => scopeOk q
  | .cwb a q _ => vsrc64 a && scopeOk q
  | .cinv a q _ => vsrc64 a && scopeOk q
  | .spClr a _ => vsrc64 a
  | .spSet a _ => vsrc64 a
  | .spTest d a _ => vdst32 d && vsrc64 a
  | .push _ a b => ssrc a && ssrc b
  | .pop d _ => sdst d
  | .mrdy => true
  | .mma cmd => mmaOk false cmd
  | .mmaJ cmd => mmaOk true cmd
  | .mmaStart _ => false
  | .mmaComplete _ => false
  | .cp cmd => cpOk 0 cmd
  | .cpMx cmd => cpOk 1 cmd
  | .cpGx cmd => cpOk 2 cmd
  | .copyEnterFlight _ => false
  | .copyRowLanding _ _ => false
  | .copyComplete _ => false
  | .copyFail _ _ => false
  | .followOnAppend _ => false
  | .netPut a b => ssrcNG a && ssrcNG b
  | .netGet a b => ssrcNG a && ssrcNG b
  | .netSend a b => ssrcNG a && ssrcNG b
  | .netRecv a b => ssrcNG a && ssrcNG b
  | .netRed a b => ssrcNG a && ssrcNG b
  | .netFence b => ssrcNG b
  | .netCommandStart _ => false
  | .netPacketReceive _ => false
  | .packetRetransmit _ => false
  | .netLocalCompletion _ => false
  | .completionRingSpace _ => false
  | .launch d a b => sdst d && ssrc a && ssrc b
  | .gang d a b => sdst d && ssrc a && ssrc b
  | .cancel a => ssrc a
  | .vsel d a b => sdst d && ssrc a && ssrc b
  | .pipePut a _ => ssrc a
  | .pipeGet d a => vdst64 d && ssrc a
  | .pipeClose a => ssrc a
  | .svcReg a b => ssrc a && ssrc b
  | .launchStart => false
  | .teamRelease _ _ => false
  | .teamPlacement _ _ => false
  | .fairnessExpiry _ _ => false
  | .teamRetire _ => false
  | .groupTeardown _ _ => false
  | .agingPromotion _ _ => false
  | .srep _ b => vsrc64 b
  | .sdone _ => true
  | .freeze a => ssrc a
  | .thaw a => ssrc a
  | .swapout a => ssrc a
  | .swapoutDrainDone _ => false
  | .swapin a => ssrc a
  | .fltDone _ => true
  | .logReplayRecord _ _ _ => false
  | .tlbInv s a => (s == 3#6 || s == 5#6 || s == 6#6) && ssrc a
  | .tlbProbe d a => vdst64 d && vsrc64 a
  | .bld d a _ z => bldD z d && vsrc64 a
  | .bst d a _ z => bstD z d && vsrc64 a
  | .potSet d a b => sdst d && ssrc a && ssrc b
  | .potGet d a => sdst d && ssrc a
  | .frameCls d a b => sdst d && ssrc a && ssrc b
  | .gesso d a b => sdst d && ssrc a && ssrc b
  | .keyNew d a b => sdst d && ssrc a && ssrc b
  | .hotRd d a b => sdst d && ssrc a && ssrc b
  | .varnishBegin d a => sdst d && ssrc a
  | .varnishEnd d a => sdst d && ssrc a
  | .clkPlan d => sdst d
  | .clockRelock => false
  | .cntCfg d a b => sdst d && ssrc a && ssrc b
  | .cntRd d a => sdst d && ssrc a
  | .cntClr d a => sdst d && ssrc a
  | .ebudSet d a b => sdst d && ssrc a && ssrc b
  | .ebudRd d a => sdst d && ssrc a
  | .tokLim d a b => sdst d && ssrc a && ssrc b
  | .tcmpSet d a b => sdst d && ssrc a && ssrc b
  | .icacheFill _ _ => false
  | .breakpointMatch _ _ _ => false
  | .sleepExpiry _ _ _ => false
  | .wfeWake _ _ _ => false
  | .ecallRetry _ _ _ => false
  | .timerFire _ _ => false
  | .deviceRecordPost _ => false
  | .barTimeout _ _ _ => false
  | .patrol _ => false
  | .hotnessIntervalEnd _ => false
  | .ingestPacket _ => false
  | .ingestHeldWrite _ => false
  | .pauseBudgetExpiry _ _ => false
  | .xoffRefresh _ _ => false
  | .doorbellWrite _ => false
  | .ssdDataAccess _ _ _ _ _ _ => false
  | .nvmeCompletion _ _ _ _ => false
  | .domainStateWrite _ _ => false
  | .domainDrained _ => false
  | .tctlWrite _ => false
  | .potInitialisationDone => false
  | .worldTableReserveWrite _ _ => false
  | .wayGlazingDone _ => false
  | .vaultAllocationWrite _ _ _ => false
  | .segmentZeroingDone _ _ => false
  | .flashProgram _ _ => false
  | .sectorErase _ => false
  | .flashOperationDone _ => false
  | .deviceRegisterWrite _ _ _ => false
  | .powerOn => false
  | .pinReset => false
  | .stackTrainingDone _ => false
  | .thermtrip => false
  | .translationWalkDone _ => false
  | .arrayFinish _ _ => false
  | .scratchpadClearDone _ => false
  | .softError _ _ _ => false
  | .powerRemoval => false
  | .resetNAsserted => false
  | .portLinkChange _ _ => false

end Sys2Proof
end

