-- ==== Sys2Proof/Machine/Integer.lean ====
section
/-! DEFINITION. Vector integer, logical and address instructions and the integer compare (R120 to R132). -/

namespace Sys2Proof.Machine

/-! ## Exact integers and how they fit (R29 to R31) -/

/-- 32 or 64 (R68). -/
def wid (w : Bool) : Nat := if w then 64 else 32

/-- The residue of an exact value modulo 2^w. -/
def wrap (w : Nat) (x : Int) : Nat := (x % (2 ^ w : Int)).toNat

/-- A `w`-bit pattern read as two's complement. -/
def signedOf (w x : Nat) : Int := if x < 2 ^ (w - 1) then (x : Int) else (x : Int) - 2 ^ w

/-- Clamp to a range. -/
def clampTo (lo hi x : Int) : Int := if x < lo then lo else if hi < x then hi else x

/-- The saturation code of a prefix; none without one (R30). -/
def satOf (p : Option Pfx) : BitVec 2 :=
  match p with
  | none => 0#2
  | some q => q.sat

/-- An exact result brought to width `w` as SAT directs (R30). -/
def fitSat (p : Option Pfx) (w : Nat) (x : Int) : Nat :=
  match (satOf p).toNat with
  | 1 => wrap w (clampTo (-(2 ^ (w - 1))) (2 ^ (w - 1) - 1) x)
  | 2 => wrap w (clampTo 0 (2 ^ w - 1) x)
  | _ => wrap w x

/-- Operand `i`, by bits. -/
def arg (v : List DWord) (i : Nat) : DWord := v.getD i 0#64

/-- Operand `i` read unsigned. -/
def un (_w : Bool) (v : List DWord) (i : Nat) : Int := ((arg v i).toNat : Int)

/-- Operand `i` read signed at width `w`. -/
def sg (w : Bool) (v : List DWord) (i : Nat) : Int := signedOf (wid w) (arg v i).toNat

/-- Operand `i` read as SAT directs: unsigned under `sat=u`, else signed; without SAT the wrapped result is the same
either way (R122). -/
def rd (p : Option Pfx) (w : Bool) (v : List DWord) (i : Nat) : Int :=
  if satOf p == 2#2 then un w v i else sg w v i

/-- The exact signed quotient (R31). -/
def quotI (a b : Int) : Int := if b == 0 then -1 else Int.tdiv a b

/-- The exact unsigned quotient at width `w` (R31). -/
def quotN (w : Nat) (a b : Int) : Int := if b == 0 then 2 ^ w - 1 else Int.tdiv a b

/-- The remainder (R31). -/
def remI (a b : Int) : Int := if b == 0 then a else Int.tmod a b

/-! ## Bit operations -/

/-- Shift amount: bits 7..0 (R123). -/
def shiftAmt (x : DWord) : Nat := x.toNat % 256

/-- R123. -/
def shl (w a n : Nat) : Nat := if w ≤ n then 0 else (a * 2 ^ n) % 2 ^ w

/-- R123. -/
def shr (w a n : Nat) : Nat := if w ≤ n then 0 else a / 2 ^ n

/-- R123. -/
def sra (w a n : Nat) : Nat := wrap w ((signedOf w a).shiftRight n)

/-- R123. -/
def rol (w a n : Nat) : Nat :=
  let k := n % w
  (a * 2 ^ k) % 2 ^ w + a / 2 ^ (w - k)

/-- Leading zero bits of a `w`-bit value. -/
def clz (w a : Nat) : Nat := ((List.range w).reverse.takeWhile fun i => !a.testBit i).length

/-- Trailing zero bits of a `w`-bit value. -/
def ctz (w a : Nat) : Nat := ((List.range w).takeWhile fun i => !a.testBit i).length

/-- Set bits of a `w`-bit value. -/
def popc (w a : Nat) : Nat := ((List.range w).filter fun i => a.testBit i).length

/-- The number whose bit `i`, below `w`, is `f i`. -/
def ofBits (w : Nat) (f : Nat → Bool) : Nat :=
  (List.range w).foldl (fun n i => if f i then n + 2 ^ i else n) 0

/-- R129. -/
def brev (w a : Nat) : Nat := ofBits w fun i => a.testBit (w - 1 - i)

/-- Position and length of a bit field (R126). -/
def fieldPos (b : DWord) : Nat × Nat := (b.toNat % 256, min 32 (b.toNat / 256 % 256))

/-- R126: `Bfx`. -/
def bfx (signed : Bool) (a b : DWord) : Nat :=
  let (p, n) := fieldPos b
  let e : Int := (if signed then signedOf 32 a.toNat else (a.toNat : Int)).shiftRight p
  if n == 0 then 0 else if signed then wrap 32 (signedOf n (wrap n e)) else wrap n e

/-- R126: `Bfi`, with base `c`. -/
def bfi (a b c : DWord) : Nat :=
  let (p, n) := fieldPos b
  ofBits 32 fun i => if p ≤ i && i < p + n then a.toNat.testBit (i - p) else c.toNat.testBit i

/-- One byte of `Bsel`: control byte `s` over the pool (R126). -/
def bselByte (pool s : Nat) : Nat :=
  let b := pool / 2 ^ (8 * (s % 8)) % 256
  let f := match s / 16 % 4 with
    | 1 => if b.testBit 7 then 0xFF else 0x00
    | 2 => 0x00
    | 3 => 0xFF
    | _ => b
  if s.testBit 3 then brev 8 f else f

/-- R126: `Bsel`. -/
def bsel (a b c : DWord) : Nat :=
  let pool := a.toNat + 2 ^ 32 * b.toNat
  (List.range 4).foldl (fun r i => r + bselByte pool (c.toNat / 2 ^ (8 * i) % 256) * 2 ^ (8 * i)) 0

/-- The choice of `sel`: the first operand if the third is not 0, else the second (R126). -/
def selectV (v : List DWord) : Nat := if (arg v 2).toNat % 2 ^ 32 == 0 then (arg v 1).toNat else (arg v 0).toNat

/-- The carry-in of `addc` and `subc`: bit 32 of `h0` (R127). -/
def carryIn (h : DWord) : Int := if h.getLsbD 32 then 1 else 0

/-- Element `i`, of `k` bits, of a packed word (R29). -/
def elem (k : Nat) (signed : Bool) (x : DWord) (i : Nat) : Int :=
  let e := x.toNat / 2 ^ (k * i) % 2 ^ k
  if signed then signedOf k e else (e : Int)

/-- R128: the sum of the products of the packed elements. -/
def dot (k : Nat) (sa sb : Bool) (a b : DWord) : Int :=
  (List.range (32 / k)).foldl (fun t i => t + elem k sa a i * elem k sb b i) 0

/-! ## Immediates (R54, R130) -/

/-- The immediate's bits: IMM8 sign-extended, or the literal. -/
def kbits (i : Imm8) (lit : Option Imm) : DWord :=
  match lit with
  | some k => k
  | none => i.signExtend 64

/-- The immediate as an operand of width `w`: unsigned under `sat=u`, else signed (R122; log entry 10). -/
def kval (p : Option Pfx) (w : Bool) (i : Imm8) (lit : Option Imm) : Int :=
  let x := (kbits i lit).toNat % 2 ^ wid w
  if satOf p == 2#2 then (x : Int) else signedOf (wid w) x

/-- The shift amount of the immediate forms. -/
def kshift (i : Imm8) (lit : Option Imm) : Nat :=
  match lit with
  | some k => k.toNat % 256
  | none => i.toNat

/-! ## Skeletons -/

/-- A vector integer instruction: `f` gives the result from the operands' values; no flags, no rounding (R120). -/
def intIssue (s : State) (p : Option Pfx) (d : Sel) (wd : Bool) (srcs : List (Sel × Bool)) (four : Option Bool)
    (f : List DWord → Nat) : Out :=
  vectorIssue s { p := p, d := d, dw := DW.of wd, srcs := srcs, four := four, old := false } fun _ t v =>
    { val := BitVec.ofNat 128 (f v), flags := 0#5, srg := t.srg }

/-- A dot product: the destination's old value is the third operand, and there is no fourth (R128). -/
def dotIssue (s : State) (p : Option Pfx) (d a b : Sel) (f : List DWord → Nat) : Out :=
  vectorIssue s { p := p, d := d, dw := .w32, srcs := [(a, false), (b, false)], four := none, old := true } fun _ t v =>
    { val := BitVec.ofNat 128 (f v), flags := 0#5, srg := t.srg }

/-- Bit updates of a mask from per-lane results: active lanes take theirs, inactive lanes keep their bit or, under the
zero policy, clear it; other lanes keep theirs (R132, R160). The poison bit is set when an active lane read a poisoned
source (or the prefix mask was), cleared when none did and every bit was written, else kept. `lanes` is the cohort or the
participant set. -/
def maskUpdate (g : Group) (n : Nat) (lanes act : DWord) (zero : Bool) (bits : DWord) (pois : Bool) : Group :=
  let r := g.mask n
  let on := lanes &&& act
  let off := lanes &&& ~~~act &&& lowLanes g.gw
  let kept := r.val &&& ~~~on &&& (if zero then ~~~off else BitVec.allOnes 64)
  let allw := lanes &&& lowLanes g.gw == lowLanes g.gw && (off == 0#64 || zero)
  g.setMask n { val := kept ||| (bits &&& on), poison := pois || (r.poison && !allw) }

/-- Does a prefix select the zero policy? -/
def pfxZero (p : Option Pfx) : Bool :=
  match p with
  | none => false
  | some q => q.z

/-- A compare into a mask (R132, R147): it pushes nothing; the flags of the active lanes join `c.fflags`. -/
def compareIssue (s : State) (p : Option Pfx) (d : Sel) (w : Bool) (a b : Sel) (f : Group → List DWord → Bool × BitVec 5) :
    Out :=
  onGroup s fun g =>
    let x : VInst := { p := p, d := 0x3F#6, dw := DW.of w, srcs := [(a, w), (b, w)], four := none, old := false }
    withRegs s g x.names <|
      if pfxFaults g p then raiseCohort s g (.plain .poison)
      else
        let (act, mp) := pfxLanes s.tick g p
        if x.waits s g act then notReady s
        else
          let run := g.inMask (s.cur.lanes &&& act)
          let res (t : Thread) := f g ((x.values s.tick g t).map fun v => v.val.setWidth 64)
          let bits := laneMask ((run.filter fun t => (res t).1).map (·.lane))
          let pois := run.any fun t => (x.values s.tick g t).any (·.poison)
          let fl := run.foldl (fun m t => m ||| (res t).2) 0#5
          let g1 := movePast s { g with fflags := g.fflags ||| fl }
          .next (s.putGroup (if d == 0x3F#6 then g1
            else maskUpdate g1 d.toNat s.cur.lanes act (pfxZero p) bits (pois || (mp && !run.isEmpty))))

/-- Does an integer comparison hold (R132)? -/
def intHolds (t : ITy) (c : Cond) (a b : DWord) : Bool :=
  let w := t.wide
  let v := [a, b]
  let (x, y) := match t with
    | .i32 | .i64 => (sg w v 0, sg w v 1)
    | .n32 | .n64 => (un w v 0, un w v 1)
  match c with
  | .eq => x == y
  | .ne => x != y
  | .lt => x < y
  | .le => x ≤ y
  | .gt => x > y
  | .ge => x ≥ y
  | .un => false

/-! ## The instructions -/

/-- R125: a + b. -/
def execAdd (d a b : Sel) (w : Bool) (p : Option Pfx) (s : State) : Out :=
  intIssue s p d w [(a, w), (b, w)] none fun v => fitSat p (wid w) (rd p w v 0 + rd p w v 1)

/-- R125: a − b. -/
def execSub (d a b : Sel) (w : Bool) (p : Option Pfx) (s : State) : Out :=
  intIssue s p d w [(a, w), (b, w)] none fun v => fitSat p (wid w) (rd p w v 0 - rd p w v 1)

/-- R125: a × b. -/
def execMul (d a b : Sel) (w : Bool) (p : Option Pfx) (s : State) : Out :=
  intIssue s p d w [(a, w), (b, w)] none fun v => fitSat p (wid w) (rd p w v 0 * rd p w v 1)

/-- R125: the high half of a × b, signed. -/
def execMulhi (d a b : Sel) (w : Bool) (p : Option Pfx) (s : State) : Out :=
  intIssue s p d w [(a, w), (b, w)] none fun v => wrap (wid w) ((sg w v 0 * sg w v 1).shiftRight (wid w))

/-- R125: the high half of a × b, unsigned. -/
def execMulhn (d a b : Sel) (w : Bool) (p : Option Pfx) (s : State) : Out :=
  intIssue s p d w [(a, w), (b, w)] none fun v => wrap (wid w) ((un w v 0 * un w v 1).shiftRight (wid w))

/-- R125, R31: the signed quotient. -/
def execDivI (d a b : Sel) (w : Bool) (p : Option Pfx) (s : State) : Out :=
  intIssue s p d w [(a, w), (b, w)] none fun v => fitSat p (wid w) (quotI (sg w v 0) (sg w v 1))

/-- R125, R31: the unsigned quotient; SAT chooses only the clamp range. -/
def execDivN (d a b : Sel) (w : Bool) (p : Option Pfx) (s : State) : Out :=
  intIssue s p d w [(a, w), (b, w)] none fun v => fitSat p (wid w) (quotN (wid w) (un w v 0) (un w v 1))

/-- R125, R31: the signed remainder. -/
def execRemI (d a b : Sel) (w : Bool) (p : Option Pfx) (s : State) : Out :=
  intIssue s p d w [(a, w), (b, w)] none fun v => wrap (wid w) (remI (sg w v 0) (sg w v 1))

/-- R125, R31: the unsigned remainder. -/
def execRemN (d a b : Sel) (w : Bool) (p : Option Pfx) (s : State) : Out :=
  intIssue s p d w [(a, w), (b, w)] none fun v => wrap (wid w) (remI (un w v 0) (un w v 1))

/-- R125: the smaller, signed. -/
def execMinI (d a b : Sel) (w : Bool) (p : Option Pfx) (s : State) : Out :=
  intIssue s p d w [(a, w), (b, w)] none fun v => wrap (wid w) (min (sg w v 0) (sg w v 1))

/-- R125: the smaller, unsigned. -/
def execMinN (d a b : Sel) (w : Bool) (p : Option Pfx) (s : State) : Out :=
  intIssue s p d w [(a, w), (b, w)] none fun v => wrap (wid w) (min (un w v 0) (un w v 1))

/-- R125: the larger, signed. -/
def execMaxI (d a b : Sel) (w : Bool) (p : Option Pfx) (s : State) : Out :=
  intIssue s p d w [(a, w), (b, w)] none fun v => wrap (wid w) (max (sg w v 0) (sg w v 1))

/-- R125: the larger, unsigned. -/
def execMaxN (d a b : Sel) (w : Bool) (p : Option Pfx) (s : State) : Out :=
  intIssue s p d w [(a, w), (b, w)] none fun v => wrap (wid w) (max (un w v 0) (un w v 1))

/-- R125: a AND b. -/
def execAnd (d a b : Sel) (w : Bool) (p : Option Pfx) (s : State) : Out :=
  intIssue s p d w [(a, w), (b, w)] none fun v => (arg v 0 &&& arg v 1).toNat

/-- R125: a OR b. -/
def execOr (d a b : Sel) (w : Bool) (p : Option Pfx) (s : State) : Out :=
  intIssue s p d w [(a, w), (b, w)] none fun v => (arg v 0 ||| arg v 1).toNat

/-- R125: a XOR b. -/
def execXor (d a b : Sel) (w : Bool) (p : Option Pfx) (s : State) : Out :=
  intIssue s p d w [(a, w), (b, w)] none fun v => (arg v 0 ^^^ arg v 1).toNat

/-- R125: a AND NOT b. -/
def execAndn (d a b : Sel) (w : Bool) (p : Option Pfx) (s : State) : Out :=
  intIssue s p d w [(a, w), (b, w)] none fun v => (arg v 0 &&& ~~~arg v 1).toNat

/-- R125: a OR NOT b. -/
def execOrn (d a b : Sel) (w : Bool) (p : Option Pfx) (s : State) : Out :=
  intIssue s p d w [(a, w), (b, w)] none fun v => wrap (wid w) (arg v 0 ||| ~~~arg v 1).toNat

/-- R123, R125: shift left by bits 7..0 of B, which is a 32-bit operand. -/
def execShl (d a b : Sel) (w : Bool) (p : Option Pfx) (s : State) : Out :=
  intIssue s p d w [(a, w), (b, false)] none fun v => shl (wid w) (arg v 0).toNat (shiftAmt (arg v 1))

/-- R123, R125: shift right, zeros in by bits 7..0 of B, which is a 32-bit operand. -/
def execShr (d a b : Sel) (w : Bool) (p : Option Pfx) (s : State) : Out :=
  intIssue s p d w [(a, w), (b, false)] none fun v => shr (wid w) (arg v 0).toNat (shiftAmt (arg v 1))

/-- R123, R125: shift right, sign in by bits 7..0 of B, which is a 32-bit operand. -/
def execSra (d a b : Sel) (w : Bool) (p : Option Pfx) (s : State) : Out :=
  intIssue s p d w [(a, w), (b, false)] none fun v => sra (wid w) (arg v 0).toNat (shiftAmt (arg v 1))

/-- R123, R125: rotate left by bits 7..0 of B, which is a 32-bit operand. -/
def execRol (d a b : Sel) (w : Bool) (p : Option Pfx) (s : State) : Out :=
  intIssue s p d w [(a, w), (b, false)] none fun v => rol (wid w) (arg v 0).toNat (shiftAmt (arg v 1))

/-- R127: a + b + ci, with the carry-in in bit 32 of `h0`. The 32-bit form writes a pair with the new carry in bit 32. -/
def execAddc (d a b : Sel) (w : Bool) (p : Option Pfx) (s : State) : Out :=
  intIssue s p d true [(a, w), (b, w), (0x20#6, true)] none fun v =>
    let x : Int := un w v 0 + un w v 1 + carryIn (arg v 2)
    if w then wrap 64 x else wrap 32 x + (if 2 ^ 32 ≤ x then 2 ^ 32 else 0)

/-- R127: a − b − ci, with the carry-in in bit 32 of `h0`. The 32-bit form writes a pair with the new carry in bit 32. -/
def execSubc (d a b : Sel) (w : Bool) (p : Option Pfx) (s : State) : Out :=
  intIssue s p d true [(a, w), (b, w), (0x20#6, true)] none fun v =>
    let x : Int := un w v 0 - un w v 1 - carryIn (arg v 2)
    if w then wrap 64 x else wrap 32 x + (if x < 0 then 2 ^ 32 else 0)

/-- R126: a × b + c, c the fourth operand. -/
def execMad (d a b : Sel) (w : Bool) (p : Option Pfx) (s : State) : Out :=
  intIssue s p d w [(a, w), (b, w)] (some w) fun v => fitSat p (wid w) (rd p w v 0 * rd p w v 1 + rd p w v 2)

/-- R126: signed field extract. -/
def execBfxI (d a b : Sel) (p : Option Pfx) (s : State) : Out :=
  intIssue s p d false [(a, false), (b, false)] none fun v => bfx true (arg v 0) (arg v 1)

/-- R126: unsigned field extract. -/
def execBfxN (d a b : Sel) (p : Option Pfx) (s : State) : Out :=
  intIssue s p d false [(a, false), (b, false)] none fun v => bfx false (arg v 0) (arg v 1)

/-- R126: field insert into the fourth operand. -/
def execBfi (d a b : Sel) (p : Option Pfx) (s : State) : Out :=
  intIssue s p d false [(a, false), (b, false)] (some false) fun v => bfi (arg v 0) (arg v 1) (arg v 2)

/-- R126: a if the fourth operand is not 0, else b. -/
def execSel (d a b : Sel) (p : Option Pfx) (s : State) : Out :=
  intIssue s p d false [(a, false), (b, false)] (some false) fun v => selectV v

/-- R126: as `sel` on pairs, with a 32-bit fourth operand. -/
def execSelB64 (d a b : Sel) (p : Option Pfx) (s : State) : Out :=
  intIssue s p d true [(a, true), (b, true)] (some false) fun v => selectV v

/-- R126: byte select by the fourth operand's four control bytes. -/
def execBsel (d a b : Sel) (p : Option Pfx) (s : State) : Out :=
  intIssue s p d false [(a, false), (b, false)] (some false) fun v => bsel (arg v 0) (arg v 1) (arg v 2)

/-- R129: the absolute value, a read signed. -/
def execAbs (d a : Sel) (w : Bool) (p : Option Pfx) (s : State) : Out :=
  intIssue s p d w [(a, w)] none fun v => fitSat p (wid w) ((sg w v 0).natAbs : Int)

/-- R129: −a, a read signed. -/
def execNeg (d a : Sel) (w : Bool) (p : Option Pfx) (s : State) : Out :=
  intIssue s p d w [(a, w)] none fun v => fitSat p (wid w) (-(sg w v 0))

/-- R129: leading zero bits. -/
def execClz (d a : Sel) (w : Bool) (p : Option Pfx) (s : State) : Out :=
  intIssue s p d w [(a, w)] none fun v => clz (wid w) (arg v 0).toNat

/-- R129: trailing zero bits. -/
def execCtz (d a : Sel) (w : Bool) (p : Option Pfx) (s : State) : Out :=
  intIssue s p d w [(a, w)] none fun v => ctz (wid w) (arg v 0).toNat

/-- R129: set bits. -/
def execPopc (d a : Sel) (w : Bool) (p : Option Pfx) (s : State) : Out :=
  intIssue s p d w [(a, w)] none fun v => popc (wid w) (arg v 0).toNat

/-- R129: the bits in reverse order. -/
def execBrev (d a : Sel) (w : Bool) (p : Option Pfx) (s : State) : Out :=
  intIssue s p d w [(a, w)] none fun v => brev (wid w) (arg v 0).toNat

/-- R129: a. -/
def execMov (d a : Sel) (w : Bool) (p : Option Pfx) (s : State) : Out :=
  intIssue s p d w [(a, w)] none fun v => (arg v 0).toNat

/-- R129: sign extension of a 32-bit source to a pair. -/
def execExtI (d a : Sel) (p : Option Pfx) (s : State) : Out :=
  intIssue s p d true [(a, false)] none fun v => wrap 64 (sg false v 0)

/-- R129: zero extension of a 32-bit source to a pair. -/
def execExtN (d a : Sel) (p : Option Pfx) (s : State) : Out :=
  intIssue s p d true [(a, false)] none fun v => (arg v 0).toNat

/-- R131: a + SignExtend(b, 32), modulo 2^64. -/
def execLea (d a b : Sel) (p : Option Pfx) (s : State) : Out :=
  intIssue s p d true [(a, true), (b, false)] none fun v => wrap 64 (un true v 0 + sg false v 1)

/-- R128: the destination's old value plus the products of 4 8-bit elements. -/
def execDot4Ii (d a b : Sel) (p : Option Pfx) (s : State) : Out :=
  dotIssue s p d a b fun v => fitSat p 32 (sg false v 2 + dot 8 true true (arg v 0) (arg v 1))

/-- R128: the destination's old value plus the products of 4 8-bit elements. -/
def execDot4Nn (d a b : Sel) (p : Option Pfx) (s : State) : Out :=
  dotIssue s p d a b fun v => fitSat p 32 (sg false v 2 + dot 8 false false (arg v 0) (arg v 1))

/-- R128: the destination's old value plus the products of 4 8-bit elements. -/
def execDot4In (d a b : Sel) (p : Option Pfx) (s : State) : Out :=
  dotIssue s p d a b fun v => fitSat p 32 (sg false v 2 + dot 8 true false (arg v 0) (arg v 1))

/-- R128: the destination's old value plus the products of 8 4-bit elements. -/
def execDot8Ii (d a b : Sel) (p : Option Pfx) (s : State) : Out :=
  dotIssue s p d a b fun v => fitSat p 32 (sg false v 2 + dot 4 true true (arg v 0) (arg v 1))

/-- R128: the destination's old value plus the products of 8 4-bit elements. -/
def execDot8Nn (d a b : Sel) (p : Option Pfx) (s : State) : Out :=
  dotIssue s p d a b fun v => fitSat p 32 (sg false v 2 + dot 4 false false (arg v 0) (arg v 1))

/-- R128: the destination's old value plus the products of 8 4-bit elements. -/
def execDot8In (d a b : Sel) (p : Option Pfx) (s : State) : Out :=
  dotIssue s p d a b fun v => fitSat p 32 (sg false v 2 + dot 4 true false (arg v 0) (arg v 1))

/-- R130: a + k. -/
def execAddImm (d a : Sel) (i : Imm8) (lit : Option Imm) (p : Option Pfx) (s : State) : Out :=
  intIssue s p d false [(a, false)] none fun v => fitSat p 32 (rd p false v 0 + kval p false i lit)

/-- R130: a + k on pairs. -/
def execAdd64Imm (d a : Sel) (i : Imm8) (lit : Option Imm) (p : Option Pfx) (s : State) : Out :=
  intIssue s p d true [(a, true)] none fun v => fitSat p 64 (rd p true v 0 + kval p true i lit)

/-- R130: a × k. -/
def execMulImm (d a : Sel) (i : Imm8) (lit : Option Imm) (p : Option Pfx) (s : State) : Out :=
  intIssue s p d false [(a, false)] none fun v => fitSat p 32 (rd p false v 0 * kval p false i lit)

/-- R130: a AND k. -/
def execAndImm (d a : Sel) (i : Imm8) (lit : Option Imm) (p : Option Pfx) (s : State) : Out :=
  intIssue s p d false [(a, false)] none fun v => wrap 32 (arg v 0 &&& kbits i lit).toNat

/-- R130: a OR k. -/
def execOrImm (d a : Sel) (i : Imm8) (lit : Option Imm) (p : Option Pfx) (s : State) : Out :=
  intIssue s p d false [(a, false)] none fun v => wrap 32 (arg v 0 ||| kbits i lit).toNat

/-- R130: a XOR k. -/
def execXorImm (d a : Sel) (i : Imm8) (lit : Option Imm) (p : Option Pfx) (s : State) : Out :=
  intIssue s p d false [(a, false)] none fun v => wrap 32 (arg v 0 ^^^ kbits i lit).toNat

/-- R130: shift by IMM8 read unsigned, or bits 7..0 of the literal. -/
def execShlImm (d a : Sel) (i : Imm8) (lit : Option Imm) (p : Option Pfx) (s : State) : Out :=
  intIssue s p d false [(a, false)] none fun v => shl 32 (arg v 0).toNat (kshift i lit)

/-- R130: shift by IMM8 read unsigned, or bits 7..0 of the literal. -/
def execShrImm (d a : Sel) (i : Imm8) (lit : Option Imm) (p : Option Pfx) (s : State) : Out :=
  intIssue s p d false [(a, false)] none fun v => shr 32 (arg v 0).toNat (kshift i lit)

/-- R130: shift by IMM8 read unsigned, or bits 7..0 of the literal. -/
def execSraImm (d a : Sel) (i : Imm8) (lit : Option Imm) (p : Option Pfx) (s : State) : Out :=
  intIssue s p d false [(a, false)] none fun v => sra 32 (arg v 0).toNat (kshift i lit)

/-- R130: the smaller, signed. -/
def execMinIImm (d a : Sel) (i : Imm8) (lit : Option Imm) (p : Option Pfx) (s : State) : Out :=
  intIssue s p d false [(a, false)] none fun v => wrap 32 (min (sg false v 0) (kval none false i lit))

/-- R130: the larger, signed. -/
def execMaxIImm (d a : Sel) (i : Imm8) (lit : Option Imm) (p : Option Pfx) (s : State) : Out :=
  intIssue s p d false [(a, false)] none fun v => wrap 32 (max (sg false v 0) (kval none false i lit))

/-- R130: a + k modulo 2^64 (R131). -/
def execLeaImm (d a : Sel) (i : Imm8) (lit : Option Imm) (p : Option Pfx) (s : State) : Out :=
  intIssue s p d true [(a, true)] none fun v => wrap 64 (un true v 0 + (kbits i lit).toInt)

/-- R130: the sign-extended immediate. It reads no source. -/
def execMoviB32 (d : Sel) (i : Imm8) (p : Option Pfx) (s : State) : Out :=
  intIssue s p d false [] none fun _ => wrap 32 (kbits i none).toInt

/-- R130: the sign-extended immediate, into a pair. -/
def execMoviB64 (d : Sel) (i : Imm8) (p : Option Pfx) (s : State) : Out :=
  intIssue s p d true [] none fun _ => wrap 64 (kbits i none).toInt

/-- R130: the low 32 bits of the literal. -/
def execLitB32 (d : Sel) (k : Imm) (p : Option Pfx) (s : State) : Out :=
  intIssue s p d false [] none fun _ => wrap 32 k.toInt

/-- R130: the literal, into a pair. -/
def execLitB64 (d : Sel) (k : Imm) (p : Option Pfx) (s : State) : Out :=
  intIssue s p d true [] none fun _ => k.toNat

/-- R132: compare integers into a mask. -/
def execCmp (d a b : Sel) (t : ITy) (c : Cond) (p : Option Pfx) (s : State) : Out :=
  compareIssue s p d t.wide a b fun _ v => (intHolds t c (arg v 0) (arg v 1), 0#5)

end Sys2Proof.Machine
end

