-- ==== Sys2Proof/Machine/Float.lean ====
section
/-! DEFINITION. Floating-point formats and the exact arithmetic on them: a value is taken apart, the operation is computed
exactly on sign, integer significand and binary exponent, and the result is rounded once (R33 to R45). -/

namespace Sys2Proof.Machine

/-! ## Formats -/

/-- Floating-point formats with a sign (R33). -/
inductive FF where
  | f64 | f32 | f16 | bf16 | e4m3 | e5m2 | e2m1
  deriving DecidableEq, Repr

/-- Bits of an encoding. -/
def FF.width : FF → Nat
  | .f64 => 64 | .f32 => 32 | .f16 => 16 | .bf16 => 16 | .e4m3 => 8 | .e5m2 => 8 | .e2m1 => 4

/-- Fraction bits. -/
def FF.frac : FF → Nat
  | .f64 => 52 | .f32 => 23 | .f16 => 10 | .bf16 => 7 | .e4m3 => 3 | .e5m2 => 2 | .e2m1 => 1

/-- Exponent bias. -/
def FF.bias : FF → Nat
  | .f64 => 1023 | .f32 => 127 | .f16 => 15 | .bf16 => 127 | .e4m3 => 7 | .e5m2 => 15 | .e2m1 => 1

/-- Exponent of the least significant bit of a subnormal. -/
def FF.qmin (f : FF) : Int := 1 - (f.bias : Int) - f.frac

/-- Encoding of the largest finite magnitude. -/
def FF.maxMag : FF → Nat
  | .f64 => 0x7FEFFFFFFFFFFFFF | .f32 => 0x7F7FFFFF | .f16 => 0x7BFF | .bf16 => 0x7F7F | .e4m3 => 0x7E | .e5m2 => 0x7B
  | .e2m1 => 0x7

/-- Encoding of the canonical NaN (R33); e2m1 has none. -/
def FF.nan : FF → Nat
  | .f64 => 0x7FF8000000000000 | .f32 => 0x7FC00000 | .f16 => 0x7E00 | .bf16 => 0x7FC0 | .e4m3 => 0x7F | .e5m2 => 0x7E
  | .e2m1 => 0

/-- Encoding of infinity, where the format has one. -/
def FF.inf (f : FF) : Nat := f.maxMag + 1

/-- Does the format have infinities? -/
def FF.hasInf : FF → Bool
  | .e4m3 | .e2m1 => false
  | _ => true

/-- The sign bit as a number. -/
def FF.signBit (f : FF) (s : Bool) : Nat := if s then 2 ^ (f.width - 1) else 0

/-- What an encoding stands for: a NaN (its bits stand beside it), an infinity, or (−1)^s · m · 2^e. -/
inductive FV where
  | nan (sig : Bool)
  | inf (s : Bool)
  | fin (s : Bool) (m : Nat) (e : Int)
  deriving DecidableEq, Repr

/-- Sign of an encoding. -/
def FF.neg (f : FF) (x : Nat) : Bool := x.testBit (f.width - 1)

/-- Magnitude bits of an encoding. -/
def FF.mag (f : FF) (x : Nat) : Nat := x % 2 ^ (f.width - 1)

/-- R33, R34. -/
def FF.read (f : FF) (x : Nat) : FV :=
  let m := f.mag x
  if m ≤ f.maxMag then
    let e := m / 2 ^ f.frac
    let fr := m % 2 ^ f.frac
    if e == 0 then .fin (f.neg x) fr f.qmin else .fin (f.neg x) (fr + 2 ^ f.frac) (f.qmin + e - 1)
  else if f.hasInf && m == f.inf then .inf (f.neg x)
  else .nan (f != .e4m3 && !(m.testBit (f.frac - 1)))

/-- A NaN with its quiet bit set (R37). -/
def FF.quiet (f : FF) (x : Nat) : Nat := x ||| 2 ^ (f.frac - 1)

/-! ## Flags and modes -/

/-- Flags of `c.fflags` (R45). -/
def fNV : BitVec 5 := 0b10000#5
/-- Division by zero (R45). -/
def fDZ : BitVec 5 := 0b01000#5
/-- Overflow (R45). -/
def fOF : BitVec 5 := 0b00100#5
/-- Underflow (R45). -/
def fUF : BitVec 5 := 0b00010#5
/-- Inexact (R45). -/
def fNX : BitVec 5 := 0b00001#5

/-- Rounding modes (R38); `sr r` is stochastic with the drawn value `r` (R40). -/
inductive RMode where
  | rne | rtz | rdn | rup | rna
  | sr (r : Nat)
  deriving DecidableEq, Repr

/-- The mode of a code; 0b110 is stochastic with draw `r` (R38). -/
def RMode.ofCode (c : BitVec 3) (r : Nat) : RMode :=
  match c.toNat with
  | 2 => .rtz | 3 => .rdn | 4 => .rup | 5 => .rna | 6 => .sr r | _ => .rne

/-! ## Rounding (R38, R40, R43, R45) -/

/-- Number of bits of a number. -/
def bitLen (n : Nat) : Nat := if n == 0 then 0 else Nat.log2 n + 1

/-- Does a magnitude with integer part `n` and discarded part `rem / 2^k` round away from zero? -/
def roundsAway (mode : RMode) (s : Bool) (n rem k : Nat) : Bool :=
  match mode with
  | .rne => decide (2 ^ k < 2 * rem) || (decide (2 * rem = 2 ^ k) && n % 2 == 1)
  | .rtz => false
  | .rdn => s && rem != 0
  | .rup => !s && rem != 0
  | .rna => decide (2 ^ k ≤ 2 * rem) && rem != 0
  | .sr r => decide (2 ^ 32 ≤ rem * 2 ^ 32 / 2 ^ k + r) && rem != 0

/-- `m · 2^e` rounded to a multiple of `2^q`: the multiple, and whether it differs. -/
def roundAt (mode : RMode) (s : Bool) (m : Nat) (e q : Int) : Nat × Bool :=
  if q ≤ e then (m * 2 ^ (e - q).toNat, false)
  else
    let k := min (q - e).toNat (bitLen m + 40)
    let n := m / 2 ^ k
    let rem := m % 2 ^ k
    (if roundsAway mode s n rem k then n + 1 else n, rem != 0)

/-- What an overflow gives (R43): the encoding, and the flags. -/
def overflow (f : FF) (mode : RMode) (s : Bool) (nosat : Bool) : Nat × BitVec 5 :=
  match f with
  | .e4m3 => if nosat then (f.signBit s + f.nan, fNV) else (f.signBit s + f.maxMag, fOF ||| fNX)
  | .e2m1 => (f.signBit s + f.maxMag, fOF ||| fNX)
  | _ =>
    let toMax := match mode with
      | .rtz => true
      | .rdn => !s
      | .rup => s
      | _ => false
    (f.signBit s + (if toMax then f.maxMag else f.inf), fOF ||| fNX)

/-- Exponent of the last significand bit of the largest finite value. -/
def FF.qmax (f : FF) : Int := f.qmin + ((f.maxMag / 2 ^ f.frac : Nat) : Int) - 1

/-- Round `(−1)^s · m · 2^e` to a format (R36 to R45). The magnitude's encoding at exponent `q` is its multiple of `2^q`
plus the steps of `2^frac` between `qmin` and `q`, which is how encodings are ordered. A value overflows when what it rounds to
with an unbounded exponent is above the largest finite one (R43); for the stochastic mode that is the draw of R40 over the gap up
to `2^(emax+1)`, and in e4m3 over the gaps to 480 and 512. DESIGN CHOICE (log entry 83): those two gaps are of 32, the unit in the
last place of the largest value, where R40's formula divides by 2^(emax+1) − 448, which is 64. A stochastic draw in a format with
infinity that stays at the largest finite value is by this definition no overflow and raises NX alone, though R43's table lists it among the
results of an overflow. -/
def roundTo (f : FF) (mode : RMode) (nosat : Bool) (s : Bool) (m : Nat) (e : Int) : Nat × BitVec 5 :=
  if m == 0 then (f.signBit s, 0#5)
  else
    let top : Int := (bitLen m : Int) - 1 + e
    let qu := top - f.frac
    let q := max qu f.qmin
    let (n, nx) := roundAt mode s m e q
    let mg := (q - f.qmin).toNat * 2 ^ f.frac + n
    if f.maxMag < mg then overflow f mode s nosat
    else
      -- tininess after rounding with an unbounded exponent (R45)
      let nu := (roundAt mode s m e qu).1
      let lim : Int := f.qmin + f.frac
      let tiny := nx && decide (if qu ≤ lim then nu < 2 ^ (lim - qu).toNat else false)
      (f.signBit s + mg, (if nx then fNX else 0#5) ||| (if tiny then fUF else 0#5))

/-! ## Exact operations -/

/-- A signed sum of `(−1)^s · m · 2^e` values, as an integer multiple of `2^e`. -/
def addExact (sa : Bool) (ma : Nat) (ea : Int) (sb : Bool) (mb : Nat) (eb : Int) : Int × Int :=
  let e := min ea eb
  let a : Int := (ma * 2 ^ (ea - e).toNat : Nat)
  let b : Int := (mb * 2 ^ (eb - e).toNat : Nat)
  ((if sa then -a else a) + (if sb then -b else b), e)

/-- The sign of an exact zero sum (R34). -/
def zeroSign (mode : RMode) (sa sb : Bool) : Bool :=
  if sa == sb then sa
  else match mode with
    | .rdn => true
    | _ => false

/-- Add two finite values and round. -/
def addRound (f : FF) (mode : RMode) (sa : Bool) (ma : Nat) (ea : Int) (sb : Bool) (mb : Nat) (eb : Int) :
    Nat × BitVec 5 :=
  let (x, e) := addExact sa ma ea sb mb eb
  if x == 0 then (f.signBit (zeroSign mode sa sb), 0#5)
  else roundTo f mode false (decide (x < 0)) x.natAbs e

/-- Integer square root: the largest `r` of at most `k` bits, built on `r0`, with `r² ≤ n`. -/
def isqrt (n r0 : Nat) : Nat → Nat
  | 0 => r0
  | k + 1 =>
    let r := r0 + 2 ^ k
    if r * r ≤ n then isqrt n r k else isqrt n r0 k

/-- A quotient `a / b` as an integer with `k` more bits and one bit that says whether anything is left over; its value
is that integer times `2^(−k−1)`. -/
def divSticky (a b k : Nat) : Nat := 2 * (a * 2 ^ k / b) + (if a * 2 ^ k % b == 0 then 0 else 1)

/-- A square root of `n` likewise: `n · 4^k`'s root and whether it is inexact; its value is that integer times
`2^(−k−1)`. -/
def sqrtSticky (n k : Nat) : Nat :=
  let x := n * 4 ^ k
  let r := isqrt x 0 (bitLen x / 2 + 1)
  2 * r + (if r * r == x then 0 else 1)

/-! ## NaN results (R37) -/

/-- Is the value a NaN? -/
def FV.isNan : FV → Bool
  | .nan _ => true
  | _ => false

/-- Is the value a signalling NaN? -/
def FV.isSig : FV → Bool
  | .nan b => b
  | _ => false

/-- The NaN result of operands, if one is a NaN: the first, quieted, with NV if any is signalling (R37 rule 1). -/
def nanOf (f : FF) (xs : List Nat) : Option (Nat × BitVec 5) :=
  match xs.find? fun x => (f.read x).isNan with
  | none => none
  | some x => some (f.quiet x, if xs.any fun y => (f.read y).isSig then fNV else 0#5)

/-- The canonical NaN of an invalid operation (R37 rule 2). -/
def invalid (f : FF) : Nat × BitVec 5 := (f.nan, fNV)

/-! ## Arithmetic (R142) -/

/-- a + b. -/
def fAdd (f : FF) (mode : RMode) (a b : Nat) : Nat × BitVec 5 :=
  match nanOf f [a, b] with
  | some r => r
  | none =>
    match f.read a, f.read b with
    | .inf sa, .inf sb => if sa == sb then (f.signBit sa + f.inf, 0#5) else invalid f
    | .inf sa, _ => (f.signBit sa + f.inf, 0#5)
    | _, .inf sb => (f.signBit sb + f.inf, 0#5)
    | .fin sa ma ea, .fin sb mb eb => addRound f mode sa ma ea sb mb eb
    | _, _ => invalid f

/-- An encoding with its sign inverted. -/
def FF.flip (f : FF) (x : Nat) : Nat := x ^^^ 2 ^ (f.width - 1)

/-- a − b; a NaN operand keeps its sign (R37). -/
def fSub (f : FF) (mode : RMode) (a b : Nat) : Nat × BitVec 5 :=
  match nanOf f [a, b] with
  | some r => r
  | none => fAdd f mode a (f.flip b)

/-- a × b. -/
def fMul (f : FF) (mode : RMode) (a b : Nat) : Nat × BitVec 5 :=
  match nanOf f [a, b] with
  | some r => r
  | none =>
    match f.read a, f.read b with
    | .inf sa, .inf sb => (f.signBit (sa != sb) + f.inf, 0#5)
    | .inf sa, .fin sb m _ => if m == 0 then invalid f else (f.signBit (sa != sb) + f.inf, 0#5)
    | .fin sa m _, .inf sb => if m == 0 then invalid f else (f.signBit (sa != sb) + f.inf, 0#5)
    | .fin sa ma ea, .fin sb mb eb => roundTo f mode false (sa != sb) (ma * mb) (ea + eb)
    | _, _ => invalid f

/-- a × b + c, or c − a × b when `neg` (R142, R37). -/
def fFma (f : FF) (mode : RMode) (neg : Bool) (a b c : Nat) : Nat × BitVec 5 :=
  let zeroInf := match f.read a, f.read b with
    | .inf _, .fin _ 0 _ => true
    | .fin _ 0 _, .inf _ => true
    | _, _ => false
  match nanOf f [a, b, c] with
  | some r => if zeroInf then (r.1, r.2 ||| fNV) else r
  | none =>
    if zeroInf then invalid f
    else
      let sp := (f.neg a != f.neg b) != neg
      match f.read a, f.read b, f.read c with
      | .fin _ ma ea, .fin _ mb eb, .fin sc mc ec => addRound f mode sp (ma * mb) (ea + eb) sc mc ec
      | .fin _ _ _, .fin _ _ _, .inf sc => (f.signBit sc + f.inf, 0#5)
      | _, _, .inf sc => if sp == sc then (f.signBit sc + f.inf, 0#5) else invalid f
      | _, _, _ => (f.signBit sp + f.inf, 0#5)

/-- a / b. -/
def fDiv (f : FF) (mode : RMode) (a b : Nat) : Nat × BitVec 5 :=
  match nanOf f [a, b] with
  | some r => r
  | none =>
    let s := f.neg a != f.neg b
    match f.read a, f.read b with
    | .inf _, .inf _ => invalid f
    | .inf _, _ => (f.signBit s + f.inf, 0#5)
    | _, .inf _ => (f.signBit s, 0#5)
    | .fin _ ma ea, .fin _ mb eb =>
      if mb == 0 then (if ma == 0 then invalid f else (f.signBit s + f.inf, fDZ))
      else
        let k := bitLen mb + f.frac + 4
        roundTo f mode false s (divSticky ma mb k) (ea - eb - k - 1)
    | _, _ => invalid f

/-- The root of `m · 2^e`, with one inexactness bit, as an integer and its exponent. -/
def rootOf (f : FF) (m : Nat) (e : Int) : Nat × Int :=
  let (m1, e1) := if e % 2 == 0 then (m, e) else (2 * m, e - 1)
  let k := f.frac + 4
  (sqrtSticky m1 k, e1 / 2 - k - 1)

/-- √a. -/
def fSqrt (f : FF) (mode : RMode) (a : Nat) : Nat × BitVec 5 :=
  match nanOf f [a] with
  | some r => r
  | none =>
    match f.read a with
    | .inf s => if s then invalid f else (f.inf, 0#5)
    | .fin s m e =>
      if m == 0 then (f.signBit s, 0#5)
      else if s then invalid f
      else
        let (n, q) := rootOf f m e
        roundTo f mode false false n q
    | _ => invalid f

/-! ## Order (R143, R147) -/

/-- An encoding that is not a NaN as an integer that orders the values, with −0 just below +0. -/
def FF.order (f : FF) (x : Nat) : Int := if f.neg x then -(f.mag x : Int) - 1 else f.mag x

/-- NV for a signalling operand. -/
def sigFlag (f : FF) (xs : List Nat) : BitVec 5 := if xs.any fun x => (f.read x).isSig then fNV else 0#5

/-- `fmin`, `fmax` (`big`): a NaN operand gives the other (R143). -/
def fMinMax (f : FF) (big : Bool) (a b : Nat) : Nat × BitVec 5 :=
  let fl := sigFlag f [a, b]
  match (f.read a).isNan, (f.read b).isNan with
  | true, true => (f.quiet a, fl)
  | true, false => (b, fl)
  | false, true => (a, fl)
  | false, false => (if (if big then f.order a < f.order b else f.order b < f.order a) then b else a, fl)

/-- `fminm`, `fmaxm` (`big`): any NaN operand gives rule 1 of R37 (R143). -/
def fMinMaxM (f : FF) (big : Bool) (a b : Nat) : Nat × BitVec 5 :=
  match nanOf f [a, b] with
  | some r => r
  | none => fMinMax f big a b

/-- An element's relation and the flag it raises (R147). -/
def fHolds (f : FF) (c : Cond) (a b : Nat) : Bool × BitVec 5 :=
  let nan := (f.read a).isNan || (f.read b).isNan
  let sig := sigFlag f [a, b]
  let quietNV := if nan then fNV else 0#5
  let v (x : Nat) : Int := if f.neg x then -(f.mag x : Int) else f.mag x
  match c with
  | .eq => (!nan && v a == v b, sig)
  | .ne => (nan || v a != v b, sig)
  | .lt => (!nan && v a < v b, quietNV)
  | .le => (!nan && v a ≤ v b, quietNV)
  | .gt => (!nan && v a > v b, quietNV)
  | .ge => (!nan && v a ≥ v b, quietNV)
  | .un => (nan, sig)

/-! ## Class, scale, integral values (R145, R146, R151) -/

/-- R145. -/
def fClass (f : FF) (a : Nat) : Nat :=
  match f.read a with
  | .nan sig => if sig then 2 ^ 8 else 2 ^ 9
  | .inf s => if s then 2 ^ 0 else 2 ^ 7
  | .fin s m _ =>
    if m == 0 then (if s then 2 ^ 3 else 2 ^ 4)
    else if m < 2 ^ f.frac then (if s then 2 ^ 2 else 2 ^ 5)
    else if s then 2 ^ 1 else 2 ^ 6

/-- R146: a · 2^n. -/
def fScale (f : FF) (mode : RMode) (a : Nat) (n : Int) : Nat × BitVec 5 :=
  match nanOf f [a] with
  | some r => r
  | none =>
    match f.read a with
    | .fin s m e => if m == 0 then (a, 0#5) else roundTo f mode false s m (e + n)
    | _ => (a, 0#5)

/-- R151: to an integral value of the same format; a zero result keeps the sign. -/
def fRound (f : FF) (mode : RMode) (a : Nat) : Nat × BitVec 5 :=
  match nanOf f [a] with
  | some r => r
  | none =>
    match f.read a with
    | .fin s m e =>
      let (n, nx) := roundAt mode s m e 0
      if nx then ((roundTo f .rne false s n 0).1, fNX) else (a, 0#5)
    | _ => (a, 0#5)

/-! ## Conversions (R41 to R44) -/

/-- A NaN carried from format `f` to format `g` (R42). -/
def cvtNan (f g : FF) (x : Nat) : Nat :=
  let s := g.signBit (f.neg x)
  match f, g with
  | .e4m3, _ => s + g.nan
  | _, .e4m3 => s + g.nan
  | _, .e5m2 => s + g.nan
  | _, _ =>
    let fr := x % 2 ^ f.frac
    let fr' := if f.frac ≤ g.frac then fr * 2 ^ (g.frac - f.frac) else fr / 2 ^ (f.frac - g.frac)
    g.quiet (s + g.inf + fr' % 2 ^ (g.frac - 1))

/-- Float to float (R41 to R43). -/
def cvtFloat (f g : FF) (mode : RMode) (nosat : Bool) (x : Nat) : Nat × BitVec 5 :=
  match f.read x with
  | .nan sig => if g == .e2m1 then (0, fNV) else (cvtNan f g x, if sig then fNV else 0#5)
  | .inf s => if g.hasInf then (g.signBit s + g.inf, 0#5) else overflow g mode s nosat
  | .fin s m e => if m == 0 then (g.signBit s, 0#5) else roundTo g mode nosat s m e

/-- Integer to float (R41). -/
def cvtFromInt (g : FF) (mode : RMode) (nosat : Bool) (x : Int) : Nat × BitVec 5 :=
  roundTo g mode nosat (decide (x < 0)) x.natAbs 0

/-- Float to an integer of `w` bits (R44). -/
def cvtToInt (f : FF) (mode : RMode) (signed : Bool) (w : Nat) (x : Nat) : Nat × BitVec 5 :=
  let lo : Int := if signed then -(2 ^ (w - 1)) else 0
  let hi : Int := if signed then 2 ^ (w - 1) - 1 else 2 ^ w - 1
  match f.read x with
  | .nan _ => (0, fNV)
  | .inf s => (wrap w (if s then lo else hi), fNV)
  | .fin s m e =>
    let (n, nx) := roundAt mode s m e 0
    let v : Int := if s then -(n : Int) else n
    if v < lo then (wrap w lo, fNV)
    else if hi < v then (wrap w hi, fNV)
    else (wrap w v, if nx then fNX else 0#5)

/-- R152: an f32 in three bf16 parts by truncation; the flags are for what the last part loses. -/
def fSplit (a : Nat) : Nat × BitVec 5 :=
  let hi := a / 2 ^ 16
  let s := FF.f32.neg a
  match FF.f32.read a with
  | .nan sig => (FF.bf16.quiet hi, if sig then fNV else 0#5)
  | .inf _ => (hi + FF.bf16.signBit s * 2 ^ 16 + FF.bf16.signBit s * 2 ^ 32, 0#5)
  | .fin _ m e =>
    let part (n : Nat) : Nat × Nat :=
      -- the truncated encoding of n · 2^e, and what it leaves of n
      let q := max ((bitLen n : Int) - 1 + e - 7) FF.bf16.qmin
      let k := (q - e).toNat
      ((roundTo .bf16 .rtz false s n e).1, if q ≤ e then 0 else n % 2 ^ k)
    let r1 := m % 2 ^ 16
    let (mid, r2) := part r1
    let (lo, r3) := part r2
    let tiny := decide (0 < FF.bf16.mag lo) && decide (FF.bf16.mag lo < 2 ^ 7)
    (hi + mid * 2 ^ 16 + lo * 2 ^ 32,
      if r3 != 0 then fNX ||| (if tiny then fUF else 0#5) else 0#5)

/-- R153: `fpack` of x with scale byte X. -/
def fPack (g : FF) (mode : RMode) (x sc : Nat) : Nat × BitVec 5 :=
  if sc == 0xFF then (0, fNV)
  else
    match FF.f32.read x with
    | .fin s m e => if m == 0 then (g.signBit s, 0#5) else roundTo g mode false s m (e - ((sc : Int) - 127))
    | _ => cvtFloat .f32 g mode false x

/-- R153: `funpk` of an element with scale byte X. -/
def fUnpack (f : FF) (mode : RMode) (x sc : Nat) : Nat × BitVec 5 :=
  if sc == 0xFF then (FF.f32.nan, 0#5)
  else
    match f.read x with
    | .fin s m e => if m == 0 then (FF.f32.signBit s, 0#5) else roundTo .f32 mode false s m (e + ((sc : Int) - 127))
    | _ => cvtFloat f .f32 mode false x

end Sys2Proof.Machine
end

