-- ==== Sys2Proof/Machine/Flags.lean ====
section
/-! DEFINITION. Which rounding mode an instruction uses, the stochastic generator, and the packed types' elements with
their flags (R36, R38 to R40, R45, R139). -/

namespace Sys2Proof.Machine

/-- One step of the stochastic generator (R40). -/
def stepSrg (x : Word) : Word :=
  let a := x ^^^ (x <<< 13)
  let b := a ^^^ (a >>> 17)
  b ^^^ (b <<< 5)

/-- The seed of a lane (R40). -/
def seedSrg (seed : Word) (lane : Nat) : Word :=
  let g := seed ^^^ BitVec.ofNat 32 (lane * 0x9E3779B9)
  if g == 0#32 then 0x6A09E667#32 else g

/-- The mode code an instruction resolves to: the prefix's, or `c.rm` when that is dynamic or absent; stochastic becomes
rne where the instruction does not allow it (R38, R39, R139). -/
def modeCode (g : Group) (p : Option Pfx) (stoch : Bool) : BitVec 3 :=
  let c := match p with
    | none => g.rm
    | some q => if q.rm == 0#3 then g.rm else q.rm
  if c == 6#3 && !stoch then 1#3 else c

/-- The rounding mode of an instruction that does not round stochastically. -/
def modeOf (g : Group) (p : Option Pfx) : RMode := RMode.ofCode (modeCode g p false) 0

/-- The element format of a type (R70). -/
def ftyFmt : FTy → FF
  | .f32 => .f32 | .f64 => .f64 | .f16x2 => .f16 | .bf16x2 => .bf16

/-- Is the type packed? -/
def ftyPacked : FTy → Bool
  | .f16x2 | .bf16x2 => true
  | _ => false

/-- Half `k` of a value. -/
def half (x k : Nat) : Nat := x / 2 ^ (16 * k) % 2 ^ 16

/-- An operation on one element of each operand, for every element of a type: element 0 in bits 15..0 and element 1 in
bits 31..16 of packed operands, with their flags ORed (R36). -/
def perElem (t : FTy) (op : FF → Nat → List Nat → Nat × BitVec 5) (v : List DWord) : Nat × BitVec 5 :=
  let xs := v.map (·.toNat)
  if ftyPacked t then
    let a := op (ftyFmt t) 0 (xs.map fun x => half x 0)
    let b := op (ftyFmt t) 1 (xs.map fun x => half x 1)
    (a.1 + b.1 * 2 ^ 16, a.2 ||| b.2)
  else op (ftyFmt t) 0 xs

end Sys2Proof.Machine
end

