-- ==== Sys2Proof/Machine/Access.lean ====
section
/-! DEFINITION. How an access is made: presence, the side log, the first-level cache, reads, writes and what they set off
(R191, R194, R196, R206, R212, R213, R217 to R219, R308 to R310, R349). -/

namespace Sys2Proof.Machine

/-! ## Record images (R191, R294, R299) -/

/-- The aperture code of an argument (R296). -/
def apertureCode (a : DWord) : Nat :=
  match bits a 63 56 with
  | 0x00 => 0 | 0x01 => 1 | 0xF0 => 2 | 0xF1 => 3 | 0xF2 => 4 | 0xF4 => 5 | 0xFE => 6 | _ => 7

/-- The 64 bytes of an easel record as a number (R294). -/
def EaselRec.image (r : EaselRec) : Nat :=
  let call := r.kind == 1 || r.kind == 2
  let apk := if call then (List.range 6).foldl (fun n k => n + at_ (apertureCode (r.a.getD k 0)) (3 * k)) 0 else 0
  r.ginst.toNat + at_ r.cls.code 24 + at_ r.priv.code 26 + at_ r.lane 28 + at_ r.gslot 34 + at_ r.dest.toNat 43 +
    at_ r.world.toNat 44 + at_ r.num 50 + at_ r.kind 58 + at_ apk 64 + at_ r.apoi.toNat 90 + at_ r.bcnt 104 +
    at_ r.berr 120 + (List.range 6).foldl (fun n k => n + at_ (r.a.getD k 0).toNat (128 + 64 * k)) 0

/-- The 64 bytes of a fault record as a number (R299). -/
def FaultRec.image (r : FaultRec) : Nat :=
  r.ginst.toNat + at_ r.coh.toNat 24 + at_ r.nw 25 + at_ r.acc 28 + at_ r.priv.code 32 + at_ r.lane 34 + at_ r.gslot 40 +
    at_ r.dest.toNat 49 + at_ r.world.toNat 50 + at_ r.code.code 56 + at_ r.pc.toNat 64 + at_ r.addr.toNat 128 +
    at_ r.addr2.toNat 192 + at_ r.issue.toNat 256 + at_ r.done.toNat 320 +
    (List.range 4).foldl (fun n k => n + at_ (r.insn.getD k 0).toNat (384 + 32 * k)) 0

/-- What a byte of the queue window holds, and the world of the record there, if any (R191). -/
def State.queueByte (s : State) (core off : Nat) : Option (Byte × Option (BitVec 6)) :=
  if off < 0x4000 then
    match s.easel.find? fun q => q.core == core && q.slot == off / 64 with
    | some q => some (BitVec.ofNat 8 (q.body.image / 2 ^ (8 * (off % 64))), if q.live then some q.body.world else none)
    | none => some (0#8, none)
  else if 0x100000 ≤ off && off < 0x120000 then
    match s.faultq.find? fun q => q.core == core && q.slot == (off - 0x100000) / 64 with
    | some q => some (BitVec.ofNat 8 (q.body.image / 2 ^ (8 * (off % 64))), if q.live then some q.body.world else none)
    | none => some (0#8, none)
  else none

/-- A load of the queue window: its bytes or its fault (R191). -/
def State.queueRead (s : State) (p : Poster) (ea : DWord) (off n : Nat) : Except FaultInfo (List Byte) :=
  let f (c : FaultCode) : FaultInfo := { code := c, acc := 1, addr := ea, addr2 := 0 }
  let bs := (List.range n).map fun i => s.queueByte p.core (off + i)
  if bs.any (·.isNone) then .error (f .aperture)
  else if p.priv == .s && bs.any (fun b => match b with
      | some (_, some w) => w != p.world
      | _ => true) then .error (f .owner)
  else .ok (bs.map fun b => match b with
      | some (x, _) => x
      | none => 0#8)

/-! ## Scratchpad presence (R194) -/

/-- Presence of scratchpad lines. -/
inductive Presence where
  | present | absent (line : Nat) | failed
  deriving DecidableEq, Repr

/-- Presence of the lines that an access of a team's scratchpad touches. DESIGN CHOICE (log entry 80): where one is failed and
another absent, the access raises SPAD_FAIL at once and does not park first; the specification does not say. -/
def State.presence (s : State) (team off n : Nat) : Presence :=
  match s.team? team with
  | none => .present
  | some t =>
    let hit := t.lines.filter fun l => off / 128 ≤ l.line && l.line ≤ (off + n - 1) / 128
    if hit.any (·.failed) then .failed
    else match hit with
      | l :: _ => .absent l.line
      | [] => .present

/-- Threads parked on lines of a team that are absent no longer become ready, each in a set of its own (R169, R194). -/
def State.wakeLines (s : State) (team : Nat) : State :=
  match s.team? team with
  | none => s
  | some t =>
    let gone (n : Nat) : Bool := !(t.lines.any fun l => l.line == n && !l.failed)
    { s with
      groups := s.groups.map fun g => g.mapThreads fun u =>
        match u.st with
        | .onLine k n => if k == team && gone n then
            { u with st := .ready, setId := s.fresh + g.slot * 64 + u.lane + g.core * 32768, path := [], since := s.cycle + 1 }
          else u
        | _ => u
      fresh := s.fresh + 32768 * 512 }

/-! ## The side log (R218, R308, R309) -/

/-- A thread's log entries, oldest first. -/
def State.logOf (s : State) (p : Poster) : List LogEnt :=
  s.slog.filter fun e => e.core == p.core && e.slot == p.slot && e.lane == p.lane

/-- Pages that an entry or an access touches. -/
def pagesOf (a : DWord) (n : Nat) : List Nat := [a.toNat / 4096, (a.toNat + n - 1) / 4096]

/-- Does an entry overlap an access? -/
def LogEnt.overlaps (e : LogEnt) (a : DWord) (n : Nat) : Bool :=
  decide (e.addr.toNat < a.toNat + n) && decide (a.toNat < e.addr.toNat + e.bytes.length)

/-- Does the thread hold an entry for a page of the access? -/
def State.logHolds (s : State) (p : Poster) (a : DWord) (n : Nat) : Bool :=
  (s.logOf p).any fun e => (pagesOf e.addr e.bytes.length).any fun q => (pagesOf a n).contains q

/-- Does the thread hold an entry for another page than the access's? DESIGN CHOICE (log entry 81): an entry that spans two
pages is one for both; the specification speaks of one page per thread. -/
def State.logElsewhere (s : State) (p : Poster) (a : DWord) (n : Nat) : Bool :=
  (s.logOf p).any fun e => (pagesOf e.addr e.bytes.length).any fun q => !(pagesOf a n).contains q

/-- The newest logged value of a byte (R218). -/
def State.loggedByte (s : State) (p : Poster) (a : Nat) : Option Byte :=
  (((s.logOf p).filter fun e => e.typ != 1 && e.addr.toNat ≤ a && a < e.addr.toNat + e.bytes.length).getLast?).bind
    fun e => e.bytes[a - e.addr.toNat]?

/-- Free entries of a core's side log. -/
def State.logFree (s : State) (core : Nat) : Nat := 256 - (s.slog.filter fun e => e.core == core).length

/-- Append an entry. -/
def State.logAppend (s : State) (e : LogEnt) : State :=
  { s with slog := s.slog ++ [{ e with seq := s.fresh }], fresh := s.fresh + 1 }

/-- ADDR2 of a record of an entry: the backing address for an access in the stack window (R299). -/
def LogEnt.addr2 (e : LogEnt) : DWord := if e.stk then e.addr else 0

/-- A thread's first entry posts a record of ACC 7 that it does not park on, with the entry's address (R309). -/
def State.logFirst (s : State) (g : Group) (lane : Nat) (c : FaultCode) (e : LogEnt) (pc : DWord) : State :=
  match (s.group? g.core g.slot).bind fun h => h.thread? lane with
  | none => s
  | some t =>
    if t.logRec.isSome then s
    else
      let n := s.freeFaultSlot g.core
      let r := faultRec g lane false { code := c, acc := 7, addr := e.addr, addr2 := e.addr2 } pc s.cur.lanes s.cur.lanes s.cur.words
      (s.postFault g.core r).mapLanes g.core g.slot (1#64 <<< lane) fun u => { u with logRec := some n }

/-- A thread's access enters the side log (R216, R308, R309). -/
def State.logEnter (s : State) (g : Group) (t : Thread) (c : FaultCode) (e : LogEnt) : State :=
  (s.logFirst g t.lane c e t.pc).logAppend e

/-! ## Plans -/

/-- What one thread's access comes to. -/
inductive Plan where
  | fault (i : FaultInfo)
  | walk (sup : Bool) (vpns : List Nat)
  | wait
  | line (team line : Nat)
  | onLog
  /-- Enters the side log at a translated address, for a translation fault or for the page it holds (R218); where the log
  is full the thread takes the fault, or with none parks on the record it holds. -/
  | log (c : FaultCode) (a : DWord) (full : Option FaultInfo)
  /-- Every byte comes from the thread's own log. -/
  | fromLog (a : DWord)
  /-- The bytes from `lo` on come from memory as far as the log does not cover them (R218). -/
  | part (lo n : Nat) (w : Where)
  | go (w : Where)
  deriving DecidableEq, Repr

/-- The plan of a resolved access. -/
def State.planWhere (s : State) (kind : AKind) (ea : DWord) (n : Nat) (w : Where) : Plan :=
  match w with
  | .fault i => .fault i
  | .walk sup v => .walk sup v
  | .wait => .wait
  | .keys _ _ _ (some (t, off)) =>
    if kind == .store || kind == .spill then .go w
    else match s.presence t off n with
      | .present => .go w
      | .absent l => .line t l
      | .failed => .fault { code := .spadFail, acc := kind.acc, addr := ea, addr2 := 0 }
  | _ => .go w

/-- The queue window answers plain and acquire loads only (R191). -/
def State.queueCheck (s : State) (p : Poster) (ea : DWord) (n : Nat) (okOrd : Bool) (w : Where) : Where :=
  match w with
  | .queue off =>
    if !okOrd then .fault { code := .aperture, acc := 1, addr := ea, addr2 := 0 }
    else match s.queueRead p ea off n with
      | .error i => .fault i
      | .ok _ => w
  | _ => w

/-- The plan of a load (R215, R218). Where the thread's own log holds some of its bytes, only the stretch from the first to
the last of the others is accessed. -/
def State.planLoad (s : State) (p : Poster) (ea : DWord) (n : Nat) (okOrd : Bool) : Plan :=
  let whole := s.planWhere .load ea n (s.queueCheck p ea n okOrd (s.resolve p ea n .load))
  match s.logAddr p ea with
  | none => whole
  | some a =>
    let hits := (s.logOf p).filter fun e => e.overlaps a n
    if hits.isEmpty then whole
    else match s.resolve p ea n .load with
      | .fault { code := .aperture, .. } => whole
      | _ =>
        if hits.any fun e => e.typ == 1 then .onLog
        else
          let rest := (List.range n).filter fun i => (s.loggedByte p (a.toNat + i)).isNone
          match rest, rest.getLast? with
          | lo :: _, some hi =>
            (match s.planWhere .load ea (hi + 1 - lo) (s.resolve p (ea + BitVec.ofNat 64 lo) (hi + 1 - lo) .load) with
             | .go w => .part lo (hi + 1 - lo) w
             | .fault i => .fault { i with addr := ea, addr2 := i.addr2 - (if i.addr2 == 0#64 then 0#64 else BitVec.ofNat 64 lo) }
             | q => q)
          | _, _ => .fromLog a

/-- The plan of a store or reduction (R216, R218, R309). -/
def State.planStore (s : State) (p : Poster) (ea : DWord) (n : Nat) (kind : AKind) : Plan :=
  let w := s.resolve p ea n kind
  let plain := s.planWhere kind ea n w
  match s.logAddr p ea with
  | none => plain
  | some a =>
    let enter (c : FaultCode) (full : Option FaultInfo) : Plan :=
      if s.logElsewhere p a n then .onLog else .log c a full
    match w with
    | .fault i =>
      if i.code == .pageMiss || i.code == .pagePerm then
        enter i.code (if s.logHolds p a n then none else some i)
      else plain
    | .keys _ _ _ _ => if s.logHolds p a n then enter .pageMiss none else plain
    | _ => plain

/-- The plans of a cohort's stores, lowest lane first, with `free` entries left in the log: a thread that finds it full parks
(R216, R218, R308). -/
def spendLog : Nat → List (Thread × Plan) → List (Thread × Plan)
  | _, [] => []
  | free, (t, q) :: r =>
    match q with
    | .log c a full =>
      (match free, full with
       | k + 1, _ => (t, .log c a full) :: spendLog k r
       | 0, some i => (t, .fault i) :: spendLog 0 r
       | 0, none => (t, .onLog) :: spendLog 0 r)
    | _ => (t, q) :: spendLog free r

/-- The plan of an atomic with a result: overlapping log entries are waited for (R218). -/
def State.planAtomic (s : State) (p : Poster) (ea : DWord) (n : Nat) : Plan :=
  let plain := s.planWhere .atomic ea n (s.resolve p ea n .atomic)
  match s.logAddr p ea with
  | none => plain
  | some a => if (s.logOf p).any fun e => e.overlaps a n then .onLog else plain

/-! ## Reading and writing bytes -/

/-- The line of a core's L1. -/
def State.l1Line (s : State) (core : Nat) (world : BitVec 6) (line : Nat) : Option L1Line :=
  s.l1.find? fun l => l.core == core && l.world == world && l.line == line

/-- Is an access served by L1 (R196, R212)? One from a tainted address is not: it is ordered after its thread's consume loads
(R243, R255). -/
def servedL1 (cached : Bool) (ord : MemOrd) (scp : Nat) (taint : Bool) : Bool :=
  cached && !taint && (ord == .plain || ord == .nt || scp < 4)

/-- Does a key read any value? -/
def State.openKey (s : State) (k : Nat) : Bool :=
  isMain k && !s.potPage (pageOf k) &&
  (if s.unsettled (pageOf k) || s.raw.contains (pageOf k) then !s.seen.contains k
   else s.sealedPage (pageOf k) || (s.snapKey k).isNone)

/-- Sets of a core's L1: what its scratchpad leaves of the 1 MiB, in eight ways of 128 bytes (R19, R193, R196). -/
def State.l1Sets (s : State) (core : Nat) : Nat := 256 * (4 - (s.core core).split)

/-- At most eight lines of a core's L1 stay in each set, the newest first (R196). -/
def capL1 (core sets : Nat) (l : List L1Line) : List L1Line :=
  (List.range l.length).filterMap fun i =>
    match l[i]? with
    | none => none
    | some e =>
      if i < 8 || e.core != core then some e
      else
        let before := (l.take i).filter fun x => x.core == core && Config.l1Set sets x.line == Config.l1Set sets e.line
        if before.length < 8 then some e else none

/-- Bring lines into L1; replacement may remove any others of the core, and removes what its ways cannot hold (R196). A line
of which a byte reads any value is not kept (R2). -/
def State.fillL1 (s : State) (p : Poster) (lines : List Nat) : State :=
  let new := (lines.eraseDups).filter fun l => (s.l1Line p.core p.world l).isNone &&
    !((List.range 128).any fun i => s.openKey (l * 128 + i))
  if new.isEmpty then s
  else
    let kept := (List.range s.l1.length).filterMap fun i =>
      match s.l1[i]? with
      | some e => if e.core == p.core && Config.free 1 s.tick (60000 + i) == 1#1 then none else some e
      | none => none
    { s with l1 := capL1 p.core (s.l1Sets p.core) ((new.map fun l =>
        { core := p.core, world := p.world, line := l, bad := [],
          bytes := (List.range 128).map fun i => s.readKey (l * 128 + i) }) ++ kept) }

/-- A core's L1 forgets its copies of lines. -/
def State.dropL1 (s : State) (core : Nat) (ks : List Nat) : State :=
  if s.l1.isEmpty then s else { s with l1 := s.l1.filter fun l => !(l.core == core && ks.any fun k => k / 128 == l.line) }

/-- A line of L1 with bytes of it anew. A word that is new whole has its parity right again (R196). -/
def L1Line.update (l : L1Line) (ks : List Nat) (bs : List Byte) : L1Line :=
  { l with
    bad := l.bad.filter fun w => !((List.range 4).all fun i => ks.contains (l.line * 128 + 4 * w + i))
    bytes := (List.range 128).map fun i =>
      match (ks.zip bs).find? fun q => q.1 == l.line * 128 + i with
      | some q => q.2
      | none => l.bytes.getD i 0 }

/-- The copies that a core's L1 holds of bytes take their values (R196, R224). -/
def State.updateL1 (s : State) (core : Nat) (ks : List Nat) (bs : List Byte) : State :=
  { s with l1 := s.l1.map fun l => if l.core == core && ks.any fun k => k / 128 == l.line then l.update ks bs else l }

/-- A core's L1 keeps what its ways hold after its share of the SRAM has changed (R19, R193). -/
def State.fitL1 (s : State) (core : Nat) : State := { s with l1 := capL1 core (s.l1Sets core) s.l1 }

/-- A read of L1 finds words with a parity error: the lines are discarded, to be fetched again, and each costs the reading
launch and its atelier one corrected error (R196). -/
def State.meetParity (s : State) (p : Poster) (ks : List Nat) : State :=
  let hurt := s.l1.filter fun l => l.core == p.core && l.world == p.world &&
    ks.any fun k => k / 128 == l.line && l.bad.contains (k % 128 / 4)
  hurt.foldl (fun u l => ({ u with l1 := u.l1.filter fun x => x != l } : State).charge p 1) s

/-- Read the bytes of keys: from L1 where that serves the access and holds the line, else from storage. A read that L1 serves
may bring the line in; one that passes L1 by leaves it no older copy of what it read (R239), and brings its copies up to date.
Answers the bytes and whether they carry poison. -/
def State.readBytes (s : State) (p : Poster) (ks : List Nat) (l1 : Bool) : State × List Byte × Bool :=
  let s0 := if l1 then s.meetParity p ks else s
  let held (k : Nat) : Option L1Line := if l1 then s0.l1Line p.core p.world (k / 128) else none
  let s1 := s0.meetErrors p (ks.filter fun k => (held k).isNone)
  let bs := ks.map fun k => match held k with
    | some l => l.bytes.getD (k % 128) 0
    | none => if s.withheld p.world k then Config.free 8 s.tick (p.lane * 2 ^ 72 + 2 ^ 71 + k) else s.readKeyFor p.lane k
  (if l1 then s1.fillL1 p (ks.map (· / 128)) else s1.updateL1 p.core ks bs, bs, s1.readsPoison ks || s.badGlaze ks)

/-- Forget a core's L1: what an acquire at `.clu` or wider does to the lines of the acting world (R212). Lines of other worlds
go as well, as replacement lets them (R196): what the acting thread releases at `.core` to a thread of another world must not
leave that one an older copy (R238, R239). -/
def State.acquire (s : State) (core scp : Nat) : State :=
  if 4 ≤ scp then { s with l1 := s.l1.filter fun l => l.core != core } else s

/-- Valid NVMe queue pairs: port, QID and the physical address of the doorbell block (R348, R349). -/
def State.doorbells (s : State) : List (Nat × Nat × Nat) :=
  (List.range 256).filterMap fun i =>
    let o := dev3 + 0x4000 + 64 * i
    let e := s.devGet (o + 32)
    if !bitAt e 2 then none
    else
      let va := bits (s.devGet (o + 40)) 55 0
      let p := supervisor 0 (BitVec.ofNat 6 (bits e 18 13)) (BitVec.ofNat 13 (bits e 31 19))
      let w : Walk := { id := 0, core := 0, world := p.world, asid := p.asid, sup := true, vpn := va / 4096,
                        kind := .load, by_ := p, done := none }
      match s.walk w with
      | .ok t => some (i / 64, i % 64 + 1, (t.ppn + (va / 4096 - t.vpn)) * 4096 + va % 4096)
      | .error _ => none

/-- A store to a doorbell word is on its way to the SSD; one that covers both words sends the tail first (R349). -/
def State.ringBells (s : State) (ks : List Nat) : State :=
  if !s.rdy || !ks.any isMain then s
  else
    s.doorbells.foldl (fun u q =>
      let (port, qid, pa) := q
      [false, true].foldl (fun v head =>
        let base := pa + if head then 4 else 0
        if (List.range 4).any fun i => ks.contains (mainKey (base + i)) then
          { v with
            bells := v.bells ++ [{ id := v.fresh, port := port, qid := qid, head := head,
                                   val := BitVec.ofNat 32 (v.readPa base 4) }]
            fresh := v.fresh + 1 }
        else v) u) s

/-- What a store to keys sets off: commands that read them read any value there (R217), pipes in the segment hold any
value (R330), and doorbells ring. -/
def State.stored (s : State) (ks : List Nat) : State :=
  let seg (k : Nat) : Nat × Nat := ((k - vaultKey 0) / 2 ^ 32 * 144 + (k - vaultKey 0) / 2 ^ 24 % 256, (k - vaultKey 0) % 2 ^ 23 / 65536)
  let pipe (q : Pipe) : Pipe := if ks.any (fun k => isVault k && seg k == (q.site, q.seg)) then { q with spoilt := true } else q
  let m (c : MCmd) : MCmd := { c with dirty := ks ++ c.dirty }
  let c (c : CCmd) : CCmd := { c with dirty := ks ++ c.dirty }
  ({ s with mcmds := s.mcmds.map m, ccmds := s.ccmds.map c, pipes := s.pipes.map pipe }).ringBells ks

/-- Write bytes to storage and to the copies of the core's L1 (R196, R216, R219). -/
def State.writeBytes (s : State) (p : Poster) (ks : List Nat) (bs : List Byte) : State :=
  match ks with
  | [] => s
  | k0 :: _ =>
    if isFlash k0 then s.flashStore (k0 - flashKey 0) bs
    else
      let s1 := (s.writeKeys ks bs).coverPoison ks
      (s1.updateL1 p.core ks bs).stored ks

/-- What a store to a scratchpad line that is not present changes: not the bytes that have landed there meanwhile (R194). -/
def State.unlanded (s : State) (line : Option (Nat × Nat)) (ks : List Nat) (bs : List Byte) : List (Nat × Byte) :=
  match line with
  | none => ks.zip bs
  | some (team, off) =>
    match s.team? team with
    | none => ks.zip bs
    | some t =>
      ((List.range ks.length).zip (ks.zip bs)).filterMap fun q =>
        let o := off + q.1
        if t.lines.any fun l => l.line == o / 128 && !l.failed && l.landed.contains (o % 128) then none else some q.2

/-- Make a read at the place it leads to. `ks` from the log override (R218). -/
def State.readAt (s : State) (p : Poster) (ea : DWord) (n : Nat) (l1ok : Bool → Bool) (w : Where) : State × List Byte × Bool :=
  match w with
  | .keys ks _ cached _ => s.readBytes p ks (l1ok cached)
  | .queue off =>
    match s.queueRead p ea off n with
    | .ok bs => (s, bs, false)
    | .error _ => (s, [], false)
  | .dev off => (s, toBytes (s.devRead off n) n, false)
  | _ => (s, [], false)

/-- Make a write at the place it leads to. -/
def State.writeAt (s : State) (p : Poster) (bs : List Byte) (w : Where) : State :=
  match w with
  | .keys ks _ _ line =>
    let q := s.unlanded line ks bs
    s.writeBytes p (q.map (·.1)) (q.map (·.2))
  | .dev off => s.devStore off bs.length (BitVec.ofNat 64 (leNat bs))
  | _ => s

/-- Lay the thread's own logged bytes over bytes read from memory (R218). -/
def State.overlay (s : State) (p : Poster) (ea : DWord) (bs : List Byte) : List Byte :=
  match s.logAddr p ea with
  | none => bs
  | some a =>
    if s.slog.isEmpty then bs
    else (List.range bs.length).map fun i => (s.loggedByte p (a.toNat + i)).getD (bs.getD i 0)

/-! ## A cohort's accesses -/

/-- The pages that plans wait for. -/
def Plan.pages : Plan → List (Bool × Nat)
  | .walk sup v => v.map fun x => (sup, x)
  | _ => []

/-- Start the walks that plans lack; when all of them are outstanding already, the cohort just waits (R367). -/
def startWalks (s : State) (kind : AKind) (ps : List (Poster × Plan)) : Out :=
  let s1 := ps.foldl (fun u q => q.2.pages.foldl (fun v x => v.startWalk q.1 x.1 x.2 kind) u) s
  if s1.walks.length == s.walks.length then notReady s else .next s1

/-- Threads park on the ACC 7 record they hold (R218, R309). -/
def parkOnLog (s : State) (g : Group) (lane : Nat) : State :=
  s.mapLanes g.core g.slot (1#64 <<< lane) fun t =>
    match t.logRec with
    | some q => parkOn q t
    | none => t

/-- Threads wait on an absent line, out of their converged set (R169, R194). -/
def parkOnLine (s : State) (g : Group) (lane team line : Nat) : State :=
  (s.mapLanes g.core g.slot (1#64 <<< lane) fun t => { t with st := .onLine team line }).count g.core g.world.toNat 0x1A 1

/-- DONE of the records that an issue has posted on a core, those from number `n` on: the lanes that neither faulted nor
parked on a record they held (R299, R311). -/
def State.setDone (s : State) (core n : Nat) (done : DWord) : State :=
  let fix (q : FaultSlot) : FaultSlot :=
    if q.core == core && n ≤ q.seq && q.live then { q with body := { q.body with done := done } } else q
  { s with faultq := s.faultq.map fix }

/-- What one thread of a cohort takes or does: its fault, its park, or its access. -/
def accessLane (g : Group) (pc issue done : DWord) (eff : State → Thread → Plan → State) (u : State) (q : Thread × Plan) : State :=
  match q.2 with
  | .fault i => raiseLane u g q.1.lane pc issue done i u.cur.words
  | .line t l => parkOnLine u g q.1.lane t l
  | .onLog => parkOnLog u g q.1.lane
  | _ => eff u q.1 q.2

/-- Does a plan hold its thread at the instruction? -/
def Plan.holds : Plan → Bool
  | .fault _ | .line _ _ | .onLog => true
  | _ => false

/-- Does a plan leave the thread to be replayed from a record, so that DONE does not count it (R299, R311)? -/
def Plan.undone : Plan → Bool
  | .fault _ | .onLog => true
  | _ => false

/-- The accesses of a cohort of group `g`: `acts` lists the threads that access, lowest lane first, with their plans, and in
that order they access, post their records and park (R298). `eff` makes the access of a thread whose plan goes through; `fin`
follows for the group, with the lanes of the cohort that the instruction does not hold. A cohort with a plan that must wait
does nothing yet. -/
def accessIssue (s : State) (g : Group) (kind : AKind) (acts : List (Thread × Plan))
    (eff : State → Thread → Plan → State) (fin : State → DWord → State) : Out :=
  if acts.any fun q => q.2 == .wait then notReady s
  else if acts.any fun q => !q.2.pages.isEmpty then
    startWalks s kind (acts.map fun q => (g.poster q.1.lane, q.2))
  else
    let held := laneMask ((acts.filter fun q => q.2.holds).map (·.1.lane))
    let bad := laneMask ((acts.filter fun q => q.2.undone).map (·.1.lane))
    let pc := ((g.inMask s.cur.lanes).map (·.pc)).headD 0
    let done := s.cur.lanes &&& ~~~bad
    let s1 := acts.foldl (accessLane g pc s.cur.lanes done eff) s
    let s2 := fin s1 (s.cur.lanes &&& ~~~held)
    .next ((s2.setDone g.core s.fresh done).dropWalks (g.poster 0))

end Sys2Proof.Machine
end

