-- ==== Sys2Proof/Machine/LoadStore.lean ====
section
/-! DEFINITION. LD, ST, LDX and STX, and the arrival of a load's data (R94, R210 to R221). -/

namespace Sys2Proof.Machine

/-- Bytes of an access (R211). -/
def sizeBytes : MemSize → Nat
  | .b | .bi => 1 | .h | .hi => 2 | .w => 4 | .d => 8 | .q => 16

/-- Width of the registers involved (R211). -/
def sizeDW : MemSize → DW
  | .d => .w64 | .q => .w128 | _ => .w32

/-- The register value of loaded bytes (R211). -/
def extend (z : MemSize) (x : Nat) : Nat :=
  match z with
  | .bi => wrap 32 (signedOf 8 x)
  | .hi => wrap 32 (signedOf 16 x)
  | _ => x

/-- Does the access break the alignment that AT and ORD require (R213)? -/
def misaligned (z : MemSize) (o : MemOrd) (t : MemAt) (ea : DWord) : Bool :=
  let m := match t with
    | .a8 => sizeBytes z
    | .a16 => 16
    | .dflt => match o with
      | .plain | .nt => 1
      | _ => min (sizeBytes z) 4
  ea.toNat % m != 0

/-- An M-format instruction, or an indexed one with its index and scale (R210, R221). -/
structure MInst where
  d   : Sel
  a   : Sel
  sz  : MemSize
  ord : MemOrd
  scp : Nat
  au  : MemAt
  off : DWord
  ix  : Sel
  sc  : Nat
  p   : Option Pfx
  deriving DecidableEq, Repr

/-- Every vector register it names. -/
def MInst.names (x : MInst) : List (Sel × Nat) := [(x.d, (sizeDW x.sz).regs), (x.a, 2), (x.ix, 1)]

/-- The operands of a thread's address: A and the index (R210, R221). -/
def MInst.addrVals (x : MInst) (tick : Nat) (g : Group) (t : Thread) : Val × Val :=
  (vsource tick g t true x.a, vsource tick g t false x.ix)

/-- The effective address (R210, R221), and in an N group any address if an operand is poisoned (R102). -/
def MInst.ea (x : MInst) (tick : Nat) (g : Group) (t : Thread) : DWord :=
  let (a, i) := x.addrVals tick g t
  if a.poison || i.poison then Config.free 64 tick (70000 + t.lane)
  else a.val.setWidth 64 + (((i.val.setWidth 32).signExtend 64) <<< x.sc) + x.off

/-- Is the address poisoned? -/
def MInst.ap (x : MInst) (tick : Nat) (g : Group) (t : Thread) : Bool :=
  (x.addrVals tick g t).1.poison || (x.addrVals tick g t).2.poison

/-- POISON or ALIGN of a thread's address, before its access is looked at (R220). -/
def MInst.early (x : MInst) (tick : Nat) (g : Group) (t : Thread) (kind : AKind) (bad : Bool) : Option FaultInfo :=
  if bad && g.kcls != .n then some (.plain .poison)
  else if misaligned x.sz x.ord x.au (x.ea tick g t) then
    some { code := .align, acc := kind.acc, addr := x.ea tick g t, addr2 := 0 }
  else none

/-- The prefix's policy of the active threads of the cohort. -/
def activeOf (s : State) (g : Group) (p : Option Pfx) : List Thread := g.inMask (s.cur.lanes &&& (pfxLanes s.tick g p).1)

/-- A load takes effect for one thread: its value stands in the destination and the history from now on, and both wait
for load `id` (R94, R215). -/
def loadLane (x : MInst) (id : Nat) (mp : Bool) (s : State) (t : Thread) (pl : Plan) : State :=
  match s.group? s.cur.core s.cur.slot with
  | none => s
  | some g =>
    let p := g.poster t.lane
    let ea := x.ea s.tick g t
    let n := sizeBytes x.sz
    let (a, i) := x.addrVals s.tick g t
    let served (c : Bool) : Bool := servedL1 c x.ord x.scp (a.taint || i.taint)
    let (s1, bs, pois) := match pl with
      | .go w => s.readAt p ea n served w
      | .part lo m w =>
        let (u, b, q) := s.readAt p (ea + BitVec.ofNat 64 lo) m served w
        (u, List.replicate lo 0#8 ++ b ++ List.replicate (n - lo - m) 0#8, q)
      | .fromLog _ => (s, List.replicate n 0#8, false)
      | _ => (s, [], false)
    let ob := s.overlay p ea bs
    let v : Val := { val := BitVec.ofNat 128 (extend x.sz (leNat ob)), taint := a.taint || i.taint || x.ord == .csm,
                     poison := pois || mp, wait := [id] }
    (s1.mapLanes g.core g.slot (1#64 <<< t.lane) fun u =>
      s1.past (pushVal (writeDst u (sizeDW x.sz) x.d v) (sizeDW x.sz) v)).noteWrites g (1#64 <<< t.lane) (sizeDW x.sz) x.d

/-- A load for the issuing cohort (R215). -/
def loadIssue (x : MInst) (s : State) : Out :=
  onGroup s fun g =>
    withRegs s g x.names <|
      if pfxFaults g x.p then raiseCohort s g (.plain .poison)
      else
        let (act, mp) := pfxLanes s.tick g x.p
        let run := activeOf s g x.p
        let vals (t : Thread) := x.addrVals s.tick g t
        if run.any fun t => !(vals t).1.wait.isEmpty || !(vals t).2.wait.isEmpty then notReady s
        else
          let id := s.fresh
          let s0 := { s with fresh := s.fresh + 1 }
          let plan (t : Thread) : Plan :=
            match x.early s.tick g t .load (x.ap s.tick g t) with
            | some i => .fault i
            | none => s.planLoad (g.poster t.lane) (x.ea s.tick g t) (sizeBytes x.sz) (x.ord == .plain || x.ord == .acq)
          accessIssue s0 g .load (run.map fun t => (t, plan t)) (loadLane x id mp) fun u done =>
            let idle := done &&& ~~~act
            let u1 := (u.mapLanes g.core g.slot idle fun t =>
              u.past (inactiveLane s.tick g x.p (sizeDW x.sz) x.d [id] t)).noteWrites g
                (if pfxZeroes x.p then idle else 0) (sizeDW x.sz) x.d
            let u2 := if x.ord == .acq && done != 0#64 then u1.acquire g.core x.scp else u1
            if done == 0#64 then u2 else { u2 with flights := { id := id, core := g.core, slot := g.slot } :: u2.flights }

/-- Data of a store, read from D (R211). -/
def MInst.data (x : MInst) (tick : Nat) (g : Group) (t : Thread) : Val := source tick g t (sizeDW x.sz) x.d

/-- The bytes of a store; in an N group poisoned data are any value (R216). -/
def MInst.bytes (x : MInst) (tick : Nat) (g : Group) (t : Thread) : List Byte :=
  let v := x.data tick g t
  let n := sizeBytes x.sz
  if v.poison then (List.range n).map fun i => Config.free 8 tick (80000 + t.lane * 16 + i) else toBytes v.val.toNat n

/-- Code of an ordering as a log entry holds it (R56, R308). -/
def ordCode : MemOrd → Nat
  | .plain => 0 | .acq => 1 | .rel => 2 | .csm => 3 | .acqrel => 4 | .rlx => 5 | .nt => 6

/-- A store takes effect for one thread: in storage or in the side log (R216, R218). -/
def storeLane (x : MInst) (s : State) (t : Thread) (pl : Plan) : State :=
  match s.group? s.cur.core s.cur.slot with
  | none => s
  | some g =>
    let p := g.poster t.lane
    let bs := x.bytes s.tick g t
    let s1 := match pl with
      | .go w => s.writeAt p bs w
      | .log c a _ =>
        s.logEnter g t c
          { stk := bits (x.ea s.tick g t) 63 56 == 0xF4, core := g.core, slot := g.slot, lane := t.lane, addr := a, seq := 0, typ := 0, aop := 0, wd := false
            bytes := bs, ord := ordCode x.ord, scp := x.scp, kcls := g.kcls }
      | _ => s
    s1.mapLanes g.core g.slot (1#64 <<< t.lane) s1.past

/-- The storage that a plan's access goes to. -/
def Plan.keys : Plan → List Nat
  | .go (.keys ks _ _ _) => ks
  | _ => []

/-- Must a release of a thread wait: for the replay of its side-log entries (R218), or for the flash, whose stores are F's and
are performed when it has finished (R212, R423)? -/
def State.logPending (s : State) (g : Group) (lane : Nat) : Bool :=
  !(s.logOf (g.poster lane)).isEmpty || (g.priv == .f && !s.busy.isEmpty)

/-- A release by the cohort waits for the replay of its threads' side logs (R212, R218). -/
def releasing (s : State) (g : Group) (k : Out) : Out :=
  if (g.inMask s.cur.lanes).any fun t => s.logPending g t.lane then notReady s else k

/-- A store for the issuing cohort, lowest lane first (R216). A release waits for the replay of the thread's log. The bytes of
all its lanes are those of one store, which may cover a poisoned granule (R217, R219). -/
def storeIssue (x : MInst) (s : State) : Out :=
  onGroup s fun g =>
    withRegs s g x.names <|
      if pfxFaults g x.p then raiseCohort s g (.plain .poison)
      else
        let (act, _) := pfxLanes s.tick g x.p
        let run := activeOf s g x.p
        let vals (t : Thread) := x.addrVals s.tick g t
        if run.any fun t => !(vals t).1.wait.isEmpty || !(vals t).2.wait.isEmpty || !(x.data s.tick g t).wait.isEmpty then
          notReady s
        else if x.ord == .rel && run.any fun t => s.logPending g t.lane then notReady s
        else
          let plan (t : Thread) : Plan :=
            match x.early s.tick g t .store (x.ap s.tick g t || (x.data s.tick g t).poison) with
            | some i => .fault i
            | none => s.planStore (g.poster t.lane) (x.ea s.tick g t) (sizeBytes x.sz) .store
          let acts := spendLog (s.logFree g.core) (run.map fun t => (t, plan t))
          accessIssue s g .store acts (storeLane x) fun u done =>
            (u.mapLanes g.core g.slot (done &&& ~~~act) u.past).coverPoison (acts.flatMap fun q => q.2.keys)

/-- An M-format instruction's fields. -/
def mInst (d a : Sel) (sz : MemSize) (o : MemOrd) (q : Scope) (t : MemAt) (lit : Option Imm) (p : Option Pfx) : MInst :=
  { d := d, a := a, sz := sz, ord := o, scp := q.toNat, au := t, off := lit.getD 0, ix := 0x3E#6, sc := 0, p := p }

/-- An indexed instruction's fields (R221). -/
def xInst (d a : Sel) (sz : MemSize) (o : MemOrd) (q : Scope) (t : MemAt) (off : BitVec 32) (k : BitVec 3) (x : Sel)
    (p : Option Pfx) : MInst :=
  { d := d, a := a, sz := sz, ord := o, scp := q.toNat, au := t, off := off.signExtend 64, ix := x, sc := k.toNat, p := p }

/-- R215: a load from any window. -/
def execLd (d a : Sel) (sz : MemSize) (o : MemOrd) (q : Scope) (t : MemAt) (lit : Option Imm) (p : Option Pfx) (s : State) :
    Out := loadIssue (mInst d a sz o q t lit p) s

/-- R216: a store to any window. -/
def execSt (d a : Sel) (sz : MemSize) (o : MemOrd) (q : Scope) (t : MemAt) (lit : Option Imm) (p : Option Pfx) (s : State) :
    Out := storeIssue (mInst d a sz o q t lit p) s

/-- R221: a load with an index and a 32-bit offset. -/
def execLdx (d a : Sel) (sz : MemSize) (o : MemOrd) (q : Scope) (t : MemAt) (off : BitVec 32) (k : BitVec 3) (x : Sel)
    (p : Option Pfx) (s : State) : Out := loadIssue (xInst d a sz o q t off k x p) s

/-- R221: a store with an index and a 32-bit offset. -/
def execStx (d a : Sel) (sz : MemSize) (o : MemOrd) (q : Scope) (t : MemAt) (off : BitVec 32) (k : BitVec 3) (x : Sel)
    (p : Option Pfx) (s : State) : Out := storeIssue (xInst d a sz o q t off k x p) s

/-- A value that waits no more for a load. -/
def arrived (id : Nat) (w : List Nat) : List Nat := w.filter (· != id)

/-- R94: a load's data have arrived, in the destinations and history entries of its cohort. -/
def execLoadDataArrival (id : Nat) (s : State) : Out :=
  match s.flights.find? fun f => f.id == id with
  | none => notReady s
  | some f =>
    let land (t : Thread) : Thread :=
      { t with
        v := t.v.map fun r => { r with wait := arrived id r.wait }
        h := t.h.map fun e => { e with wait := arrived id e.wait } }
    .next { s with
      groups := s.groups.map fun g => if g.core == f.core && g.slot == f.slot then g.mapThreads land else g
      flights := s.flights.filter fun x => x.id != id }

end Sys2Proof.Machine
end

