-- ==== Sys2Proof/Machine/Atomics.lean ====
section
/-! DEFINITION. Atomics, memory reductions, prefetches, phases, fences and presence control (R222 to R230). -/

namespace Sys2Proof.Machine

/-! ## Operations (R223) -/

/-- The new memory value of an operation on `w` bits: `v` is the operand, `n` the new value of a compare and swap. -/
def atomNew (aop w old v n : Nat) : Nat :=
  match aop with
  | 0x0 => wrap w (old + v : Int)
  | 0x1 => wrap w ((old : Int) - v)
  | 0x2 => wrap w (min (signedOf w old) (signedOf w v))
  | 0x3 => wrap w (max (signedOf w old) (signedOf w v))
  | 0x4 => min old v
  | 0x5 => max old v
  | 0x6 => old &&& v
  | 0x7 => old ||| v
  | 0x8 => old ^^^ v
  | 0x9 | 0xE => v
  | 0xA | 0xF => if old == v then n else old
  | 0xB => if v ≤ old then 0 else old + 1
  | 0xC => if old == 0 || v < old then v else old - 1
  | _ => (fAdd (if w == 64 then .f64 else .f32) .rne old v).1

/-- An atomic instruction (R222, R223): `bytes` is the access size. -/
structure AInst where
  aop : Nat
  d   : Sel
  a   : Sel
  ord : AtomOrd
  scp : Nat
  n   : Nat
  deriving DecidableEq, Repr

/-- Does the operation take a new value beside the compared one? -/
def AInst.swaps (x : AInst) : Bool := x.aop == 0xA || x.aop == 0xF

/-- Width of the operand and the result. -/
def AInst.dw (x : AInst) : DW := if x.n == 16 then .w128 else if x.n == 8 then .w64 else .w32

/-- Every vector register named. -/
def AInst.names (x : AInst) : List (Sel × Nat) := [(x.d, if x.swaps then 2 * x.dw.regs else x.dw.regs), (x.a, 2)]

/-- The operand in D. -/
def AInst.opv (x : AInst) (tick : Nat) (g : Group) (t : Thread) : Val := source tick g t x.dw x.d

/-- The new value of a compare and swap, in the next unit. -/
def AInst.newv (x : AInst) (tick : Nat) (g : Group) (t : Thread) : Val :=
  if x.swaps then source tick g t x.dw (x.d + BitVec.ofNat 6 x.dw.regs) else Val.const 0

/-- Is something consumed poisoned? -/
def AInst.bad (x : AInst) (tick : Nat) (g : Group) (t : Thread) : Bool :=
  (vsource tick g t true x.a).poison || (x.opv tick g t).poison || (x.newv tick g t).poison

/-- The address; any address in an N group that consumes a poisoned one. -/
def AInst.ea (x : AInst) (tick : Nat) (g : Group) (t : Thread) : DWord :=
  let a := vsource tick g t true x.a
  if a.poison then Config.free 64 tick (70000 + t.lane) else a.val.setWidth 64

/-- A consumed operand's value. -/
def consumed (tick k : Nat) (v : Val) : Nat := if v.poison then (Config.free 128 tick k).toNat else v.val.toNat

/-- Does some operand still wait? -/
def AInst.waits (x : AInst) (tick : Nat) (g : Group) (t : Thread) : Bool :=
  !(vsource tick g t true x.a).wait.isEmpty || !(x.opv tick g t).wait.isEmpty || !(x.newv tick g t).wait.isEmpty

/-- An atomic takes effect for one thread: read, modify, write in one, and the old value to D, with the poison of the
address, which an N group keeps. A poisoned granule gives the old value with poison and is not written (R224), and nothing is
written that depends on data whose glaze check fails (R254). -/
def atomLane (x : AInst) (s : State) (t : Thread) (pl : Plan) : State :=
  match pl, s.group? s.cur.core s.cur.slot with
  | .go w, some g =>
    let p := g.poster t.lane
    let (s1, bs, pois) := s.readAt p (x.ea s.tick g t) x.n (fun _ => false) w
    let a := vsource s.tick g t true x.a
    let m := 2 ^ (8 * x.n)
    let old := leNat bs
    let new := atomNew x.aop (8 * x.n) old (consumed s.tick (90000 + t.lane) (x.opv s.tick g t) % m)
      (consumed s.tick (91000 + t.lane) (x.newv s.tick g t) % m)
    let s2 := (if pois || s.failsGlaze pl.keys then s1 else s1.writeAt p (toBytes new x.n) w).countLine (pl.keys.headD 0) 0x29 1
    let v : Val := { val := BitVec.ofNat 128 old, taint := a.taint, poison := pois || a.poison, wait := [] }
    (s2.mapLanes g.core g.slot (1#64 <<< t.lane) fun u => s2.past (pushVal (writeDst u x.dw x.d v) x.dw v)).noteWrites g
      (1#64 <<< t.lane) x.dw x.d
  | _, _ => s

/-- Is the ordering a release; is it an acquire? -/
def relOf (o : AtomOrd) : Bool := o == .rel || o == .acqrel
/-- Is the ordering an acquire? -/
def acqOf (o : AtomOrd) : Bool := o == .acq || o == .acqrel

/-- An atomic for the issuing cohort, lowest lane first (R224). -/
def atomIssue (x : AInst) (s : State) : Out :=
  onGroup s fun g =>
    withRegs s g x.names <|
      let run := g.inMask s.cur.lanes
      if run.any fun t => x.waits s.tick g t then notReady s
      else if relOf x.ord && run.any fun t => s.logPending g t.lane then notReady s
      else
        let plan (t : Thread) : Plan :=
          let ea := x.ea s.tick g t
          if x.bad s.tick g t && g.kcls != .n then .fault (.plain .poison)
          else if ea.toNat % x.n != 0 then .fault { code := .align, acc := 3, addr := ea, addr2 := 0 }
          else s.planAtomic (g.poster t.lane) ea x.n
        accessIssue s g .atomic (run.map fun t => (t, plan t)) (atomLane x) fun u done =>
          if acqOf x.ord && done != 0#64 then u.acquire g.core x.scp else u

/-- A memory reduction takes effect for one thread, in storage or in the side log (R218, R225). -/
def redLane (x : AInst) (s : State) (t : Thread) (pl : Plan) : State :=
  match s.group? s.cur.core s.cur.slot with
  | none => s
  | some g =>
    let p := g.poster t.lane
    let v := consumed s.tick (90000 + t.lane) (x.opv s.tick g t) % 2 ^ (8 * x.n)
    let s1 := match pl with
      | .go w =>
        let (s1, bs, pois) := s.readAt p (x.ea s.tick g t) x.n (fun _ => false) w
        (if pois || s.failsGlaze pl.keys then s1
        else s1.writeAt p (toBytes (atomNew x.aop (8 * x.n) (leNat bs) v 0) x.n) w).countLine (pl.keys.headD 0) 0x29 1
      | .log c a _ =>
        s.logEnter g t c
          { stk := bits (x.ea s.tick g t) 63 56 == 0xF4, core := g.core, slot := g.slot, lane := t.lane, addr := a, seq := 0, typ := 1, aop := x.aop, wd := x.n == 8
            bytes := toBytes v x.n, ord := if relOf x.ord then 2 else 5, scp := x.scp, kcls := g.kcls }
      | _ => s
    s1.mapLanes g.core g.slot (1#64 <<< t.lane) s1.past

/-- A memory reduction for the issuing cohort (R225). -/
def redIssue (x : AInst) (s : State) : Out :=
  onGroup s fun g =>
    withRegs s g x.names <|
      let run := g.inMask s.cur.lanes
      if run.any fun t => x.waits s.tick g t then notReady s
      else if relOf x.ord && run.any fun t => s.logPending g t.lane then notReady s
      else
        let plan (t : Thread) : Plan :=
          let ea := x.ea s.tick g t
          if x.bad s.tick g t && g.kcls != .n then .fault (.plain .poison)
          else if ea.toNat % x.n != 0 then .fault { code := .align, acc := 4, addr := ea, addr2 := 0 }
          else s.planStore (g.poster t.lane) ea x.n .reduction
        accessIssue s g .reduction (spendLog (s.logFree g.core) (run.map fun t => (t, plan t))) (redLane x) fun u _ => u

/-- An atomic of 4 or 8 bytes. -/
def atomOf (aop : Nat) (d a : Sel) (r : AtomOrd) (q : Scope) (w : Bool) : AInst :=
  { aop := aop, d := d, a := a, ord := r, scp := q.toNat, n := if w then 8 else 4 }

/-- R223: add. -/
def execAtomAdd (d a : Sel) (r : AtomOrd) (q : Scope) (w : Bool) (s : State) : Out := atomIssue (atomOf 0 d a r q w) s

/-- R223: subtract. -/
def execAtomSub (d a : Sel) (r : AtomOrd) (q : Scope) (w : Bool) (s : State) : Out := atomIssue (atomOf 1 d a r q w) s

/-- R223: signed minimum. -/
def execAtomMinI (d a : Sel) (r : AtomOrd) (q : Scope) (w : Bool) (s : State) : Out := atomIssue (atomOf 2 d a r q w) s

/-- R223: signed maximum. -/
def execAtomMaxI (d a : Sel) (r : AtomOrd) (q : Scope) (w : Bool) (s : State) : Out := atomIssue (atomOf 3 d a r q w) s

/-- R223: unsigned minimum. -/
def execAtomMinN (d a : Sel) (r : AtomOrd) (q : Scope) (w : Bool) (s : State) : Out := atomIssue (atomOf 4 d a r q w) s

/-- R223: unsigned maximum. -/
def execAtomMaxN (d a : Sel) (r : AtomOrd) (q : Scope) (w : Bool) (s : State) : Out := atomIssue (atomOf 5 d a r q w) s

/-- R223: AND. -/
def execAtomAnd (d a : Sel) (r : AtomOrd) (q : Scope) (w : Bool) (s : State) : Out := atomIssue (atomOf 6 d a r q w) s

/-- R223: OR. -/
def execAtomOr (d a : Sel) (r : AtomOrd) (q : Scope) (w : Bool) (s : State) : Out := atomIssue (atomOf 7 d a r q w) s

/-- R223: exclusive OR. -/
def execAtomXor (d a : Sel) (r : AtomOrd) (q : Scope) (w : Bool) (s : State) : Out := atomIssue (atomOf 8 d a r q w) s

/-- R223: exchange. -/
def execAtomXchg (d a : Sel) (r : AtomOrd) (q : Scope) (w : Bool) (s : State) : Out := atomIssue (atomOf 9 d a r q w) s

/-- R223: compare and swap. -/
def execAtomCas (d a : Sel) (r : AtomOrd) (q : Scope) (w : Bool) (s : State) : Out := atomIssue (atomOf 10 d a r q w) s

/-- R223: increment with wrap. -/
def execAtomIncw (d a : Sel) (r : AtomOrd) (q : Scope) (w : Bool) (s : State) : Out := atomIssue (atomOf 11 d a r q w) s

/-- R223: decrement with wrap. -/
def execAtomDecw (d a : Sel) (r : AtomOrd) (q : Scope) (w : Bool) (s : State) : Out := atomIssue (atomOf 12 d a r q w) s

/-- R223: float add, rne. -/
def execAtomAddF (d a : Sel) (r : AtomOrd) (q : Scope) (w : Bool) (s : State) : Out := atomIssue (atomOf 13 d a r q w) s

/-- R223: exchange of 16 bytes. -/
def execAtomXchgA16 (d a : Sel) (r : AtomOrd) (q : Scope) (s : State) : Out :=
  atomIssue { aop := 0xE, d := d, a := a, ord := r, scp := q.toNat, n := 16 } s

/-- R223: compare and swap of 16 bytes. -/
def execAtomCasA16 (d a : Sel) (r : AtomOrd) (q : Scope) (s : State) : Out :=
  atomIssue { aop := 0xF, d := d, a := a, ord := r, scp := q.toNat, n := 16 } s

/-- AOP of a reduction's operation (R80, R225). -/
def mrCode : MrOp → Nat
  | .add => 0 | .sub => 1 | .minI => 2 | .maxI => 3 | .minN => 4 | .maxN => 5 | .and => 6 | .or => 7 | .xor => 8 | .addF => 13

/-- R225: a memory reduction. -/
def execMemoryReduction (d a : Sel) (o : MrOp) (r : AtomOrd) (q : Scope) (w : Bool) (s : State) : Out :=
  redIssue (atomOf (mrCode o) d a r q w) s

/-! ## MEMC (R226 to R230) -/

/-- The effective address of a MEMC instruction. -/
def memcEa (tick : Nat) (g : Group) (t : Thread) (a : Sel) (lit : Option Imm) : Val :=
  let v := vsource tick g t true a
  { v with val := (v.val.setWidth 64 + lit.getD 0#64).setWidth 128 }

/-- A MEMC instruction on an address, once for each thread of the cohort. -/
def memcIssue (s : State) (a : Sel) (lit : Option Imm) (regs : List (Sel × Nat)) (k : Group → (Thread → Val) → Out) : Out :=
  onGroup s fun g =>
    withRegs s g ((a, 2) :: regs) <|
      let v (t : Thread) : Val := memcEa s.tick g t a lit
      if (g.inMask s.cur.lanes).any fun t => !(v t).wait.isEmpty then notReady s else k g v

/-- Prefetches of a core that are outstanding (R227). -/
def State.prefOut (s : State) (core : Nat) : Nat :=
  (s.prefs.filter fun q => q.by_.core == core).length + (s.icache.filter fun l => l.core == core && l.pf && !l.full).length

/-- The threads of a list whose values lie in different lines, the first of each line. -/
def perLine (v : Thread → Val) (l : List Thread) : List Thread :=
  l.foldr (fun t r => t :: r.filter fun u => (v u).val.toNat % 2 ^ 64 / 128 != (v t).val.toNat % 2 ^ 64 / 128) []

/-- A prefetch for the threads of the cohort: those that name the same line make one request (R433; for `pf`, log entry 97).
`kind` and `at_` say what it accesses, and `one` makes a request where its address leads, or answers none when it is dropped,
which is counted once (R227, R419). A missing translation is walked first; a poisoned address and a refused access drop the
request. -/
def prefetch (s : State) (a : Sel) (lit : Option Imm) (kind : AKind) (at_ : Poster → DWord → Where)
    (one : State → Poster → Where → Option State) : Out :=
  memcIssue s a lit [] fun g v =>
    let named := perLine v (g.inMask s.cur.lanes)
    let run := named.filter fun t => !(v t).poison
    let w (t : Thread) : Where := at_ (g.poster t.lane) ((v t).val.setWidth 64)
    let misses := if 16 ≤ s.prefOut g.core then [] else run.filterMap fun t => match w t with
      | .walk sup p => some (g.poster t.lane, Plan.walk sup p)
      | _ => none
    if !misses.isEmpty then startWalks s kind misses
    else
      let f (u : State) (t : Thread) : State :=
        match if (v t).poison then none else one u (g.poster t.lane) (w t) with
        | some x => x
        | none => u.count g.core g.world.toNat 0x16 1
      let s1 := named.foldl f s
      .next ((s1.mapLanes g.core g.slot s.cur.lanes s1.past).dropWalks (g.poster 0))

/-- R227: a prefetch requests a line of main memory for L2, or where L1 serves its address for L1; a prefetch of a scratchpad or
vault, or of a line that L1 holds, has no effect, and a refused one, or one past sixteen outstanding, is dropped. -/
def execPf (l : Bool) (a : Sel) (lit : Option Imm) (s : State) : Out :=
  prefetch s a lit .load (fun p ea => s.resolve p ea 1 .load) fun u p w =>
    match w with
    | .keys (k :: _) _ cached _ =>
      if !isMain k || (!l && (!cached || (u.l1Line p.core p.world (k / 128)).isSome)) then some u
      else if 16 ≤ u.prefOut p.core then none
      else some { u with prefs := u.prefs ++ [{ by_ := p, line := k / 128, l2 := l }] }
    | .keys _ _ _ _ => some u
    | _ => none

/-- An outstanding prefetch is performed: its read meets soft errors (R206, R227), and one for L1 brings the line in. Where L1
has come to hold the line, nothing is read. -/
def State.prefArrive (s : State) (q : Pref) : State :=
  let u : State := { s with prefs := s.prefs.erase q }
  if q.l2 then u.meetErrors q.by_ [q.line * 128]
  else if (u.l1Line q.by_.core q.by_.world q.line).isSome then u
  else (u.meetErrors q.by_ [q.line * 128]).fillL1 q.by_ [q.line]

/-- Request a line for a core's instruction cache, in place of the least recently used of a full set of four (R432). A line
that is present or on its way is not requested again. -/
def State.requestLine (s : State) (p : Poster) (pf : Bool) (line : Nat) : State :=
  let same (l : ICLine) : Bool := l.core == p.core && l.line % 256 == line % 256
  if s.icache.any fun l => l.core == p.core && l.world == p.world && l.line == line then s
  else
    let new : ICLine := { core := p.core, world := p.world, line := line, full := false, pf := pf, by_ := p, bad := [], bytes := [] }
    { s with icache := new :: ((s.icache.filter same).take 3 ++ s.icache.filter fun l => !same l) }

/-- R227, R433: a prefetch into the instruction cache, with the rights of a fetch. A line that is present or being filled is
not requested again. -/
def execIpf (a : Sel) (lit : Option Imm) (s : State) : Out :=
  prefetch s a lit .fetch (fun p ea => s.fetchAt p (ea &&& ~~~3#64)) fun u p w =>
    match w with
    | .keys (k :: _) _ _ _ =>
      if u.icache.any fun l => l.core == p.core && l.world == p.world && l.line == k / 128 then some u
      else if 16 ≤ u.prefOut p.core then none
      else some (u.requestLine p true (k / 128))
    | _ => none

/-- A phase instruction: a release waits for the replay of the threads' logs, an acquire forgets L1's lines (R212, R218,
R228). -/
def phaseIssue (rel acq : Bool) (q : Scope) (s : State) : Out :=
  onGroup s fun g =>
    if rel && (g.inMask s.cur.lanes).any fun t => s.logPending g t.lane then notReady s
    else
      let s1 := if acq then s.acquire g.core q.toNat else s
      .next (s1.putGroup (movePast s1 g))

/-- R228: an acquire. -/
def execPhaseBegin (q : Scope) (s : State) : Out := phaseIssue false true q s
/-- R228: a release. -/
def execPhaseEnd (q : Scope) (s : State) : Out := phaseIssue true false q s
/-- R228: a release and then an acquire. -/
def execPhase (q : Scope) (s : State) : Out := phaseIssue true true q s
/-- R228, R241: a phase; one step of the model performs a store at once, so later loads follow it. -/
def execFence (q : Scope) (s : State) : Out := phaseIssue true true q s

/-- The address that a MEMC instruction consumes: any address where an N group's is poisoned (R102). -/
def memcAddr (s : State) (t : Thread) (v : Val) : DWord :=
  if v.poison then Config.free 64 s.tick (70000 + t.lane) else v.val.setWidth 64

/-- What `cwb` and `cinv` meet at an address: APERTURE as a load would, the queue window included; a register of the device
window is mapped, and has no line (R190, R229, R354). -/
def linePlan (s : State) (g : Group) (t : Thread) (v : Val) : Plan :=
  if v.poison && g.kcls != .n then .fault (.plain .poison)
  else
    let ea := memcAddr s t v
    if bits ea 63 56 == 0xFE && g.priv == .f && devMapped (bits ea 55 0) then .go .wait
    else match s.resolve (g.poster t.lane) ea 1 .load with
    | .queue _ => .fault { code := .aperture, acc := 1, addr := ea, addr2 := 0 }
    | .fault i => if i.code == .aperture then .fault i else .go .wait
    | .walk sup p => .walk sup p
    | w => .go w

/-- R229: the line's stores have been performed; a thread whose own stores to it are logged waits. -/
def execCwb (a : Sel) (_q : Scope) (lit : Option Imm) (s : State) : Out :=
  memcIssue s a lit [] fun g v =>
    if (g.inMask s.cur.lanes).any fun t =>
        match s.logAddr (g.poster t.lane) (memcAddr s t (v t)) with
        | some x => (s.logOf (g.poster t.lane)).any fun e => e.overlaps (x &&& ~~~127#64) 128
        | none => false
    then notReady s
    else
      accessIssue s g .load ((g.inMask s.cur.lanes).map fun t => (t, linePlan s g t (v t)))
        (fun u t _ => u.mapLanes g.core g.slot (1#64 <<< t.lane) u.past) fun u _ => u

/-- R229: at `.clu` or wider the core's L1 copy of the line goes. -/
def execCinv (a : Sel) (q : Scope) (lit : Option Imm) (s : State) : Out :=
  memcIssue s a lit [] fun g v =>
    accessIssue s g .load ((g.inMask s.cur.lanes).map fun t => (t, linePlan s g t (v t)))
      (fun u t pl =>
        let u1 := match pl with
          | .go (.keys (k :: _) _ _ _) =>
            if 4 ≤ q.toNat then { u with l1 := u.l1.filter fun l => !(l.core == g.core && l.line == k / 128) } else u
          | _ => u
        u1.mapLanes g.core g.slot (1#64 <<< t.lane) u1.past) fun u _ => u

/-- What a presence instruction meets: a line of an allocation in windows 0xF0 and 0xF1, or APERTURE (R230). -/
def spPlan (s : State) (g : Group) (t : Thread) (v : Val) : Plan :=
  if v.poison && g.kcls != .n then .fault (.plain .poison)
  else
    let ea := memcAddr s t v
    match s.resolve (g.poster t.lane) ea 1 .load with
    | .keys ks c b (some l) => .go (.keys ks c b (some l))
    | .fault i => .fault { i with code := .aperture }
    | .wait => .wait
    | _ => .fault { code := .aperture, acc := 1, addr := ea, addr2 := 0 }

/-- Change the record of one line of a team; `none` makes it present. -/
def State.setLine (s : State) (team line : Nat) (f : Option SpLine → Option SpLine) : State :=
  match s.team? team with
  | none => s
  | some t =>
    let old := t.lines.find? fun l => l.line == line
    let rest := t.lines.filter fun l => l.line != line
    (s.setTeam { t with lines := match f old with
      | some l => l :: rest
      | none => rest }).wakeLines team

/-- A presence instruction for the issuing cohort: `f` changes the line's record and `r` gives a result, if any. -/
def spIssue (s : State) (a : Sel) (lit : Option Imm) (d : Option Sel) (f : Nat → Option SpLine → Option SpLine) : Out :=
  memcIssue s a lit (match d with
      | some x => [(x, 1)]
      | none => []) fun g v =>
    accessIssue s g .load ((g.inMask s.cur.lanes).map fun t => (t, spPlan s g t (v t)))
      (fun u t pl =>
        match pl with
        | .go (.keys _ _ _ (some (team, off))) =>
          let was := (u.team? team).bind fun x => x.lines.find? fun l => l.line == off / 128
          let code := match was with
            | none => 0
            | some l => if l.failed then 2 else 1
          let u1 := if d.isSome then u else u.setLine team (off / 128) (f (off / 128))
          let res : Val := { Val.const code with taint := (v t).taint, poison := (v t).poison }
          u1.mapLanes g.core g.slot (1#64 <<< t.lane) fun x =>
            u1.past (match d with
              | some y => pushVal (writeDst x .w32 y res) .w32 res
              | none => x)
        | _ => u)
      fun u done => match d with
        | some y => u.noteWrites g done .w32 y
        | none => u

/-- R230: the line becomes absent. A failed one stays tied to the commands that are still in flight for it. -/
def execSpClr (a : Sel) (lit : Option Imm) (s : State) : Out :=
  spIssue s a lit none fun n o => match o with
    | some l => some { l with failed := false }
    | none => some { line := n, failed := false, ties := [], landed := [] }

/-- R230: the line becomes present, no longer tied to the commands in flight for it. DESIGN CHOICE (log entry 103): a line that
is then made absent again stays so when such a command lands. -/
def execSpSet (a : Sel) (lit : Option Imm) (s : State) : Out := spIssue s a lit none fun _ _ => none

/-- R230: 0 present, 1 absent, 2 failed. -/
def execSpTest (d a : Sel) (lit : Option Imm) (s : State) : Out := spIssue s a lit (some d) fun _ o => o

end Sys2Proof.Machine
end

