-- ==== Sys2Proof/Machine/Barriers.lean ====
section
/-! DEFINITION. Team, cluster, named and completion barriers and their timeouts (R397 to R406). -/

namespace Sys2Proof.Machine

/-! ## Releasing -/

/-- A waiting thread goes on at the next instruction; barrier instructions are one word (R397). -/
def State.leaveBar (s : State) (t : Thread) : Thread :=
  { t with st := .ready, pc := t.pc + 4#64, since := s.cycle + 1 + Config.latency s.tick, bpSkip := false }

/-- May a group issue at all (R169)? The threads of one that may not have not arrived at a barrier (R398). -/
def State.groupRuns (s : State) (g : Group) : Bool := !g.frozen && !g.dead && !s.isHalted g.core

/-- Groups of a team. -/
def State.groupsOf (s : State) (team : Nat) : List Group := s.groups.filter fun g => g.team == team

/-- Threads of a team that have not exited. -/
def State.liveOf (s : State) (team : Nat) : List Thread := (s.groupsOf team).flatMap Group.live

/-- Has every thread of some groups that has not exited arrived at a barrier, and is there one (R398)? -/
def State.allArrived (s : State) (gs : List Group) (b : BarWait) : Bool :=
  gs.any (fun g => !g.live.isEmpty) && gs.all fun g => g.live.isEmpty || (s.groupRuns g && g.live.all fun t => match t.st with
    | .atBar c _ => c == b
    | _ => false)

/-- Change the threads of a team. -/
def State.mapTeam (s : State) (team : Nat) (f : Thread → Thread) : State :=
  { s with groups := s.groups.map fun g => if g.team == team then g.mapThreads f else g }

/-- Is the thread at a barrier? -/
def Thread.waitsAt (t : Thread) (b : BarWait) : Bool :=
  match t.st with
  | .atBar c _ => c == b
  | _ => false

/-- R398 for a team barrier: it completes when every thread that has not exited has arrived. -/
def State.checkTeamBar (s : State) (team : Nat) : State :=
  if !s.allArrived (s.groupsOf team) .team then s
  else
    let s1 := s.mapTeam team fun t => if t.waitsAt .team then s.leaveBar t else t
    match s1.team? team with
    | some t => (s1.setTeam { t with tbSince := none }).count t.core t.world.toNat 0x18 1
    | none => s1

/-- Is a group of the cluster of a team? -/
def Team.sameCluster (t : Team) (g : Group) : Bool :=
  g.lq.toNat == t.lq && g.lseq.toNat == t.lseq && g.clid == t.clid

/-- R398 for the cluster barrier of a team's cluster; a swapped-out team has not arrived. -/
def State.checkCluBar (s : State) (team : Nat) : State :=
  match s.team? team with
  | none => s
  | some t =>
    let away := s.images.any fun i => i.groups.any fun g => t.sameCluster g && !g.live.isEmpty
    if away || !s.allArrived (s.groups.filter t.sameCluster) .clu then s
    else
      let leave (g : Group) : Group :=
        if t.sameCluster g then g.mapThreads fun u => if u.waitsAt .clu then s.leaveBar u else u else g
      let cores := (s.groups.filter t.sameCluster).map (·.core)
      let s1 := { s with
        groups := s.groups.map leave
        l1 := s.l1.filter fun l => !(cores.contains l.core && l.world == t.world)
        teams := s.teams.map fun u => if u.lq == t.lq && u.lseq == t.lseq && u.clid == t.clid then { u with cbSince := none } else u }
      cores.eraseDups.foldl (fun u c => u.count c t.world.toNat 0x18 1) s1

/-- Groups of a team that have not exited. -/
def State.liveGroups (s : State) (team : Nat) : Nat := ((s.groupsOf team).filter fun g => !g.live.isEmpty).length

/-- Set a named barrier. -/
def Team.setNb (t : Team) (n : Nat) (b : NBar) : Team := { t with nbs := t.nbs.set n b }

/-- R399: does the named barrier complete? -/
def State.checkNamed (s : State) (team n : Nat) : State :=
  match s.team? team with
  | none => s
  | some t =>
    match t.nbs[n]? with
    | none => s
    | some b =>
      if b.arr == 0 || b.arr < min b.tgt (s.liveGroups team) then s
      else
        ((s.mapTeam team fun u => if u.waitsAt (.named n) then s.leaveBar u else u).setTeam
          (t.setNb n { arr := 0, tgt := 0, since := none })).count t.core t.world.toNat 0x18 1

/-- The named barrier at which every thread of a group that has not exited has arrived, if there is one, with the operand of
the instruction that acts (R397). DESIGN CHOICE (log entry 88): where the group stands at several instructions, that of its
lowest thread acts. -/
def Group.convergedAt (g : Group) : Option (Nat × Sel) :=
  match g.live with
  | [] => none
  | t :: _ =>
    match t.st with
    | .converging n _ a =>
      if g.live.all fun u => match u.st with
        | .converging m _ _ => m == n
        | _ => false
      then some (n, a) else none
    | _ => none

/-- A scalar operand that is consumed: its value, or none when POISON is due (R102). -/
def consumeS (tick k : Nat) (g : Group) (sel : Sel) : Option DWord :=
  let v := ssource g sel
  if v.poison then (if g.kcls == .n then some (Config.free 64 tick k) else none) else some v.val

/-- Run `k` on a consumed scalar operand. -/
def withS (s : State) (g : Group) (k : Nat) (sel : Sel) (f : DWord → Out) : Out :=
  match consumeS s.tick (100000 + k) g sel with
  | some v => f v
  | none => raiseCohort s g (.plain .poison)

/-- The word of `bar.named` or `bar.arrive` (R397). -/
def barWord (n : Nat) (stay : Bool) (a : Sel) : Word :=
  BitVec.ofNat 32 (at_ 0x10 24 + at_ a.toNat 12 + at_ (if stay then 2 else 3) 8 + n)

/-- A whole group faults at its named barrier: one record for each instruction that its threads stand at (R262, R300). -/
def State.namedPoison (s : State) (g : Group) : State :=
  (g.live.map fun t => (t.pc, t.st)).eraseDups.foldl (fun u q =>
    match q.2 with
    | .converging n stay a =>
      raiseMask u g (laneMask ((g.live.filter fun t => (t.pc, t.st) == q).map (·.lane))) (.plain .poison) [barWord n stay a]
    | _ => u) s

/-- R399: a whole group arrives, if all of it has reached the barrier. It acts, and consumes its count, once (R262, R397). -/
def State.namedArrive (s : State) (core slot : Nat) : State :=
  match s.group? core slot with
  | none => s
  | some g =>
    match g.convergedAt, s.team? g.team with
    | some (n, a), some t =>
      (match consumeS s.tick 100000 g a with
       | none => s.namedPoison g
       | some c =>
         let b := t.nbs.getD n { arr := 0, tgt := 0, since := none }
         let tgt := if 1 ≤ c.toNat && c.toNat < t.groups then c.toNat else t.groups
         let b1 : NBar := { arr := b.arr + 1, tgt := if b.arr == 0 then tgt else b.tgt,
                            since := if b.since.isSome then b.since else some s.time.toNat }
         let g1 := g.mapThreads fun u =>
           match u.st with
           | .converging _ true _ => { u with st := .atBar (.named n) s.time.toNat, bpSkip := false }
           | .converging _ false _ => s.leaveBar u
           | _ => u
         ((s.putGroup g1).setTeam (t.setNb n b1)).checkNamed g.team n)
    | _, _ => s

/-- What the exit or teardown of threads can complete: every barrier of the team and its cluster (R398, R399). -/
def State.checkBars (s : State) (core slot team : Nat) : State :=
  let s1 := (s.namedArrive core slot).checkTeamBar team |>.checkCluBar team
  (List.range 16).foldl (fun u n => u.checkNamed team n) s1

/-! ## Completion barriers (R401 to R405) -/

/-- Set a completion barrier. -/
def Team.setCb (t : Team) (n : Nat) (b : CBar) : Team := { t with cbs := t.cbs.set n b }

/-- A completion barrier of a team. -/
def Team.cb (t : Team) (n : Nat) : CBar := t.cbs.getD n { exp := 0, cnt := 0, ph := false, scp := 0, since := none }

/-- A thread's own `cb.wait` returns: it takes the phase, and the registers of commands counted by completed phases are
free for it (R273, R404). -/
def passCb (n : Nat) (ph : Bool) (t : Thread) : Thread :=
  { t with tph := if ph then t.tph ||| BitVec.ofNat 16 (2 ^ n) else t.tph &&& ~~~(BitVec.ofNat 16 (2 ^ n)) }

/-- Is a command's arrival counted by a completed phase of barrier `n`? -/
def Owned.counted (o : Owned) (n : Nat) : Bool := o.cb == n && o.stage == 2

/-- Registers of commands that completed phases of barrier `n` count are free for the lanes of a mask (R273). Results in
registers of lanes that are free only now and that instructions wrote meanwhile are any value (R141). -/
def Group.freeOwned (tick : Nat) (g : Group) (n : Nat) (m : DWord) : Group :=
  let free (o : Owned) : Owned := if o.counted n then { o with freed := o.freed ||| m } else o
  let dirty := (g.owned.filter fun o => o.counted n && !o.input).flatMap fun o =>
    o.dirty.filter fun d => laneBit (m &&& ~~~o.freed) d.2
  let spoil (v : List Reg) (d : Nat × Nat) : List Reg :=
    match v[d.1]? with
    | some r => v.set d.1 { r with val := Config.free 32 tick (d.2 * 64 + d.1) }
    | none => v
  let spoilt (t : Thread) : Thread := { t with v := (dirty.filter fun d => d.2 == t.lane).foldl spoil t.v }
  { g with
    owned := (g.owned.map free).filter fun o => (o.freed &&& lowLanes g.gw) != lowLanes g.gw
    threads := g.threads.map spoilt }

/-- Threads of a team that wait for a completed phase go on; each group's lanes that do are free of its commands. A group that
may not issue acquires nothing yet (R252). -/
def State.wakeCb (s : State) (team n : Nat) (ph : Bool) (scp : Nat) : State :=
  let go (t : Thread) : Bool := (match t.st with
    | .atBar (.cb m _) _ => m == n
    | _ => false) && t.tph.getLsbD n != ph
  let wake (g : Group) : Group :=
    if g.team == team && s.groupRuns g then
      (g.mapThreads fun t => if go t then passCb n ph (s.leaveBar t) else t).freeOwned s.tick n
        (laneMask ((g.threads.filter go).map (·.lane)))
    else g
  let cores := ((s.groupsOf team).filter fun g => s.groupRuns g && g.threads.any go).map (·.core)
  cores.foldl (fun u c => u.acquire c scp) { s with groups := s.groups.map wake }

/-- R403: an arrival at a completion barrier of a team, at a scope; `cmd` names the matrix command that makes it. -/
def State.cbArrive (s : State) (team n scp : Nat) (cmd : Option Nat) : State :=
  match s.team? team with
  | none => s
  | some t =>
    let b := t.cb n
    if b.exp == 0#16 then s
    else
      let count (o : Owned) : Owned := if cmd == some o.cmd then { o with stage := 1 } else o
      let counted (g : Group) : Group := if g.team == team then { g with owned := g.owned.map count } else g
      let s1 := { s with groups := s.groups.map counted }
      let b1 := { b with scp := max b.scp scp }
      if b.cnt + 1#16 == b.exp then
        let ph := !b.ph
        let finish (o : Owned) : Owned := if o.cb == n && o.stage == 1 then { o with stage := 2 } else o
        let finished (g : Group) : Group := if g.team == team then { g with owned := g.owned.map finish } else g
        let s2 := { s1 with groups := s1.groups.map finished }
        ((s2.setTeam (t.setCb n { b1 with cnt := 0, ph := ph, since := none })).wakeCb team n ph b1.scp).count t.core
          t.world.toNat 0x19 1
      else s1.setTeam (t.setCb n { b1 with cnt := b.cnt + 1#16 })

/-- What a group's return to issue can complete: its threads at barriers have arrived again, and those whose phase has completed
meanwhile go on; the clock of a phase that threads wait on runs (R252, R398, R404, R406). -/
def State.recheck (s : State) (team : Nat) : State :=
  (List.range 16).foldl (fun u n =>
    match u.team? team with
    | none => u
    | some t =>
      let b := t.cb n
      let v := u.wakeCb team n b.ph b.scp
      let waits := (v.liveOf team).any fun x => match x.st with
        | .atBar (.cb m _) _ => m == n
        | _ => false
      if waits && b.since.isNone then v.setTeam (t.setCb n { b with since := some v.time.toNat }) else v)
    ((s.checkTeamBar team).checkCluBar team)

/-! ## The instructions -/

/-- Threads of the cohort arrive at a team or cluster barrier: a release, which their side logs hold back (R218, R400). -/
def barIssue (s : State) (b : BarWait) (k : State → Group → State) : Out :=
  onGroup s fun g =>
    if (g.inMask s.cur.lanes).any fun t => s.logPending g t.lane then notReady s
    else
      let s1 := s.mapLanes g.core g.slot s.cur.lanes fun t => { t with st := .atBar b s.time.toNat, bpSkip := false }
      .next (k s1 g)

/-- Start a clock that is not running. -/
def startClock (s : State) (o : Option Nat) : Option Nat := if o.isSome then o else some s.time.toNat

/-- R398: arrive at the team barrier. -/
def execBarTeam (s : State) : Out :=
  barIssue s .team fun u g =>
    (match u.team? g.team with
     | some t => u.setTeam { t with tbSince := startClock u t.tbSince }
     | none => u).checkTeamBar g.team

/-- R398: arrive at the cluster barrier. -/
def execBarClu (s : State) : Out :=
  barIssue s .clu fun u g =>
    (match u.team? g.team with
     | some t => u.setTeam { t with cbSince := startClock u t.cbSince }
     | none => u).checkCluBar g.team

/-- A named barrier instruction: the cohort waits for the rest of its group, and the whole group arrives (R262, R399).
The operand 0x3F is written `zero` (R397). -/
def namedIssue (s : State) (stay : Bool) (a : Sel) (n : Imm8) : Out :=
  onGroup s fun g =>
    if (g.inMask s.cur.lanes).any fun t => s.logPending g t.lane then notReady s
    else
      let s1 := s.mapLanes g.core g.slot s.cur.lanes fun t =>
        { t with st := .converging n.toNat stay (if a == 0x3F#6 then 0x3E#6 else a) }
      .next (s1.namedArrive g.core g.slot)

/-- R399: arrive and wait. -/
def execBarNamed (a : Sel) (n : Imm8) (s : State) : Out := namedIssue s true a n
/-- R399: arrive and go on. -/
def execBarArrive (a : Sel) (n : Imm8) (s : State) : Out := namedIssue s false a n

/-- R402: set the expected count; arrivals counted so far are discarded. Threads that wait go on waiting on the same phase, whose
clock runs on (R406). -/
def execCbInit (a : Sel) (n : Imm8) (s : State) : Out :=
  onGroup s fun g =>
    withS s g 0 a fun c =>
      let k := n.toNat
      let s1 := s.putGroup (movePast s g)
      .next (match s1.team? g.team with
        | none => s1
        | some t =>
          let b := t.cb k
          let unount (o : Owned) : Owned := if o.cb == k && o.stage == 1 then { o with stage := 0 } else o
          let f (h : Group) : Group := if h.team == g.team then { h with owned := h.owned.map unount } else h
          let s2 := { s1 with groups := s1.groups.map f }
          (s2.setTeam (t.setCb k { b with exp := c.setWidth 16, cnt := 0 })).mapTeam g.team (passCb k b.ph))

/-- R403: one arrival for the cohort. -/
def execCbArrive (n : Imm8) (s : State) : Out :=
  onGroup s fun g =>
    if (g.inMask s.cur.lanes).any fun t => s.logPending g t.lane then notReady s
    else .next ((s.putGroup (movePast s g)).cbArrive g.team n.toNat 2 none)

/-- R404: each thread goes on once the phase differs from its own; until then it is at the barrier. -/
def execCbWait (n : Imm8) (s : State) : Out :=
  onGroup s fun g =>
    let k := n.toNat
    match s.team? g.team with
    | none => .next (s.putGroup (movePast s g))
    | some t =>
      let b := t.cb k
      let go (u : Thread) : Bool := u.tph.getLsbD k != b.ph
      let run := g.inMask s.cur.lanes
      let m := laneMask ((run.filter go).map (·.lane))
      let g1 := g.mapThreads fun u =>
        if laneBit s.cur.lanes u.lane then
          (if go u then passCb k b.ph (s.past u) else { u with st := .atBar (.cb k b.ph) s.time.toNat, bpSkip := false })
        else u
      let s1 := s.putGroup (g1.freeOwned s.tick k m)
      let s2 := if m == 0#64 then s1 else s1.acquire g.core b.scp
      .next (if run.all go then s2 else s2.setTeam (t.setCb k { b with since := startClock s b.since }))

/-- R404: the barrier's state word, READY when every thread of the cohort would go on. -/
def execCbTest (d : Sel) (n : Imm8) (s : State) : Out :=
  onGroup s fun g =>
    let k := n.toNat
    let b := match s.team? g.team with
      | some t => t.cb k
      | none => { exp := 0, cnt := 0, ph := false, scp := 0, since := none }
    let ready := (g.inMask s.cur.lanes).all fun u => u.tph.getLsbD k != b.ph
    let w := at_ b.exp.toNat 32 + at_ b.cnt.toNat 16 + at_ b.ph.toNat 1 + ready.toNat
    .next (s.putGroup (movePast s (g.setScalar d { val := BitVec.ofNat 64 w, taint := false, poison := false })))

/-! ## Timeouts (R406) -/

/-- The barrier of a kind and number; kind 0 is the team's, 1 the cluster's, 2 a named, 3 a completion barrier. -/
def barOfKind (kind n : Nat) (b : BarWait) : Bool :=
  match kind, b with
  | 0, .team => true
  | 1, .clu => true
  | 2, .named m => m == n
  | 3, .cb m _ => m == n
  | _, _ => false

/-- When the clock of a barrier instance started. -/
def State.barClock (s : State) (t : Team) (kind n : Nat) : Option Nat :=
  match kind with
  | 0 => t.tbSince
  | 1 => ((s.teams.filter fun u => u.lq == t.lq && u.lseq == t.lseq && u.clid == t.clid).filterMap (·.cbSince)).min?
  | 2 => (t.nbs[n]?).bind (·.since)
  | _ => (t.cb n).since

/-- Threads of a group that wait at a barrier of a kind. -/
def Group.waiters (g : Group) (kind n : Nat) : List Thread :=
  g.threads.filter fun t => match t.st with
    | .atBar b _ => barOfKind kind n b
    | _ => false

/-- One group's waiting threads park, with a record for each `pc`; those that hold an ACC 7 record park on it (R300, R406). -/
def State.timeoutGroup (s : State) (g : Group) (kind n : Nat) : State :=
  let ws := g.waiters kind n
  (ws.map (·.pc)).eraseDups.foldl (fun u pc =>
    raiseMask u g (laneMask ((ws.filter fun t => t.pc == pc).map (·.lane)))
      { code := .barTimeout, acc := 10, addr := BitVec.ofNat 64 (at_ kind 8 + n), addr2 := 0 } []) s

/-- R406: a barrier's time is up: its waiting threads park and their arrivals are withdrawn. -/
def execBarTimeout (team kind n : Nat) (s : State) : Out :=
  match s.team? team with
  | none => notReady s
  | some t =>
    match s.barClock t kind n with
    | none => notReady s
    | some c =>
      if t.bto == 0 || s.time.toNat < c + 1000 * t.bto then notReady s
      else
        let gs := if kind == 1 then s.groups.filter t.sameCluster else s.groupsOf team
        let s1 := gs.foldl (fun u g => u.timeoutGroup g kind n) s
        let left := (gs.filter fun g => !(g.waiters kind n).isEmpty).length
        .next (match kind with
          | 0 => s1.setTeam { t with tbSince := none }
          | 1 => { s1 with teams := s1.teams.map fun u =>
                     if u.lq == t.lq && u.lseq == t.lseq && u.clid == t.clid then { u with cbSince := none } else u }
          | 2 =>
            let b := t.nbs.getD n { arr := 0, tgt := 0, since := none }
            s1.setTeam (t.setNb n { b with arr := b.arr - left, since := none })
          | _ => s1.setTeam (t.setCb n { t.cb n with since := none }))

end Sys2Proof.Machine
end

