-- ==== Sys2Proof/Machine/Crypto.lean ====
section
/-! DEFINITION. SHA-512, HMAC and ECDSA over P-521, which the ROM uses (R422 to R427). The specification names these algorithms
without writing them out; they are taken from FIPS 180-4, FIPS 198-1 and FIPS 186-5 (PRESUMED, log entry 16). -/

namespace Sys2Proof.Machine

/-! ## SHA-512 -/

/-- The first eighty primes. -/
def primes80 : List Nat := (List.range 410).filter fun n => 2 ≤ n && (List.range n).all fun d => d < 2 || n % d != 0

/-- The integer part of the `k`-th root of a number, whose bits below `2^b` are still to be found. -/
def rootFrom (k n : Nat) : Nat → Nat → Nat
  | 0, r => r
  | b + 1, r => rootFrom k n b (if (r + 2 ^ b) ^ k ≤ n then r + 2 ^ b else r)

/-- The first 64 bits of the fraction of the `k`-th root of a prime. -/
def rootFraction (k p : Nat) : DWord := BitVec.ofNat 64 (rootFrom k (p * 2 ^ (64 * k)) 69 0)

/-- The initial hash value: fractions of the square roots of the first eight primes. -/
def shaInit : List DWord := (primes80.take 8).map (rootFraction 2)

/-- The round constants: fractions of the cube roots of the first eighty primes. -/
def shaK : List DWord := primes80.map (rootFraction 3)

/-- Rotations of a word to the right, added bit by bit. -/
def turned (x : DWord) (rs : List Nat) : DWord := rs.foldl (fun y r => y ^^^ x.rotateRight r) 0#64

/-- Big-endian number of bytes. -/
def beNat (bs : List Byte) : Nat := bs.foldl (fun n b => n * 256 + b.toNat) 0

/-- The padded message. -/
def shaPad (bs : List Byte) : List Byte :=
  bs ++ 0x80#8 :: List.replicate ((111 + 128 - bs.length % 128) % 128) 0#8 ++ (toBytes (8 * bs.length) 16).reverse

/-- The message schedule: `n` words more after those of `ws`, which has its newest word first. -/
def shaExtend (ws : List DWord) : Nat → List DWord
  | 0 => ws
  | n + 1 =>
    let back (i : Nat) : DWord := ws.getD (i - 1) 0
    let late := turned (back 2) [19, 61] ^^^ (back 2 >>> 6)
    let early := turned (back 15) [1, 8] ^^^ (back 15 >>> 7)
    shaExtend ((back 16 + early + back 7 + late) :: ws) n

/-- One round on the eight working variables, with the schedule's word and the constant already added up. -/
def shaRound (v : List DWord) (x : DWord) : List DWord :=
  let at_ (i : Nat) : DWord := v.getD i 0
  let choice := at_ 6 ^^^ (at_ 4 &&& (at_ 5 ^^^ at_ 6))
  let most := (at_ 0 &&& (at_ 1 ||| at_ 2)) ||| (at_ 1 &&& at_ 2)
  let step := at_ 7 + turned (at_ 4) [14, 18, 41] + choice + x
  [step + turned (at_ 0) [28, 34, 39] + most, at_ 0, at_ 1, at_ 2, at_ 3 + step, at_ 4, at_ 5, at_ 6]

/-- One block of 128 bytes. -/
def shaBlock (h : List DWord) (bs : List Byte) : List DWord :=
  let newest := (List.range 16).map fun i => BitVec.ofNat 64 (beNat ((bs.drop (120 - 8 * i)).take 8))
  let end_ := ((shaExtend newest 64).reverse.zip shaK).foldl (fun v p => shaRound v (p.1 + p.2)) h
  (h.zip end_).map fun p => p.1 + p.2

/-- The blocks one after another. -/
def shaBlocks (h : List DWord) (bs : List Byte) : Nat → List DWord
  | 0 => h
  | n + 1 => shaBlocks (shaBlock h (bs.take 128)) (bs.drop 128) n

/-- SHA-512 of a string of bytes: 64 bytes. -/
def sha512 (bs : List Byte) : List Byte :=
  let p := shaPad bs
  (shaBlocks shaInit p (p.length / 128)).flatMap fun w => (toBytes w.toNat 8).reverse

/-- HMAC with SHA-512. -/
def hmac512 (key msg : List Byte) : List Byte :=
  let k0 := if 128 < key.length then sha512 key else key
  let k := k0 ++ List.replicate (128 - k0.length) 0#8
  sha512 (k.map (· ^^^ 0x5C#8) ++ sha512 (k.map (· ^^^ 0x36#8) ++ msg))

/-- The blocks of HKDF's expansion, of which `prev` is the last. -/
def hkdfBlocks (prk info : List Byte) : Nat → Nat → List Byte → List Byte
  | 0, _, _ => []
  | n + 1, i, prev =>
    let t := hmac512 prk (prev ++ info ++ [BitVec.ofNat 8 i])
    t ++ hkdfBlocks prk info n (i + 1) t

/-- HKDF-SHA-512: extraction with a salt, and `n` blocks of expansion with `info`. -/
def hkdf512 (salt ikm info : List Byte) (n : Nat) : List Byte := hkdfBlocks (hmac512 salt ikm) info n 1 []

/-! ## ECDSA over P-521 -/

/-- The field's prime. -/
def p521 : Nat := 2 ^ 521 - 1

/-- The curve's coefficient b; its a is −3. -/
def p521b : Nat :=
  0x51953eb9618e1c9a1f929a21a0b68540eea2da725b99b315f3b8b489918ef109e156193951ec7e937b1652c0bd3bb1bf073573df883d2c34f1ef451fd46b503f00

/-- The base point. -/
def p521g : Nat × Nat :=
  (0xc6858e06b70404e9cd9e3ecb662395b4429c648139053fb521f828af606b4d3dbaa14b5e77efe75928fe1dc127a2ffa8de3348b3c1856a429bf97e7e31c2e5bd66,
   0x11839296a789a3bc0045c8a5fb42c7d1bd998f54449579b446817afbd17273e662c97ee72995ef42640c550b9013fad0761353c7086a272c24088be94769fd16650)

/-- The base point's order. -/
def p521n : Nat :=
  0x1fffffffffffffffffffffffffffffffffffffffffffffffffffffffffffffffffa51868783bf2f966b7fcc0148f709a5d03bb5c9b8899c47aebb6fb71e91386409

/-- `a` to the power whose low `k` bits are those of `e`, modulo `m`. -/
def powMod (m a e : Nat) : Nat → Nat
  | 0 => 1 % m
  | k + 1 =>
    let r := powMod m (a * a % m) (e / 2) k
    if e % 2 == 1 then a * r % m else r

/-- Inverse modulo a prime. -/
def invMod (m a : Nat) : Nat := powMod m (a % m) (m - 2) 521

/-- Sum of two points; `none` is the point at infinity. -/
def ecAdd (a b : Option (Nat × Nat)) : Option (Nat × Nat) :=
  match a, b with
  | none, q => q
  | q, none => q
  | some (x1, y1), some (x2, y2) =>
    let p := p521
    if x1 == x2 && (y1 + y2) % p == 0 then none
    else
      let l := if x1 == x2 then (3 * x1 * x1 + (p - 3)) * invMod p (2 * y1) % p
        else (y2 + (p - y1)) * invMod p (x2 + (p - x1)) % p
      let x := (l * l + (p - x1) + (p - x2)) % p
      some (x, (l * (x1 + (p - x)) + (p - y1)) % p)

/-- Multiple of a point by the low `k` bits of a number. -/
def ecMul (e : Nat) (a : Option (Nat × Nat)) : Nat → Option (Nat × Nat)
  | 0 => none
  | k + 1 =>
    let r := ecMul (e / 2) (ecAdd a a) k
    if e % 2 == 1 then ecAdd a r else r

/-- Is a pair of numbers a point of the curve? -/
def onCurve (q : Nat × Nat) : Bool :=
  q.1 < p521 && q.2 < p521 && q.2 * q.2 % p521 == (q.1 * q.1 * q.1 + (p521 - 3) * q.1 + p521b) % p521

/-- Does a signature (r, s) of a digest verify under a public key? -/
def ecdsaOk (q : Nat × Nat) (digest : List Byte) (r s : Nat) : Bool :=
  let n := p521n
  if !onCurve q || r == 0 || s == 0 || n ≤ r || n ≤ s then false
  else
    let w := invMod n s
    match ecAdd (ecMul (beNat digest * w % n) (some p521g) 521) (ecMul (r * w % n) (some q) 521) with
    | none => false
    | some (x, _) => x % n == r

/-- The public key of a private key. -/
def publicKey (d : Nat) : Nat × Nat := (ecMul d (some p521g) 521).getD (0, 0)

/-- The signature of a digest under a private key with a nonce. -/
def ecdsaSign (d : Nat) (digest : List Byte) (nonce : Nat) : Nat × Nat :=
  let n := p521n
  let r := (publicKey nonce).1 % n
  (r, invMod n nonce * (beNat digest + r * d) % n)

/-- A pair of numbers as a record holds it: 66 bytes each, little-endian (R4, R422). -/
def pairBytes (q : Nat × Nat) : List Byte := toBytes q.1 66 ++ toBytes q.2 66

/-- The numbers of such a pair. -/
def pairOf (bs : List Byte) : Nat × Nat := (leNat (bs.take 66), leNat ((bs.drop 66).take 66))

end Sys2Proof.Machine
end

