-- ==== Sys2Proof/Decode.lean ====
section
/-! DEFINITION. From words to instructions and back (R49 to R83). The decoder is total: what is not an instruction is
rejected by name, and every rejection is the ILL of R83. The encoder writes the words of a well-formed instruction. -/

namespace Sys2Proof

/-! ## Fields of a word -/

/-- Bits `lo` to `lo + n - 1` of a word. -/
def fld (w : Word) (lo n : Nat) : BitVec n := w.extractLsb' lo n

/-- The R format (R53). -/
def packR (op d a b f : BitVec 6) : Word := 0b00#2 ++ op ++ d ++ a ++ b ++ f

/-- The I format (R54); `l` is the length field. -/
def packI (l : BitVec 2) (op d a : BitVec 6) (f : BitVec 4) (i : Imm8) : Word := l ++ op ++ d ++ a ++ f ++ i

/-- The B format (R55). -/
def packB (l : BitVec 2) (op c : BitVec 6) (k : BitVec 4) (o : BitVec 14) : Word := l ++ op ++ c ++ k ++ o

/-- The M format (R56). -/
def packM (l : BitVec 2) (op d a : BitVec 6) (s o : BitVec 3) (q : Scope) (t : BitVec 2) : Word :=
  l ++ op ++ d ++ a ++ s ++ o ++ q ++ t

/-- The atomic format (R57). -/
def packAtomBits (d a : Sel) (op : BitVec 4) (r : BitVec 2) (nr : Bool) (q : Scope) (w : Bool) : Word :=
  0b00#2 ++ 0x14#6 ++ d ++ a ++ op ++ r ++ BitVec.ofBool nr ++ q ++ BitVec.ofBool w

/-- The MEMC format (R58). -/
def packMemc (l : BitVec 2) (d a m : BitVec 6) (q : Scope) : Word := l ++ 0x15#6 ++ d ++ a ++ m ++ q ++ 0b00#2

/-- The CSR format (R59). -/
def packCsr (d : Sel) (c : BitVec 12) (f : BitVec 6) : Word := 0b00#2 ++ 0x0C#6 ++ d ++ c ++ f

/-- The prefix format (R60). -/
def packPfx (l : BitVec 2) (p : Pfx) : Word :=
  l ++ 0x3F#6 ++ p.msk ++ BitVec.ofBool p.inv ++ BitVec.ofBool p.z ++ p.rm ++ p.c ++ p.sat ++ 0x00#8

/-! ## Codes of the enumerated fields -/

/-- R70. -/
def FTy.code : FTy → BitVec 2
  | .f32 => 0 | .f64 => 1 | .f16x2 => 2 | .bf16x2 => 3

/-- R70. -/
def FTy.ofCode (c : BitVec 2) : FTy :=
  match c.toNat with
  | 0 => .f32 | 1 => .f64 | 2 => .f16x2 | _ => .bf16x2

/-- R73. -/
def ITy.code : ITy → BitVec 2
  | .i32 => 0 | .n32 => 1 | .i64 => 2 | .n64 => 3

/-- R73. -/
def ITy.ofCode (c : BitVec 2) : ITy :=
  match c.toNat with
  | 0 => .i32 | 1 => .n32 | 2 => .i64 | _ => .n64

/-- R73. -/
def Cond.code : Cond → BitVec 3
  | .eq => 0 | .ne => 1 | .lt => 2 | .le => 3 | .gt => 4 | .ge => 5 | .un => 6

/-- R73; 7 is reserved. -/
def Cond.ofCode (c : BitVec 3) : Option Cond :=
  match c.toNat with
  | 0 => some .eq | 1 => some .ne | 2 => some .lt | 3 => some .le | 4 => some .gt | 5 => some .ge | 6 => some .un
  | _ => none

/-- R74. -/
def RedOp.code : RedOp → BitVec 4
  | .addI32 => 0 | .addI64 => 1 | .minI32 => 2 | .minN32 => 3 | .maxI32 => 4 | .maxN32 => 5 | .andB32 => 6 | .orB32 => 7
  | .xorB32 => 8 | .faddF32 => 9 | .faddF64 => 10 | .fminF32 => 11 | .fmaxF32 => 12 | .fminF64 => 13 | .fmaxF64 => 14

/-- R74; 15 is reserved. -/
def RedOp.ofCode (c : BitVec 4) : Option RedOp :=
  match c.toNat with
  | 0 => some .addI32 | 1 => some .addI64 | 2 => some .minI32 | 3 => some .minN32 | 4 => some .maxI32
  | 5 => some .maxN32 | 6 => some .andB32 | 7 => some .orB32 | 8 => some .xorB32 | 9 => some .faddF32
  | 10 => some .faddF64 | 11 => some .fminF32 | 12 => some .fmaxF32 | 13 => some .fminF64 | 14 => some .fmaxF64
  | _ => none

/-- R71. -/
def CvtTy.code : CvtTy → BitVec 4
  | .f64 => 0 | .f32 => 1 | .f16 => 2 | .bf16 => 3 | .e4m3 => 4 | .e5m2 => 5 | .e2m1 => 6 | .e8m0 => 7
  | .i32 => 8 | .n32 => 9 | .i64 => 10 | .n64 => 11 | .i16 => 12 | .n16 => 13 | .i8 => 14 | .n8 => 15

/-- R71. -/
def CvtTy.ofCode (c : BitVec 4) : CvtTy :=
  match c.toNat with
  | 0 => .f64 | 1 => .f32 | 2 => .f16 | 3 => .bf16 | 4 => .e4m3 | 5 => .e5m2 | 6 => .e2m1 | 7 => .e8m0
  | 8 => .i32 | 9 => .n32 | 10 => .i64 | 11 => .n64 | 12 => .i16 | 13 => .n16 | 14 => .i8 | _ => .n8

/-- R71, R151. -/
def FmtTy.code : FmtTy → BitVec 2
  | .f64 => 0 | .f32 => 1 | .f16 => 2 | .bf16 => 3

/-- R71, R151: only the four float formats round in place. -/
def FmtTy.ofCode (c : BitVec 2) : FmtTy :=
  match c.toNat with
  | 0 => .f64 | 1 => .f32 | 2 => .f16 | _ => .bf16

/-- R71: the low two bits of the element's type code. -/
def MxElem.code : MxElem → BitVec 2
  | .e4m3 => 0 | .e5m2 => 1 | .e2m1 => 2

/-- R71, R153. -/
def MxElem.ofCode (c : BitVec 2) : Option MxElem :=
  match c.toNat with
  | 0 => some .e4m3 | 1 => some .e5m2 | 2 => some .e2m1 | _ => none

/-- R56. -/
def MemSize.code : MemSize → BitVec 3
  | .b => 0 | .h => 1 | .w => 2 | .d => 3 | .q => 4 | .bi => 5 | .hi => 6

/-- R56; 7 is reserved. -/
def MemSize.ofCode (c : BitVec 3) : Option MemSize :=
  match c.toNat with
  | 0 => some .b | 1 => some .h | 2 => some .w | 3 => some .d | 4 => some .q | 5 => some .bi | 6 => some .hi | _ => none

/-- R56. -/
def MemOrd.code : MemOrd → BitVec 3
  | .plain => 0 | .acq => 1 | .rel => 2 | .csm => 3 | .acqrel => 4 | .rlx => 5 | .nt => 6

/-- R56; 7 is reserved. -/
def MemOrd.ofCode (c : BitVec 3) : Option MemOrd :=
  match c.toNat with
  | 0 => some .plain | 1 => some .acq | 2 => some .rel | 3 => some .csm | 4 => some .acqrel | 5 => some .rlx
  | 6 => some .nt | _ => none

/-- R56. -/
def MemAt.code : MemAt → BitVec 2
  | .dflt => 0 | .a8 => 1 | .a16 => 2

/-- R56; 3 is reserved. -/
def MemAt.ofCode (c : BitVec 2) : Option MemAt :=
  match c.toNat with
  | 0 => some .dflt | 1 => some .a8 | 2 => some .a16 | _ => none

/-- R57. -/
def AtomOrd.code : AtomOrd → BitVec 2
  | .rlx => 0 | .acq => 1 | .rel => 2 | .acqrel => 3

/-- R57. -/
def AtomOrd.ofCode (c : BitVec 2) : AtomOrd :=
  match c.toNat with
  | 0 => .rlx | 1 => .acq | 2 => .rel | _ => .acqrel

/-- R80. -/
def MrOp.code : MrOp → BitVec 4
  | .add => 0 | .sub => 1 | .minI => 2 | .maxI => 3 | .minN => 4 | .maxN => 5 | .and => 6 | .or => 7 | .xor => 8
  | .addF => 13

/-- R80, R225: the operations a reduction has. -/
def MrOp.ofCode (c : BitVec 4) : Option MrOp :=
  match c.toNat with
  | 0 => some .add | 1 => some .sub | 2 => some .minI | 3 => some .maxI | 4 => some .minN | 5 => some .maxN
  | 6 => some .and | 7 => some .or | 8 => some .xor | 13 => some .addF | _ => none

/-- R82: the low three bits of the minor. -/
def BSize.code : BSize → BitVec 3
  | .b => 0 | .h => 1 | .w => 2 | .d => 3 | .q => 4

/-- R82. -/
def BSize.ofCode (c : BitVec 3) : Option BSize :=
  match c.toNat with
  | 0 => some .b | 1 => some .h | 2 => some .w | 3 => some .d | 4 => some .q | _ => none

/-- R106. -/
def CmdQ.code : CmdQ → Sel
  | .qm => 0 | .qc => 1 | .qn => 2

/-- R106. -/
def CmdQ.ofCode (c : Sel) : Option CmdQ :=
  match c.toNat with
  | 0 => some .qm | 1 => some .qc | 2 => some .qn | _ => none

/-- R106. -/
def RecQ.code : RecQ → Sel
  | .qe => 3 | .qf => 4

/-- R106. -/
def RecQ.ofCode (c : Sel) : Option RecQ :=
  match c.toNat with
  | 3 => some .qe | 4 => some .qf | _ => none

/-- R77. -/
def CsrFn.code : CsrFn → BitVec 6
  | .write => 1 | .set => 2 | .clear => 3

/-- R77. -/
def CsrFn.ofCode (c : BitVec 6) : Option CsrFn :=
  match c.toNat with
  | 1 => some .write | 2 => some .set | 3 => some .clear | _ => none

/-! ## Encoding -/

/-- Minor of a form whose bit 5 selects 64-bit pairs (R68). -/
def minorW (w : Bool) (f : BitVec 6) : BitVec 6 := if w then f ||| 0x20#6 else f

/-- Minor of VFP and VSFU: type, then operation (R70). -/
def minorF (t : FTy) (f : BitVec 4) : BitVec 6 := t.code ++ f

/-- The prefix word, if any, before a base without (`false`) or with (`true`) two words after it (R49). -/
def pfxWords (p : Option Pfx) (long : Bool) : List Word :=
  match p with
  | none => []
  | some q => [packPfx (if long then 0b11#2 else 0b01#2) q]

/-- The literal words, low word first (R49). -/
def litWords (lit : Option Imm) : List Word :=
  match lit with
  | none => []
  | some k => [k.extractLsb' 0 32, k.extractLsb' 32 32]

/-- Length field of a base word (R49). -/
def litL (lit : Option Imm) : BitVec 2 := if lit.isSome then 0b10#2 else 0b00#2

/-- An R-format instruction. -/
def encR (p : Option Pfx) (op d a b f : BitVec 6) : List Word := pfxWords p false ++ [packR op d a b f]

/-- An I-format instruction. -/
def encI (p : Option Pfx) (lit : Option Imm) (op d a : BitVec 6) (f : BitVec 4) (i : Imm8) : List Word :=
  pfxWords p lit.isSome ++ packI (litL lit) op d a f i :: litWords lit

/-- A B-format instruction. -/
def encB (lit : Option Imm) (op c : BitVec 6) (k : BitVec 4) (o : BitVec 14) : List Word :=
  packB (litL lit) op c k o :: litWords lit

/-- A load or store. -/
def encM (p : Option Pfx) (lit : Option Imm) (op d a : BitVec 6) (s : MemSize) (o : MemOrd) (q : Scope) (t : MemAt) :
    List Word :=
  pfxWords p lit.isSome ++ packM (litL lit) op d a s.code o.code q t.code :: litWords lit

/-- An indexed load or store: OFF32, then DIR, SC and IX (R63). -/
def encX (p : Option Pfx) (dir : Bool) (d a : Sel) (s : MemSize) (o : MemOrd) (q : Scope) (t : MemAt)
    (off : Word) (k : BitVec 3) (x : Sel) : List Word :=
  pfxWords p true ++ [packM 0b10#2 0x32#6 d a s.code o.code q t.code, off,
    BitVec.ofBool dir ++ 0#22 ++ k ++ x]

/-- An atomic or memory reduction. -/
def packAtom (d a : Sel) (op : BitVec 4) (r : AtomOrd) (nr : Bool) (q : Scope) (w : Bool) : Word :=
  packAtomBits d a op r.code nr q w

/-- A MEMC instruction. -/
def encMemc (lit : Option Imm) (d a m : BitVec 6) (q : Scope) : List Word :=
  packMemc (litL lit) d a m q :: litWords lit

/-- The three words of an extended command (R63). -/
def ext96 (cmd : BitVec 96) : List Word := [cmd.extractLsb' 0 32, cmd.extractLsb' 32 32, cmd.extractLsb' 64 32]

/-! ## Decoding -/

/-- Why words are not an instruction. Each is the ILL of R83. -/
inductive Reject where
  /-- Fewer words than the length field of the first names. -/
  | short
  /-- The length fields fit no layout of R49 and R50. -/
  | layout
  /-- A reserved major, minor, code or field, or a prefix or literal where the class takes none. -/
  | encoding
  /-- A selector, prefix field or other operand outside its legal values. -/
  | operand
  deriving DecidableEq, Repr

/-- What the decoder answers. -/
inductive Decoded where
  | ok (i : Instr)
  | bad (r : Reject)
  deriving DecidableEq, Repr

/-- How many words an instruction has, from its first word (R49). -/
def wordsNeeded (first : Word) : Nat := (fld first 30 2).toNat + 1

/-- An instruction's words taken apart (R50): its prefix, its base word and the two words that follow it. -/
structure Parts where
  p    : Option Pfx
  base : Word
  tail : Option (Word × Word)
  deriving DecidableEq, Repr

/-- The fields of a prefix word; bits 7..0 must be 0 (R60). -/
def readPfx (w : Word) : Option Pfx :=
  if fld w 0 8 == 0#8 then
    some { msk := fld w 21 3, inv := fld w 20 1 == 1#1, z := fld w 19 1 == 1#1, rm := fld w 16 3, c := fld w 10 6,
           sat := fld w 8 2 }
  else none

/-- A base word and the words after it: two when L is 0b10, none when it is 0b00 (R50). -/
def splitBase (p : Option Pfx) : List Word → Option Parts
  | [] => none
  | w :: rest =>
    match (fld w 30 2).toNat, rest with
    | 0, [] => some ⟨p, w, none⟩
    | 2, [x, y] => some ⟨p, w, some (x, y)⟩
    | _, _ => none

/-- Steps 1 and 3 of R50. -/
def splitWords : List Word → Option Parts
  | [] => none
  | w :: rest =>
    if fld w 24 6 == 0x3F#6 then
      match readPfx w with
      | none => none
      | some p =>
        match (fld w 30 2).toNat, rest with
        | 1, [x] => splitBase (some p) [x]
        | 3, [x, y, z] => splitBase (some p) [x, y, z]
        | _, _ => none
    else splitBase none (w :: rest)

/-- An instruction under a condition on its fields. -/
def req (c : Bool) (i : Instr) : Option Instr := if c then some i else none

/-- XL (R74). -/
def decodeXl (p : Option Pfx) (w : Word) (d a b : Sel) : Option Instr :=
  match (fld w 3 3).toNat with
  | 0 => some (.xlPick d a b (fld w 0 3) p)
  | 1 => some (.xlSwap d a b (fld w 0 3) p)
  | 2 => some (.xlFwd d a b (fld w 0 3) p)
  | 3 => some (.xlBack d a b (fld w 0 3) p)
  | _ =>
    if p.isNone && b == 0#6 then
      (RedOp.ofCode (fld w 0 4)).map fun o => if fld w 4 1 == 0#1 then .red d a o else .scan d a o
    else none

/-- MASK (R75). -/
def decodeMask (d a b f : Sel) : Option Instr :=
  match f.toNat with
  | 0x00 => some (.mand d a b)
  | 0x01 => some (.mor d a b)
  | 0x02 => some (.mxor d a b)
  | 0x03 => req (b == 0#6) (.mnot d a)
  | 0x04 => req (b == 0#6) (.mmov d a)
  | 0x05 => req (b == 0#6) (.mpop d a)
  | 0x06 => req (b == 0#6) (.mfirst d a)
  | 0x07 => req (b == 0#6) (.mset d a)
  | 0x08 => req (b == 0#6) (.mget d a)
  | 0x10 => req (b == 0#6) (.voteAny d a)
  | 0x11 => req (b == 0#6) (.voteAll d a)
  | 0x12 => req (b == 0#6) (.ballot d a)
  | 0x13 => req (b == 0#6) (.matchLanes d a)
  | 0x14 => req (b == 0#6) (.popm d a)
  | _ => none

/-! Lean's compiled code cannot build a value of a constructor past the 245th that has arguments, and the opcode table
has more rows than that; so the functions that build instructions are marked as having no compiled code. The kernel
evaluates them like any other. -/

noncomputable section

/-- The unary group of VINT R (R68). -/
def decodeUnary (p : Option Pfx) (d a b : Sel) : Option Instr :=
  match b.toNat with
  | 0x00 => some (.abs d a false p)
  | 0x20 => some (.abs d a true p)
  | 0x01 => some (.neg d a false p)
  | 0x21 => some (.neg d a true p)
  | 0x02 => some (.clz d a false p)
  | 0x22 => some (.clz d a true p)
  | 0x03 => some (.ctz d a false p)
  | 0x23 => some (.ctz d a true p)
  | 0x04 => some (.popc d a false p)
  | 0x24 => some (.popc d a true p)
  | 0x05 => some (.brev d a false p)
  | 0x25 => some (.brev d a true p)
  | 0x06 => some (.mov d a false p)
  | 0x26 => some (.mov d a true p)
  | 0x07 => some (.extI d a p)
  | 0x08 => some (.extN d a p)
  | _ => none

/-- VINT R (R68). -/
def decodeVintR (p : Option Pfx) (d a b f : Sel) : Option Instr :=
  match f.toNat with
  | 0x1E => decodeUnary p d a b
  | 0x00 => some (.add d a b false p)
  | 0x20 => some (.add d a b true p)
  | 0x01 => some (.sub d a b false p)
  | 0x21 => some (.sub d a b true p)
  | 0x02 => some (.mul d a b false p)
  | 0x22 => some (.mul d a b true p)
  | 0x03 => some (.mulhi d a b false p)
  | 0x23 => some (.mulhi d a b true p)
  | 0x04 => some (.mulhn d a b false p)
  | 0x24 => some (.mulhn d a b true p)
  | 0x05 => some (.divI d a b false p)
  | 0x25 => some (.divI d a b true p)
  | 0x06 => some (.divN d a b false p)
  | 0x26 => some (.divN d a b true p)
  | 0x07 => some (.remI d a b false p)
  | 0x27 => some (.remI d a b true p)
  | 0x08 => some (.remN d a b false p)
  | 0x28 => some (.remN d a b true p)
  | 0x09 => some (.minI d a b false p)
  | 0x29 => some (.minI d a b true p)
  | 0x0A => some (.minN d a b false p)
  | 0x2A => some (.minN d a b true p)
  | 0x0B => some (.maxI d a b false p)
  | 0x2B => some (.maxI d a b true p)
  | 0x0C => some (.maxN d a b false p)
  | 0x2C => some (.maxN d a b true p)
  | 0x0D => some (.and d a b false p)
  | 0x2D => some (.and d a b true p)
  | 0x0E => some (.or d a b false p)
  | 0x2E => some (.or d a b true p)
  | 0x0F => some (.xor d a b false p)
  | 0x2F => some (.xor d a b true p)
  | 0x10 => some (.andn d a b false p)
  | 0x30 => some (.andn d a b true p)
  | 0x11 => some (.orn d a b false p)
  | 0x31 => some (.orn d a b true p)
  | 0x12 => some (.shl d a b false p)
  | 0x32 => some (.shl d a b true p)
  | 0x13 => some (.shr d a b false p)
  | 0x33 => some (.shr d a b true p)
  | 0x14 => some (.sra d a b false p)
  | 0x34 => some (.sra d a b true p)
  | 0x15 => some (.rol d a b false p)
  | 0x35 => some (.rol d a b true p)
  | 0x16 => some (.addc d a b false p)
  | 0x36 => some (.addc d a b true p)
  | 0x17 => some (.subc d a b false p)
  | 0x37 => some (.subc d a b true p)
  | 0x18 => some (.mad d a b false p)
  | 0x38 => some (.mad d a b true p)
  | 0x19 => some (.bfxI d a b p)
  | 0x1A => some (.bfxN d a b p)
  | 0x1B => some (.bfi d a b p)
  | 0x1C => some (.sel d a b p)
  | 0x39 => some (.selB64 d a b p)
  | 0x1D => some (.bsel d a b p)
  | 0x1F => some (.lea d a b p)
  | 0x3A => some (.dot4Ii d a b p)
  | 0x3B => some (.dot4Nn d a b p)
  | 0x3C => some (.dot4In d a b p)
  | 0x3D => some (.dot8Ii d a b p)
  | 0x3E => some (.dot8Nn d a b p)
  | 0x3F => some (.dot8In d a b p)
  | _ => none

/-- VINT I (R69). -/
def decodeVintI (p : Option Pfx) (lit : Option Imm) (d a : Sel) (f : BitVec 4) (i : Imm8) : Option Instr :=
  match f.toNat with
  | 0x0 => some (.addImm d a i lit p)
  | 0x1 => some (.add64Imm d a i lit p)
  | 0x2 => some (.mulImm d a i lit p)
  | 0x3 => some (.andImm d a i lit p)
  | 0x4 => some (.orImm d a i lit p)
  | 0x5 => some (.xorImm d a i lit p)
  | 0x6 => some (.shlImm d a i lit p)
  | 0x7 => some (.shrImm d a i lit p)
  | 0x8 => some (.sraImm d a i lit p)
  | 0x9 => some (.minIImm d a i lit p)
  | 0xA => some (.maxIImm d a i lit p)
  | 0xB => if a == 0x3E#6 then (match lit with | none => some (.moviB32 d i p) | some k => req (i == 0#8) (.litB32 d k p)) else none
  | 0xC => if a == 0x3E#6 then (match lit with | none => some (.moviB64 d i p) | some k => req (i == 0#8) (.litB64 d k p)) else none
  | 0xD => some (.leaImm d a i lit p)
  | _ => none

/-- VFP (R70). -/
def decodeVfp (p : Option Pfx) (w : Word) (d a b : Sel) : Option Instr :=
  match (fld w 0 4).toNat with
  | 0x00 => some (.fadd d a b (FTy.ofCode (fld w 4 2)) p)
  | 0x01 => some (.fsub d a b (FTy.ofCode (fld w 4 2)) p)
  | 0x02 => some (.fmul d a b (FTy.ofCode (fld w 4 2)) p)
  | 0x03 => some (.fma d a b (FTy.ofCode (fld w 4 2)) p)
  | 0x04 => some (.fnma d a b (FTy.ofCode (fld w 4 2)) p)
  | 0x05 => some (.fmin d a b (FTy.ofCode (fld w 4 2)) p)
  | 0x06 => some (.fmax d a b (FTy.ofCode (fld w 4 2)) p)
  | 0x07 => some (.fminm d a b (FTy.ofCode (fld w 4 2)) p)
  | 0x08 => some (.fmaxm d a b (FTy.ofCode (fld w 4 2)) p)
  | 0x09 => some (.fdiv d a b (FTy.ofCode (fld w 4 2)) p)
  | 0x0A => req (b == 0#6) (.fsqrt d a (FTy.ofCode (fld w 4 2)) p)
  | 0x0B => req (b == 0#6) (.fabs d a (FTy.ofCode (fld w 4 2)) p)
  | 0x0C => req (b == 0#6) (.fneg d a (FTy.ofCode (fld w 4 2)) p)
  | 0x0D => some (.fsgn d a b (FTy.ofCode (fld w 4 2)) p)
  | 0x0E => req (b == 0#6) (.fclass d a (FTy.ofCode (fld w 4 2)) p)
  | 0x0F => some (.fscale d a b (FTy.ofCode (fld w 4 2)) p)
  | _ => none

/-- VSFU (R70). -/
def decodeVsfu (p : Option Pfx) (w : Word) (d a b : Sel) : Option Instr :=
  match (fld w 0 4).toNat with
  | 0x00 => req (b == 0#6) (.frcp d a (FTy.ofCode (fld w 4 2)) p)
  | 0x01 => req (b == 0#6) (.frsq d a (FTy.ofCode (fld w 4 2)) p)
  | 0x02 => req (b == 0#6) (.fex2 d a (FTy.ofCode (fld w 4 2)) p)
  | 0x03 => req (b == 0#6) (.flg2 d a (FTy.ofCode (fld w 4 2)) p)
  | 0x04 => req (b == 0#6) (.fsin d a (FTy.ofCode (fld w 4 2)) p)
  | 0x05 => req (b == 0#6) (.fcos d a (FTy.ofCode (fld w 4 2)) p)
  | 0x06 => req (b == 0#6) (.ftanh d a (FTy.ofCode (fld w 4 2)) p)
  | _ => none

/-- VCVT (R71). -/
def decodeVcvt (p : Option Pfx) (w : Word) (d a b : Sel) : Option Instr :=
  match (fld w 4 2).toNat with
  | 0 => req (fld w 11 1 == 0#1)
      (.fcvt d a (fld w 10 1 == 1#1) (CvtTy.ofCode (fld w 6 4)) (CvtTy.ofCode (fld w 0 4)) p)
  | 1 => req (b == 0#6 && fld w 2 2 == 0#2) (.fround d a (FmtTy.ofCode (fld w 0 2)) p)
  | 2 =>
    match (fld w 0 4).toNat with
    | 0 => req (b == 3#6) (.fsplitBf16 d a p)
    | 1 => if fld w 8 4 == 1#4 then (MxElem.ofCode (fld w 6 2)).map (fun e => .fpack d a e p) else none
    | 2 => if fld w 8 4 == 1#4 then (MxElem.ofCode (fld w 6 2)).map (fun e => .funpk d a e p) else none
    | _ => none
  | _ => none

/-- VCPX (R72). -/
def decodeVcpx (p : Option Pfx) (d a b f : Sel) : Option Instr :=
  match f.toNat with
  | 0x00 => some (.caddCi16 d a b p)
  | 0x01 => some (.caddCi32 d a b p)
  | 0x02 => some (.cmulCi16 d a b p)
  | 0x03 => some (.cmacCi16 d a b p)
  | 0x04 => some (.cmacCi8 d a b p)
  | 0x05 => req (b == 0#6) (.cconjCi16 d a p)
  | 0x06 => req (b == 0#6) (.cconjCi32 d a p)
  | 0x07 => req (b == 0#6) (.cmag2Ci16 d a p)
  | 0x08 => req (b == 0#6) (.cunpkCi8 d a p)
  | 0x09 => req (b == 0#6) (.cunpkCi4 d a p)
  | _ => none

/-- VCMP (R73). -/
def decodeVcmp (p : Option Pfx) (w : Word) (d a b : Sel) : Option Instr :=
  (Cond.ofCode (fld w 0 3)).map fun c =>
    if fld w 5 1 == 0#1 then .cmp d a b (ITy.ofCode (fld w 3 2)) c p else .fcmp d a b (FTy.ofCode (fld w 3 2)) c p

/-- SINT R (R76). -/
def decodeSintR (d a b f : Sel) : Option Instr :=
  match f.toNat with
  | 0x00 => some (.sadd d a b)
  | 0x01 => some (.ssub d a b)
  | 0x02 => some (.smul d a b)
  | 0x03 => some (.smulhi d a b)
  | 0x04 => some (.sdiv d a b)
  | 0x05 => some (.sdivN d a b)
  | 0x06 => some (.srem d a b)
  | 0x07 => some (.sremN d a b)
  | 0x08 => some (.smin d a b)
  | 0x09 => some (.sminN d a b)
  | 0x0A => some (.smax d a b)
  | 0x0B => some (.smaxN d a b)
  | 0x0C => some (.sand d a b)
  | 0x0D => some (.sor d a b)
  | 0x0E => some (.sxor d a b)
  | 0x0F => some (.sshl d a b)
  | 0x10 => some (.sshr d a b)
  | 0x11 => some (.ssra d a b)
  | 0x12 => req (b == 0#6) (.sclz d a)
  | 0x13 => req (b == 0#6) (.spopc d a)
  | 0x14 => req (b == 0#6) (.smov d a)
  | 0x15 => some (.ssel d a b)
  | 0x18 => some (.scmpEq d a b)
  | 0x19 => some (.scmpNe d a b)
  | 0x1A => some (.scmpLt d a b)
  | 0x1B => some (.scmpLe d a b)
  | 0x1C => some (.scmpLtN d a b)
  | 0x1D => some (.scmpLeN d a b)
  | _ => none

/-- SINT I (R76). -/
def decodeSintI (lit : Option Imm) (d a : Sel) (f : BitVec 4) (i : Imm8) : Option Instr :=
  match f.toNat with
  | 0x0 => some (.saddImm d a i lit)
  | 0x1 => some (.smulImm d a i lit)
  | 0x2 => some (.sandImm d a i lit)
  | 0x3 => some (.sorImm d a i lit)
  | 0x4 => some (.sxorImm d a i lit)
  | 0x5 => some (.sshlImm d a i lit)
  | 0x6 => some (.sshrImm d a i lit)
  | 0x7 => some (.ssraImm d a i lit)
  | 0x8 => if a == 0x3E#6 then (match lit with | none => some (.smovi d i) | some k => req (i == 0#8) (.slit d k)) else none
  | _ => none

/-- The writing forms of the CSR format: the registers with rows of their own first (R77, R108). -/
def decodeCsrWrite (f : CsrFn) (d : Sel) (c : BitVec 12) : Instr :=
  if c == 0x020#12 then .rmWrite f d
  else if c == 0x021#12 then .srseedWrite f d
  else if c == 0x022#12 then .fflagsWrite f d
  else if c == 0x030#12 then .rcvbaseWrite f d
  else if c == 0x054#12 then .bpcWrite f d
  else match f with
    | .write => .csrw d c
    | .set => .csrs d c
    | .clear => .csrc d c

/-- SMOV/CSR (R77). -/
def decodeSmov (w : Word) (d a b f : Sel) : Option Instr :=
  match f.toNat with
  | 0 => some (.csrr d (fld w 6 12))
  | 4 => some (.sRd d a b)
  | 5 => some (.sWr d a b)
  | _ => (CsrFn.ofCode f).map fun g => decodeCsrWrite g d (fld w 6 12)

/-- BR (R78). -/
def decodeBr (lit : Option Imm) (c : Sel) (k : BitVec 4) (o : BitVec 14) : Option Instr :=
  match k.toNat with
  | 0x0 => req (c == 0#6) (.bra o lit)
  | 0x1 => some (.brz c o lit)
  | 0x2 => some (.brnz c o lit)
  | 0x3 => some (.bsz c o lit)
  | 0x4 => some (.bsnz c o lit)
  | _ => none

/-- JMP (R78). -/
def decodeJmp (lit : Option Imm) (c : Sel) (k : BitVec 4) (o : BitVec 14) : Option Instr :=
  match k.toNat with
  | 0x0 => some (.call c o lit)
  | 0x1 => req (o == 0#14 && lit.isNone) (.ret c)
  | 0x2 => req (o == 0#14 && lit.isNone) (.jmp c)
  | 0x3 => req (c == 0#6 && o == 0#14 && lit.isNone) (.exit)
  | 0x4 => req (c == 0#6 && o == 0#14 && lit.isNone) (.nop)
  | 0x5 => req (c == 0#6 && o == 0#14 && lit.isNone) (.yield)
  | 0x6 => req (o == 0#14 && lit.isNone) (.sleep c)
  | _ => none

/-- RCV (R78). -/
def decodeRcv (lit : Option Imm) (c : Sel) (k : BitVec 4) (o : BitVec 14) : Option Instr :=
  match k.toNat with
  | 0x0 => req (c == 0#6) (.rcvPush o lit)
  | 0x1 => req (c == 0#6 && o == 0#14 && lit.isNone) (.rcvWait)
  | 0x2 => req (c == 0#6 && o == 0#14 && lit.isNone) (.rcvPop)
  | 0x3 => req (c == 0#6 && o == 0#14 && lit.isNone) (.rcvDrop)
  | _ => none

/-- BAR/CB (R79). -/
def decodeBar (d a : Sel) (f : BitVec 4) (i : Imm8) : Option Instr :=
  match f.toNat with
  | 0x0 => req (d == 0#6 && a == 0#6 && i == 0#8) (.barTeam)
  | 0x1 => req (d == 0#6 && a == 0#6 && i == 0#8) (.barClu)
  | 0x2 => req (d == 0#6) (.barNamed a i)
  | 0x3 => req (d == 0#6) (.barArrive a i)
  | 0x4 => req (d == 0#6) (.cbInit a i)
  | 0x5 => req (d == 0#6 && a == 0#6) (.cbArrive i)
  | 0x6 => req (d == 0#6 && a == 0#6) (.cbWait i)
  | 0x7 => req (a == 0#6) (.cbTest d i)
  | _ => none

/-- SYS (R79). -/
def decodeSys (d a : Sel) (f : BitVec 4) (i : Imm8) : Option Instr :=
  match f.toNat with
  | 0x0 => req (d == 0#6 && a == 0#6) (.ecall i)
  | 0x1 => req (d == 0#6 && a == 0#6) (.ebreak i)
  | 0x2 => req (d == 0#6 && a == 0#6) (.wcall i)
  | 0x3 => req (d == 0#6 && a == 0#6) (.trap i)
  | 0x4 => req (d == 0#6 && a == 0#6 && i == 0#8) (.wfe)
  | 0x5 => req (d == 0#6 && a == 0#6 && i == 0#8) (.fenceI)
  | 0x6 => req (d == 0#6 && a == 0#6 && i == 0#8) (.halt)
  | _ => none

/-- The M-format fields of LD, ST and the indexed forms (R56). -/
def decodeM (w : Word) (k : MemSize → MemOrd → Scope → MemAt → Instr) : Option Instr :=
  match MemSize.ofCode (fld w 9 3), MemOrd.ofCode (fld w 6 3), MemAt.ofCode (fld w 0 2) with
  | some s, some o, some t => some (k s o (fld w 2 4) t)
  | _, _, _ => none

/-- Atomics that return a value (R80). -/
def decodeAtomOp (d a : Sel) (op : BitVec 4) (r : AtomOrd) (q : Scope) (w : Bool) : Option Instr :=
  match op.toNat with
  | 0x0 => some (.atomAdd d a r q w)
  | 0x1 => some (.atomSub d a r q w)
  | 0x2 => some (.atomMinI d a r q w)
  | 0x3 => some (.atomMaxI d a r q w)
  | 0x4 => some (.atomMinN d a r q w)
  | 0x5 => some (.atomMaxN d a r q w)
  | 0x6 => some (.atomAnd d a r q w)
  | 0x7 => some (.atomOr d a r q w)
  | 0x8 => some (.atomXor d a r q w)
  | 0x9 => some (.atomXchg d a r q w)
  | 0xA => some (.atomCas d a r q w)
  | 0xB => some (.atomIncw d a r q w)
  | 0xC => some (.atomDecw d a r q w)
  | 0xD => some (.atomAddF d a r q w)
  | 0xE => req (!w) (.atomXchgA16 d a r q)
  | 0xF => req (!w) (.atomCasA16 d a r q)
  | _ => none

/-- ATOM (R57, R80). -/
def decodeAtom (w : Word) (d a : Sel) : Option Instr :=
  let r := AtomOrd.ofCode (fld w 6 2)
  let wd := fld w 0 1 == 1#1
  if fld w 5 1 == 0#1 then decodeAtomOp d a (fld w 8 4) r (fld w 1 4) wd
  else (MrOp.ofCode (fld w 8 4)).map fun o => .memoryReduction d a o r (fld w 1 4) wd

/-- MEMC (R58, R80). -/
def decodeMemc (lit : Option Imm) (w : Word) (d a : Sel) : Option Instr :=
  let q : Scope := fld w 2 4
  if fld w 0 2 == 0#2 then
    match (fld w 6 6).toNat with
    | 0 => req (fld w 19 5 == 0#5 && q == 0#4) (.pf (fld w 18 1 == 1#1) a lit)
    | 1 => req (d == 0#6 && q == 0#4) (.ipf a lit)
    | 2 => req (d == 0#6 && a == 0#6 && lit.isNone) (.phaseBegin q)
    | 3 => req (d == 0#6 && a == 0#6 && lit.isNone) (.phaseEnd q)
    | 4 => req (d == 0#6 && a == 0#6 && lit.isNone) (.phase q)
    | 5 => req (d == 0#6 && a == 0#6 && lit.isNone) (.fence q)
    | 6 => req (d == 0#6) (.cwb a q lit)
    | 7 => req (d == 0#6) (.cinv a q lit)
    | 8 => req (d == 0#6 && q == 0#4) (.spClr a lit)
    | 9 => req (d == 0#6 && q == 0#4) (.spSet a lit)
    | 10 => req (q == 0#4) (.spTest d a lit)
    | _ => none
  else none

/-- QUE (R81). -/
def decodeQue (d a b f : Sel) : Option Instr :=
  match f.toNat with
  | 0 => (CmdQ.ofCode d).map fun q => .push q a b
  | 1 => if b == 0#6 then (RecQ.ofCode a).map fun q => .pop d q else none
  | _ => none

/-- NET (R81). -/
def decodeNet (d a b f : Sel) : Option Instr :=
  match f.toNat with
  | 0x00 => req (d == 0#6) (.netPut a b)
  | 0x01 => req (d == 0#6) (.netGet a b)
  | 0x02 => req (d == 0#6) (.netSend a b)
  | 0x03 => req (d == 0#6) (.netRecv a b)
  | 0x04 => req (d == 0#6) (.netRed a b)
  | 0x05 => req (d == 0#6 && a == 0x3E#6) (.netFence b)
  | _ => none

/-- LNCH (R81). -/
def decodeLnch (d a b f : Sel) : Option Instr :=
  match f.toNat with
  | 0x00 => some (.launch d a b)
  | 0x01 => some (.gang d a b)
  | 0x02 => req (d == 0#6 && b == 0#6) (.cancel a)
  | 0x03 => some (.vsel d a b)
  | 0x04 => req (d == 0#6) (.pipePut a b)
  | 0x05 => req (b == 0#6) (.pipeGet d a)
  | 0x06 => req (d == 0#6 && b == 0#6) (.pipeClose a)
  | 0x07 => req (d == 0#6) (.svcReg a b)
  | _ => none

/-- The minors of SUP other than the borrowed accesses (R82). -/
def decodeSupOp (d a b f : Sel) : Option Instr :=
  match f.toNat with
  | 0x00 => req (d == 0#6) (.srep a b)
  | 0x01 => req (d == 0#6 && b == 0#6) (.sdone a)
  | 0x02 => req (d == 0#6 && b == 0#6) (.freeze a)
  | 0x03 => req (d == 0#6 && b == 0#6) (.thaw a)
  | 0x04 => req (d == 0#6 && b == 0#6) (.swapout a)
  | 0x05 => req (d == 0#6 && b == 0#6) (.swapin a)
  | 0x06 => req (d == 0#6 && b == 0#6) (.fltDone a)
  | 0x07 => req (b == 0#6) (.tlbInv d a)
  | 0x08 => req (b == 0#6) (.tlbProbe d a)
  | _ => none

/-- SUP (R82). -/
def decodeSup (w : Word) (d a b f : Sel) : Option Instr :=
  match (fld w 3 3).toNat with
  | 2 => (BSize.ofCode (fld w 0 3)).map fun z => .bld d a b z
  | 3 => (BSize.ofCode (fld w 0 3)).map fun z => .bst d a b z
  | _ => decodeSupOp d a b f

/-- TBL (R82). -/
def decodeTbl (d a b f : Sel) : Option Instr :=
  match f.toNat with
  | 0x00 => some (.potSet d a b)
  | 0x01 => req (b == 0#6) (.potGet d a)
  | 0x02 => some (.frameCls d a b)
  | 0x03 => some (.gesso d a b)
  | 0x04 => some (.keyNew d a b)
  | 0x05 => some (.hotRd d a b)
  | 0x06 => req (b == 0#6) (.varnishBegin d a)
  | 0x07 => req (b == 0#6) (.varnishEnd d a)
  | 0x08 => req (a == 0#6 && b == 0#6) (.clkPlan d)
  | _ => none

/-- CNT (R82). -/
def decodeCnt (d a b f : Sel) : Option Instr :=
  match f.toNat with
  | 0x00 => some (.cntCfg d a b)
  | 0x01 => req (b == 0#6) (.cntRd d a)
  | 0x02 => req (b == 0#6) (.cntClr d a)
  | 0x03 => some (.ebudSet d a b)
  | 0x04 => req (b == 0#6) (.ebudRd d a)
  | 0x05 => some (.tokLim d a b)
  | 0x06 => some (.tcmpSet d a b)
  | _ => none

/-- The extended forms (R63). -/
def decodeExt (p : Option Pfx) (w x y : Word) : Option Instr :=
  let cmd : BitVec 96 := y ++ x ++ w
  match (fld w 24 6).toNat with
  | 0x30 =>
    if p.isNone then
      match (fld w 22 2).toNat with
      | 0 => some (.mma cmd)
      | 1 => some (.mmaJ cmd)
      | _ => none
    else none
  | 0x31 =>
    if p.isNone then
      match (fld w 22 2).toNat with
      | 0 => some (.cp cmd)
      | 1 => some (.cpMx cmd)
      | 2 => some (.cpGx cmd)
      | _ => none
    else none
  | _ =>
    if fld y 9 22 == 0#22 then
      decodeM w fun s o q t =>
        if fld y 31 1 == 0#1 then .ldx (fld w 18 6) (fld w 12 6) s o q t x (fld y 6 3) (fld y 0 6) p
        else .stx (fld w 18 6) (fld w 12 6) s o q t x (fld y 6 3) (fld y 0 6) p
    else none

/-- A base word without an extended form, by major opcode (R67). Only formats I, B, M and MEMC take a literal (R50), and
only the classes of R61 a prefix. -/
def decodeBase (p : Option Pfx) (lit : Option Imm) (w : Word) : Option Instr :=
  let d : Sel := fld w 18 6
  let a : Sel := fld w 12 6
  let b : Sel := fld w 6 6
  let f : Sel := fld w 0 6
  let k : BitVec 4 := fld w 14 4
  let o : BitVec 14 := fld w 0 14
  let i : Imm8 := fld w 0 8
  let m : BitVec 4 := fld w 8 4
  match (fld w 24 6).toNat with
  | 0x01 => if lit.isNone then decodeVintR p d a b f else none
  | 0x02 => decodeVintI p lit d a m i
  | 0x03 => if lit.isNone then decodeVfp p w d a b else none
  | 0x04 => if lit.isNone then decodeVsfu p w d a b else none
  | 0x05 => if lit.isNone then decodeVcvt p w d a b else none
  | 0x06 => if lit.isNone then decodeVcpx p d a b f else none
  | 0x07 => if lit.isNone then decodeVcmp p w d a b else none
  | 0x08 => if lit.isNone then decodeXl p w d a b else none
  | 0x09 => if lit.isNone && p.isNone then decodeMask d a b f else none
  | 0x0A => if lit.isNone && p.isNone then decodeSintR d a b f else none
  | 0x0B => if p.isNone then decodeSintI lit d a m i else none
  | 0x0C => if lit.isNone && p.isNone then decodeSmov w d a b f else none
  | 0x0D => if p.isNone then decodeBr lit d k o else none
  | 0x0E => if p.isNone then decodeJmp lit d k o else none
  | 0x0F => if p.isNone then decodeRcv lit d k o else none
  | 0x10 => if lit.isNone && p.isNone then decodeBar d a m i else none
  | 0x11 => if lit.isNone && p.isNone then decodeSys d a m i else none
  | 0x12 => decodeM w fun s o q t => .ld d a s o q t lit p
  | 0x13 => decodeM w fun s o q t => .st d a s o q t lit p
  | 0x14 => if lit.isNone && p.isNone then decodeAtom w d a else none
  | 0x15 => if p.isNone then decodeMemc lit w d a else none
  | 0x16 => if lit.isNone && p.isNone then decodeQue d a b f else none
  | 0x17 => if lit.isNone && p.isNone then req (d == 0#6 && a == 0#6 && b == 0#6 && f == 0#6) .mrdy else none
  | 0x18 => if lit.isNone && p.isNone then decodeNet d a b f else none
  | 0x19 => if lit.isNone && p.isNone then decodeLnch d a b f else none
  | 0x1A => if lit.isNone && p.isNone then decodeSup w d a b f else none
  | 0x1B => if lit.isNone && p.isNone then decodeTbl d a b f else none
  | 0x1C => if lit.isNone && p.isNone then decodeCnt d a b f else none
  | _ => none

/-- Step 2 of R50: the majors 0x30 to 0x32 take the two words after them as their own; any other base takes them as a
literal. -/
def decodeParts (q : Parts) : Option Instr :=
  let m := (fld q.base 24 6).toNat
  if 0x30 ≤ m && m ≤ 0x32 then
    match q.tail with
    | some (x, y) => decodeExt q.p q.base x y
    | none => none
  else decodeBase q.p (q.tail.map fun t => t.2 ++ t.1) q.base

/-- The instruction that the given words are, all of them (R49 to R83). -/
def decode (ws : List Word) : Decoded :=
  match ws with
  | [] => .bad .short
  | w :: _ =>
    if ws.length < wordsNeeded w then .bad .short
    else
      match splitWords (ws.take (wordsNeeded w)) with
      | none => .bad .layout
      | some q =>
        match decodeParts q with
        | none => .bad .encoding
        | some i => if i.wellFormed then .ok i else .bad .operand

/-- The words of an instruction. A step of the device has none. -/
def encode : Instr → List Word
  | .add d a b w p => encR p 0x01 d a b (minorW w 0x00)
  | .sub d a b w p => encR p 0x01 d a b (minorW w 0x01)
  | .mul d a b w p => encR p 0x01 d a b (minorW w 0x02)
  | .mulhi d a b w p => encR p 0x01 d a b (minorW w 0x03)
  | .mulhn d a b w p => encR p 0x01 d a b (minorW w 0x04)
  | .divI d a b w p => encR p 0x01 d a b (minorW w 0x05)
  | .divN d a b w p => encR p 0x01 d a b (minorW w 0x06)
  | .remI d a b w p => encR p 0x01 d a b (minorW w 0x07)
  | .remN d a b w p => encR p 0x01 d a b (minorW w 0x08)
  | .minI d a b w p => encR p 0x01 d a b (minorW w 0x09)
  | .minN d a b w p => encR p 0x01 d a b (minorW w 0x0A)
  | .maxI d a b w p => encR p 0x01 d a b (minorW w 0x0B)
  | .maxN d a b w p => encR p 0x01 d a b (minorW w 0x0C)
  | .and d a b w p => encR p 0x01 d a b (minorW w 0x0D)
  | .or d a b w p => encR p 0x01 d a b (minorW w 0x0E)
  | .xor d a b w p => encR p 0x01 d a b (minorW w 0x0F)
  | .andn d a b w p => encR p 0x01 d a b (minorW w 0x10)
  | .orn d a b w p => encR p 0x01 d a b (minorW w 0x11)
  | .shl d a b w p => encR p 0x01 d a b (minorW w 0x12)
  | .shr d a b w p => encR p 0x01 d a b (minorW w 0x13)
  | .sra d a b w p => encR p 0x01 d a b (minorW w 0x14)
  | .rol d a b w p => encR p 0x01 d a b (minorW w 0x15)
  | .addc d a b w p => encR p 0x01 d a b (minorW w 0x16)
  | .subc d a b w p => encR p 0x01 d a b (minorW w 0x17)
  | .mad d a b w p => encR p 0x01 d a b (minorW w 0x18)
  | .bfxI d a b p => encR p 0x01 d a b 0x19
  | .bfxN d a b p => encR p 0x01 d a b 0x1A
  | .bfi d a b p => encR p 0x01 d a b 0x1B
  | .sel d a b p => encR p 0x01 d a b 0x1C
  | .selB64 d a b p => encR p 0x01 d a b 0x39
  | .bsel d a b p => encR p 0x01 d a b 0x1D
  | .abs d a w p => encR p 0x01 d a (minorW w 0x00) 0x1E
  | .neg d a w p => encR p 0x01 d a (minorW w 0x01) 0x1E
  | .clz d a w p => encR p 0x01 d a (minorW w 0x02) 0x1E
  | .ctz d a w p => encR p 0x01 d a (minorW w 0x03) 0x1E
  | .popc d a w p => encR p 0x01 d a (minorW w 0x04) 0x1E
  | .brev d a w p => encR p 0x01 d a (minorW w 0x05) 0x1E
  | .mov d a w p => encR p 0x01 d a (minorW w 0x06) 0x1E
  | .extI d a p => encR p 0x01 d a 0x07 0x1E
  | .extN d a p => encR p 0x01 d a 0x08 0x1E
  | .lea d a b p => encR p 0x01 d a b 0x1F
  | .dot4Ii d a b p => encR p 0x01 d a b 0x3A
  | .dot4Nn d a b p => encR p 0x01 d a b 0x3B
  | .dot4In d a b p => encR p 0x01 d a b 0x3C
  | .dot8Ii d a b p => encR p 0x01 d a b 0x3D
  | .dot8Nn d a b p => encR p 0x01 d a b 0x3E
  | .dot8In d a b p => encR p 0x01 d a b 0x3F
  | .addImm d a i lit p => encI p lit 0x02 d a 0x0 i
  | .add64Imm d a i lit p => encI p lit 0x02 d a 0x1 i
  | .mulImm d a i lit p => encI p lit 0x02 d a 0x2 i
  | .andImm d a i lit p => encI p lit 0x02 d a 0x3 i
  | .orImm d a i lit p => encI p lit 0x02 d a 0x4 i
  | .xorImm d a i lit p => encI p lit 0x02 d a 0x5 i
  | .shlImm d a i lit p => encI p lit 0x02 d a 0x6 i
  | .shrImm d a i lit p => encI p lit 0x02 d a 0x7 i
  | .sraImm d a i lit p => encI p lit 0x02 d a 0x8 i
  | .minIImm d a i lit p => encI p lit 0x02 d a 0x9 i
  | .maxIImm d a i lit p => encI p lit 0x02 d a 0xA i
  | .moviB32 d i p => encI p none 0x02 d 0x3E 0xB i
  | .moviB64 d i p => encI p none 0x02 d 0x3E 0xC i
  | .leaImm d a i lit p => encI p lit 0x02 d a 0xD i
  | .litB32 d k p => encI p (some k) 0x02 d 0x3E 0xB 0
  | .litB64 d k p => encI p (some k) 0x02 d 0x3E 0xC 0
  | .fadd d a b t p => encR p 0x03 d a b (minorF t 0x0)
  | .fsub d a b t p => encR p 0x03 d a b (minorF t 0x1)
  | .fmul d a b t p => encR p 0x03 d a b (minorF t 0x2)
  | .fma d a b t p => encR p 0x03 d a b (minorF t 0x3)
  | .fnma d a b t p => encR p 0x03 d a b (minorF t 0x4)
  | .fmin d a b t p => encR p 0x03 d a b (minorF t 0x5)
  | .fmax d a b t p => encR p 0x03 d a b (minorF t 0x6)
  | .fminm d a b t p => encR p 0x03 d a b (minorF t 0x7)
  | .fmaxm d a b t p => encR p 0x03 d a b (minorF t 0x8)
  | .fdiv d a b t p => encR p 0x03 d a b (minorF t 0x9)
  | .fsqrt d a t p => encR p 0x03 d a 0 (minorF t 0xA)
  | .fabs d a t p => encR p 0x03 d a 0 (minorF t 0xB)
  | .fneg d a t p => encR p 0x03 d a 0 (minorF t 0xC)
  | .fsgn d a b t p => encR p 0x03 d a b (minorF t 0xD)
  | .fclass d a t p => encR p 0x03 d a 0 (minorF t 0xE)
  | .fscale d a b t p => encR p 0x03 d a b (minorF t 0xF)
  | .frcp d a t p => encR p 0x04 d a 0 (minorF t 0x0)
  | .frsq d a t p => encR p 0x04 d a 0 (minorF t 0x1)
  | .fex2 d a t p => encR p 0x04 d a 0 (minorF t 0x2)
  | .flg2 d a t p => encR p 0x04 d a 0 (minorF t 0x3)
  | .fsin d a t p => encR p 0x04 d a 0 (minorF t 0x4)
  | .fcos d a t p => encR p 0x04 d a 0 (minorF t 0x5)
  | .ftanh d a t p => encR p 0x04 d a 0 (minorF t 0x6)
  | .fcvt d a n s t p => encR p 0x05 d a (0b0#1 ++ BitVec.ofBool n ++ s.code) (0b00#2 ++ t.code)
  | .fround d a t p => encR p 0x05 d a 0 (0b0100#4 ++ t.code)
  | .fsplitBf16 d a p => encR p 0x05 d a 0x03 0x20
  | .fpack d a e p => encR p 0x05 d a (0b0001#4 ++ e.code) 0x21
  | .funpk d a e p => encR p 0x05 d a (0b0001#4 ++ e.code) 0x22
  | .caddCi16 d a b p => encR p 0x06 d a b 0x00
  | .caddCi32 d a b p => encR p 0x06 d a b 0x01
  | .cmulCi16 d a b p => encR p 0x06 d a b 0x02
  | .cmacCi16 d a b p => encR p 0x06 d a b 0x03
  | .cmacCi8 d a b p => encR p 0x06 d a b 0x04
  | .cconjCi16 d a p => encR p 0x06 d a 0 0x05
  | .cconjCi32 d a p => encR p 0x06 d a 0 0x06
  | .cmag2Ci16 d a p => encR p 0x06 d a 0 0x07
  | .cunpkCi8 d a p => encR p 0x06 d a 0 0x08
  | .cunpkCi4 d a p => encR p 0x06 d a 0 0x09
  | .cmp d a b t c p => encR p 0x07 d a b (0b0#1 ++ t.code ++ c.code)
  | .fcmp d a b t c p => encR p 0x07 d a b (0b1#1 ++ t.code ++ c.code)
  | .xlPick d a b k p => encR p 0x08 d a b (0b000#3 ++ k)
  | .xlSwap d a b k p => encR p 0x08 d a b (0b001#3 ++ k)
  | .xlFwd d a b k p => encR p 0x08 d a b (0b010#3 ++ k)
  | .xlBack d a b k p => encR p 0x08 d a b (0b011#3 ++ k)
  | .red d a o => encR none 0x08 d a 0 (0b10#2 ++ o.code)
  | .scan d a o => encR none 0x08 d a 0 (0b11#2 ++ o.code)
  | .mand d a b => encR none 0x09 d a b 0x00
  | .mor d a b => encR none 0x09 d a b 0x01
  | .mxor d a b => encR none 0x09 d a b 0x02
  | .mnot d a => encR none 0x09 d a 0 0x03
  | .mmov d a => encR none 0x09 d a 0 0x04
  | .mpop d a => encR none 0x09 d a 0 0x05
  | .mfirst d a => encR none 0x09 d a 0 0x06
  | .mset d a => encR none 0x09 d a 0 0x07
  | .mget d a => encR none 0x09 d a 0 0x08
  | .voteAny d a => encR none 0x09 d a 0 0x10
  | .voteAll d a => encR none 0x09 d a 0 0x11
  | .ballot d a => encR none 0x09 d a 0 0x12
  | .matchLanes d a => encR none 0x09 d a 0 0x13
  | .popm d a => encR none 0x09 d a 0 0x14
  | .sadd d a b => encR none 0x0A d a b 0x00
  | .ssub d a b => encR none 0x0A d a b 0x01
  | .smul d a b => encR none 0x0A d a b 0x02
  | .smulhi d a b => encR none 0x0A d a b 0x03
  | .sdiv d a b => encR none 0x0A d a b 0x04
  | .sdivN d a b => encR none 0x0A d a b 0x05
  | .srem d a b => encR none 0x0A d a b 0x06
  | .sremN d a b => encR none 0x0A d a b 0x07
  | .smin d a b => encR none 0x0A d a b 0x08
  | .sminN d a b => encR none 0x0A d a b 0x09
  | .smax d a b => encR none 0x0A d a b 0x0A
  | .smaxN d a b => encR none 0x0A d a b 0x0B
  | .sand d a b => encR none 0x0A d a b 0x0C
  | .sor d a b => encR none 0x0A d a b 0x0D
  | .sxor d a b => encR none 0x0A d a b 0x0E
  | .sshl d a b => encR none 0x0A d a b 0x0F
  | .sshr d a b => encR none 0x0A d a b 0x10
  | .ssra d a b => encR none 0x0A d a b 0x11
  | .sclz d a => encR none 0x0A d a 0 0x12
  | .spopc d a => encR none 0x0A d a 0 0x13
  | .smov d a => encR none 0x0A d a 0 0x14
  | .ssel d a b => encR none 0x0A d a b 0x15
  | .scmpEq d a b => encR none 0x0A d a b 0x18
  | .scmpNe d a b => encR none 0x0A d a b 0x19
  | .scmpLt d a b => encR none 0x0A d a b 0x1A
  | .scmpLe d a b => encR none 0x0A d a b 0x1B
  | .scmpLtN d a b => encR none 0x0A d a b 0x1C
  | .scmpLeN d a b => encR none 0x0A d a b 0x1D
  | .saddImm d a i lit => encI none lit 0x0B d a 0x0 i
  | .smulImm d a i lit => encI none lit 0x0B d a 0x1 i
  | .sandImm d a i lit => encI none lit 0x0B d a 0x2 i
  | .sorImm d a i lit => encI none lit 0x0B d a 0x3 i
  | .sxorImm d a i lit => encI none lit 0x0B d a 0x4 i
  | .sshlImm d a i lit => encI none lit 0x0B d a 0x5 i
  | .sshrImm d a i lit => encI none lit 0x0B d a 0x6 i
  | .ssraImm d a i lit => encI none lit 0x0B d a 0x7 i
  | .smovi d i => encI none none 0x0B d 0x3E 0x8 i
  | .slit d k => encI none (some k) 0x0B d 0x3E 0x8 0
  | .csrr d c => [packCsr d c 0x00]
  | .csrw d c => [packCsr d c 0x01]
  | .csrs d c => [packCsr d c 0x02]
  | .csrc d c => [packCsr d c 0x03]
  | .sRd d a b => encR none 0x0C d a b 0x04
  | .sWr d a b => encR none 0x0C d a b 0x05
  | .srseedWrite f d => [packCsr d 0x021 f.code]
  | .rmWrite f d => [packCsr d 0x020 f.code]
  | .fflagsWrite f d => [packCsr d 0x022 f.code]
  | .rcvbaseWrite f d => [packCsr d 0x030 f.code]
  | .bpcWrite f d => [packCsr d 0x054 f.code]
  | .bra o lit => encB lit 0x0D 0 0x0 o
  | .brz c o lit => encB lit 0x0D c 0x1 o
  | .brnz c o lit => encB lit 0x0D c 0x2 o
  | .bsz c o lit => encB lit 0x0D c 0x3 o
  | .bsnz c o lit => encB lit 0x0D c 0x4 o
  | .call c o lit => encB lit 0x0E c 0x0 o
  | .ret c => encB none 0x0E c 0x1 0
  | .jmp c => encB none 0x0E c 0x2 0
  | .exit => encB none 0x0E 0 0x3 0
  | .nop => encB none 0x0E 0 0x4 0
  | .yield => encB none 0x0E 0 0x5 0
  | .sleep c => encB none 0x0E c 0x6 0
  | .rcvPush o lit => encB lit 0x0F 0 0x0 o
  | .rcvWait => encB none 0x0F 0 0x1 0
  | .rcvPop => encB none 0x0F 0 0x2 0
  | .rcvDrop => encB none 0x0F 0 0x3 0
  | .barTeam => encI none none 0x10 0 0 0x0 0
  | .barClu => encI none none 0x10 0 0 0x1 0
  | .barNamed a n => encI none none 0x10 0 a 0x2 n
  | .barArrive a n => encI none none 0x10 0 a 0x3 n
  | .cbInit a n => encI none none 0x10 0 a 0x4 n
  | .cbArrive n => encI none none 0x10 0 0 0x5 n
  | .cbWait n => encI none none 0x10 0 0 0x6 n
  | .cbTest d n => encI none none 0x10 d 0 0x7 n
  | .ecall n => encI none none 0x11 0 0 0x0 n
  | .ebreak n => encI none none 0x11 0 0 0x1 n
  | .wcall n => encI none none 0x11 0 0 0x2 n
  | .trap n => encI none none 0x11 0 0 0x3 n
  | .wfe => encI none none 0x11 0 0 0x4 0
  | .fenceI => encI none none 0x11 0 0 0x5 0
  | .halt => encI none none 0x11 0 0 0x6 0
  | .ld d a s o q t lit p => encM p lit 0x12 d a s o q t
  | .st d a s o q t lit p => encM p lit 0x13 d a s o q t
  | .ldx d a s o q t off k x p => encX p false d a s o q t off k x
  | .stx d a s o q t off k x p => encX p true d a s o q t off k x
  | .loadDataArrival _ => []
  | .atomAdd d a r q w => [packAtom d a 0x0 r false q w]
  | .atomSub d a r q w => [packAtom d a 0x1 r false q w]
  | .atomMinI d a r q w => [packAtom d a 0x2 r false q w]
  | .atomMaxI d a r q w => [packAtom d a 0x3 r false q w]
  | .atomMinN d a r q w => [packAtom d a 0x4 r false q w]
  | .atomMaxN d a r q w => [packAtom d a 0x5 r false q w]
  | .atomAnd d a r q w => [packAtom d a 0x6 r false q w]
  | .atomOr d a r q w => [packAtom d a 0x7 r false q w]
  | .atomXor d a r q w => [packAtom d a 0x8 r false q w]
  | .atomXchg d a r q w => [packAtom d a 0x9 r false q w]
  | .atomCas d a r q w => [packAtom d a 0xA r false q w]
  | .atomIncw d a r q w => [packAtom d a 0xB r false q w]
  | .atomDecw d a r q w => [packAtom d a 0xC r false q w]
  | .atomAddF d a r q w => [packAtom d a 0xD r false q w]
  | .atomXchgA16 d a r q => [packAtom d a 0xE r false q false]
  | .atomCasA16 d a r q => [packAtom d a 0xF r false q false]
  | .memoryReduction d a o r q w => [packAtom d a o.code r true q w]
  | .pf l a lit => encMemc lit (BitVec.zeroExtend 6 (BitVec.ofBool l)) a 0x00 0
  | .ipf a lit => encMemc lit 0 a 0x01 0
  | .phaseBegin q => encMemc none 0 0 0x02 q
  | .phaseEnd q => encMemc none 0 0 0x03 q
  | .phase q => encMemc none 0 0 0x04 q
  | .fence q => encMemc none 0 0 0x05 q
  | .cwb a q lit => encMemc lit 0 a 0x06 q
  | .cinv a q lit => encMemc lit 0 a 0x07 q
  | .spClr a lit => encMemc lit 0 a 0x08 0
  | .spSet a lit => encMemc lit 0 a 0x09 0
  | .spTest d a lit => encMemc lit d a 0x0A 0
  | .push q a b => encR none 0x16 q.code a b 0x00
  | .pop d q => encR none 0x16 d q.code 0 0x01
  | .mrdy => encR none 0x17 0 0 0 0x00
  | .mma cmd => ext96 cmd
  | .mmaJ cmd => ext96 cmd
  | .mmaStart _ => []
  | .mmaComplete _ => []
  | .cp cmd => ext96 cmd
  | .cpMx cmd => ext96 cmd
  | .cpGx cmd => ext96 cmd
  | .copyEnterFlight _ => []
  | .copyRowLanding _ _ => []
  | .copyComplete _ => []
  | .copyFail _ _ => []
  | .followOnAppend _ => []
  | .netPut a b => encR none 0x18 0 a b 0x00
  | .netGet a b => encR none 0x18 0 a b 0x01
  | .netSend a b => encR none 0x18 0 a b 0x02
  | .netRecv a b => encR none 0x18 0 a b 0x03
  | .netRed a b => encR none 0x18 0 a b 0x04
  | .netFence b => encR none 0x18 0 0x3E b 0x05
  | .netCommandStart _ => []
  | .netPacketReceive _ => []
  | .packetRetransmit _ => []
  | .netLocalCompletion _ => []
  | .completionRingSpace _ => []
  | .launch d a b => encR none 0x19 d a b 0x00
  | .gang d a b => encR none 0x19 d a b 0x01
  | .cancel a => encR none 0x19 0 a 0 0x02
  | .vsel d a b => encR none 0x19 d a b 0x03
  | .pipePut a b => encR none 0x19 0 a b 0x04
  | .pipeGet d a => encR none 0x19 d a 0 0x05
  | .pipeClose a => encR none 0x19 0 a 0 0x06
  | .svcReg a b => encR none 0x19 0 a b 0x07
  | .launchStart => []
  | .teamRelease _ _ => []
  | .teamPlacement _ _ => []
  | .fairnessExpiry _ _ => []
  | .teamRetire _ => []
  | .groupTeardown _ _ => []
  | .agingPromotion _ _ => []
  | .srep a b => encR none 0x1A 0 a b 0x00
  | .sdone a => encR none 0x1A 0 a 0 0x01
  | .freeze a => encR none 0x1A 0 a 0 0x02
  | .thaw a => encR none 0x1A 0 a 0 0x03
  | .swapout a => encR none 0x1A 0 a 0 0x04
  | .swapoutDrainDone _ => []
  | .swapin a => encR none 0x1A 0 a 0 0x05
  | .fltDone a => encR none 0x1A 0 a 0 0x06
  | .logReplayRecord _ _ _ => []
  | .tlbInv s a => encR none 0x1A s a 0 0x07
  | .tlbProbe d a => encR none 0x1A d a 0 0x08
  | .bld d a b z => encR none 0x1A d a b (0b010#3 ++ z.code)
  | .bst d a b z => encR none 0x1A d a b (0b011#3 ++ z.code)
  | .potSet d a b => encR none 0x1B d a b 0x00
  | .potGet d a => encR none 0x1B d a 0 0x01
  | .frameCls d a b => encR none 0x1B d a b 0x02
  | .gesso d a b => encR none 0x1B d a b 0x03
  | .keyNew d a b => encR none 0x1B d a b 0x04
  | .hotRd d a b => encR none 0x1B d a b 0x05
  | .varnishBegin d a => encR none 0x1B d a 0 0x06
  | .varnishEnd d a => encR none 0x1B d a 0 0x07
  | .clkPlan d => encR none 0x1B d 0 0 0x08
  | .clockRelock => []
  | .cntCfg d a b => encR none 0x1C d a b 0x00
  | .cntRd d a => encR none 0x1C d a 0 0x01
  | .cntClr d a => encR none 0x1C d a 0 0x02
  | .ebudSet d a b => encR none 0x1C d a b 0x03
  | .ebudRd d a => encR none 0x1C d a 0 0x04
  | .tokLim d a b => encR none 0x1C d a b 0x05
  | .tcmpSet d a b => encR none 0x1C d a b 0x06
  | .icacheFill _ _ => []
  | .breakpointMatch _ _ _ => []
  | .sleepExpiry _ _ _ => []
  | .wfeWake _ _ _ => []
  | .ecallRetry _ _ _ => []
  | .timerFire _ _ => []
  | .deviceRecordPost _ => []
  | .barTimeout _ _ _ => []
  | .patrol _ => []
  | .hotnessIntervalEnd _ => []
  | .ingestPacket _ => []
  | .ingestHeldWrite _ => []
  | .pauseBudgetExpiry _ _ => []
  | .xoffRefresh _ _ => []
  | .doorbellWrite _ => []
  | .ssdDataAccess _ _ _ _ _ _ => []
  | .nvmeCompletion _ _ _ _ => []
  | .domainStateWrite _ _ => []
  | .domainDrained _ => []
  | .tctlWrite _ => []
  | .potInitialisationDone => []
  | .worldTableReserveWrite _ _ => []
  | .wayGlazingDone _ => []
  | .vaultAllocationWrite _ _ _ => []
  | .segmentZeroingDone _ _ => []
  | .flashProgram _ _ => []
  | .sectorErase _ => []
  | .flashOperationDone _ => []
  | .deviceRegisterWrite _ _ _ => []
  | .powerOn => []
  | .pinReset => []
  | .stackTrainingDone _ => []
  | .thermtrip => []
  | .translationWalkDone _ => []
  | .arrayFinish _ _ => []
  | .scratchpadClearDone _ => []
  | .softError _ _ _ => []
  | .powerRemoval => []
  | .resetNAsserted => []
  | .portLinkChange _ _ => []

/-! ## Bytes and the table's words -/

/-- Little-endian bytes of a word (R49). -/
def wordBytes (w : Word) : List Byte :=
  [w.extractLsb' 0 8, w.extractLsb' 8 8, w.extractLsb' 16 8, w.extractLsb' 24 8]

/-- Little-endian words of bytes; a part of a word at the end is dropped. -/
def bytesWords : List Byte → List Word
  | a :: b :: c :: d :: rest => (d ++ c ++ b ++ a) :: bytesWords rest
  | _ => []

/-- The instruction that bytes begin with. -/
def decodeBytes (bs : List Byte) : Decoded := decode (bytesWords bs)

/-- Sixteen bytes, the longest instruction, that hold the low `nbits` bits of `w` and zeros above them. -/
def tableBytes (nbits w : Nat) : List Byte :=
  let v := w % 2 ^ nbits
  (List.range 16).map fun i => BitVec.ofNat 8 (v / 256 ^ i)

/-- What the decoder reads from an instruction whose bits are `w`. -/
def decodeTableWord (nbits w : Nat) : Option Instr :=
  match decodeBytes (tableBytes nbits w) with
  | .ok i => some i
  | .bad _ => none

end

end Sys2Proof
end

