-- ==== Sys2Proof/Machine/Fetch.lean ====
section
/-! DEFINITION. Fetching an instruction's words, the lines that fetches ask for, and the replay of the store side log
(R51, R174, R306 to R310, R432, R434). -/

namespace Sys2Proof.Machine

/-! ## Fetching -/

/-- What fetching a word or an instruction comes to. -/
inductive Fetched where
  | words (ws : List Word)
  /-- A word faults; the words read before it, and the number of words the record names (R434). -/
  | fault (i : FaultInfo) (ws : List Word) (nw : Nat)
  /-- Translations to wait for. -/
  | walk (sup : Bool) (vpns : List Nat)
  /-- A line of the instruction cache to wait for. -/
  | line (l : Nat)
  | wait
  deriving DecidableEq, Repr

/-- A word of a cached line. -/
def ICLine.word (l : ICLine) (k : Nat) : Word :=
  let b (i : Nat) : Byte := l.bytes.getD (k % 128 + i) 0
  b 3 ++ b 2 ++ b 1 ++ b 0

/-- Fetch the word at an address for a thread (R174). A line of which the word's parity is wrong has to be fetched again
(R196). -/
def State.fetchWord (s : State) (p : Poster) (pc : DWord) : Fetched :=
  match s.fetchAt p pc with
  | .keys (k :: _) _ _ _ =>
    match s.icache.find? fun l => l.core == p.core && l.world == p.world && l.line == k / 128 && l.full with
    | some l => if l.bad.contains (k % 128 / 4) then .line (k / 128) else .words [l.word k]
    | none => .line (k / 128)
  | .fault i => .fault i [] 1
  | .walk sup v => .walk sup v
  | _ => .wait

/-- Fetch `n` further words (R51). `nw` is the number of words of the instruction. -/
def State.fetchMore (s : State) (p : Poster) (nw : Nat) : Nat → DWord → List Word → Fetched
  | 0, _, ws => .words ws
  | n + 1, pc, ws =>
    match s.fetchWord p pc with
    | .words w => s.fetchMore p nw n (pc + 4#64) (ws ++ w)
    | .fault i _ _ => .fault i ws nw
    | r => r

/-- Fetch the instruction at an address: the first word, and then as many as it names (R51). -/
def State.fetch (s : State) (p : Poster) (pc : DWord) : Fetched :=
  match s.fetchWord p pc with
  | .words [w] => s.fetchMore p (wordsNeeded w) (wordsNeeded w - 1) (pc + 4#64) [w]
  | r => r

/-- The word at an address as a fetch would bring it, whether or not its line is in the instruction cache. -/
def State.peekWord (s : State) (p : Poster) (pc : DWord) : Option Word :=
  match s.fetchWord p pc, s.fetchAt p pc with
  | .words [w], _ => some w
  | _, .keys ks _ _ _ => some (BitVec.ofNat 32 (leNat (ks.map s.readKey)))
  | _, _ => none

/-- The words of the instruction at an address, as far as they can be told without a fault. -/
def State.peek (s : State) (p : Poster) (pc : DWord) : List Word :=
  match s.peekWord p pc with
  | none => []
  | some w => w :: (List.range (wordsNeeded w - 1)).filterMap fun i => s.peekWord p (pc + BitVec.ofNat 64 (4 * i + 4))

/-- Ask for a line that a fetch waits for; one already on its way is only waited for. A line that is here and still has to be
fetched failed its parity: it is discarded, and costs the fetching launch and its atelier one corrected error (R196). -/
def askLine (s : State) (p : Poster) (l : Nat) : Out :=
  let mine (x : ICLine) : Bool := x.core == p.core && x.world == p.world && x.line == l
  let ask (u : State) : Out := .next ((u.requestLine p false l).count p.core p.world.toNat 0x15 1)
  match s.icache.find? mine with
  | none => ask s
  | some x => if x.full then ask (({ s with icache := s.icache.filter fun x => !mine x } : State).charge p 1) else notReady s

/-- R432: a line asked for arrives, with its words as they are in memory now. The read meets soft errors, for those who
asked (R206, R227). -/
def execIcacheFill (core line : Nat) (s : State) : Out :=
  let due (l : ICLine) : Bool := l.core == core && l.line == line && !l.full
  match s.icache.find? due with
  | none => notReady s
  | some x =>
    let u := s.meetErrors x.by_ [line * 128]
    let bs := (List.range 128).map fun i => s.readKey (line * 128 + i)
    .next { u with icache := u.icache.map fun l => if due l then { l with full := true, bytes := bs } else l }

/-! ## Replay of the side log (R310) -/

/-- What performing a logged access comes to. -/
inductive Performed where
  | done (s : State)
  /-- Its page still does not translate. -/
  | again (c : FaultCode)
  /-- It meets another fault. -/
  | failed (c : FaultCode)
  /-- Something is to be waited for first. -/
  | later
  deriving DecidableEq, Repr

/-- Make one logged access now. What depends on data whose glaze check fails is not written (R254). -/
def State.perform (s : State) (p : Poster) (e : LogEnt) : Performed :=
  let n := e.bytes.length
  let q := { p with kcls := e.kcls }
  let kind : AKind := if e.typ == 1 then .reduction else if e.typ == 2 then .spill else .store
  let r := s.reach q e.addr n kind
  match r.2 with
  | .fault i => if i.code == .pageMiss || i.code == .pagePerm then .again i.code else .failed i.code
  | .keys ks c b l =>
    if e.typ == 1 then
      let (s1, bs, pois) := r.1.readAt q e.addr n (fun _ => false) (.keys ks c b l)
      .done ((if pois || r.1.failsGlaze ks then s1
        else s1.writeAt q (toBytes (atomNew e.aop (8 * n) (leNat bs) (leNat e.bytes) 0) n) (.keys ks c b l)).countLine
          (ks.headD 0) 0x29 1)
    else .done (r.1.writeAt q e.bytes (.keys ks c b l))
  | _ => .later

/-- Replay entries in order: the state, the entries left, and what stopped the replay. -/
def State.replay (s : State) (p : Poster) : List LogEnt → State × List LogEnt × Performed
  | [] => (s, [], .done s)
  | e :: es =>
    match s.perform p e with
    | .done u => State.replay { u with slog := u.slog.filter fun x => x != e } p es
    | r => (s, e :: es, r)

/-- `flt.done`'s answer to an ACC 7 record of a lane of a group: its entries replay; what stays behind has a new record
of the same instruction, and what faults is discarded, with the thread's ACC 8 record due at its next boundary (R310). `n` is
the answered slot. None while an entry has to wait. -/
def State.replayLane (s : State) (g : Group) (lane n : Nat) : Option State :=
  let p := g.poster lane
  let (s1, left, err) := s.replay p (s.logOf p)
  let m : DWord := 1#64 <<< lane
  let s2 := s1.mapLanes g.core g.slot m fun t => { t with logRec := none }
  match left, err with
  | _, .later => none
  | [], _ => some (resumeFault s2 g.core g.slot n)
  | e :: _, .failed c =>
    let s3 := { s2 with slog := s2.slog.filter fun x => !left.contains x }
    some (resumeFault (s3.mapLanes g.core g.slot m fun t =>
      if t.st == .exited then t else { t with logErr := some (c.code, e.addr, e.addr2) }) g.core g.slot n)
  | e :: _, r =>
    let code := match r with
      | .again c => c
      | _ => .pageMiss
    let q := s2.freeFaultSlot g.core
    let b := match s2.faultq.find? fun x => x.core == g.core && x.slot == n with
      | some x => { x.body with code := code, addr := e.addr, addr2 := e.addr2 }
      | none => faultRec g lane false { code := code, acc := 7, addr := e.addr, addr2 := e.addr2 } 0 m m []
    some ((s2.postFault g.core b).mapLanes g.core g.slot m fun t =>
      { t with logRec := some q, st := if t.st == .parkedFault n then .parkedFault q else t.st })

/-- The code of a number (R301). -/
def FaultCode.ofCode (n : Nat) : FaultCode :=
  match n with
  | 0x08 => .owner | 0x09 => .decode | _ => .xclass

end Sys2Proof.Machine
end

