-- ==== Sys2Proof/Machine/Control.lean ====
section
/-! DEFINITION. Branches, calls, jumps, sleep, reconvergence frames, exit and the system instructions (R169 to R187). -/

namespace Sys2Proof.Machine

/-! ## Branches, calls and jumps (R171, R172) -/

/-- The target of a branch at an address: a literal, or words from the instruction (R171). -/
def brTarget (pc : DWord) (o : BitVec 14) (lit : Option Imm) : DWord :=
  match lit with
  | some a => a &&& ~~~3#64
  | none => pc + (o.signExtend 64 <<< 2)

/-- A thread leaves a branch for an address: its converged set splits by target (R157). -/
def State.takePath (s : State) (t : Thread) (a : DWord) : Thread :=
  { s.goto t a with path := t.path ++ [(a &&& ~~~3#64).toNat] }

/-- A conditional branch: `x` is the condition's value in a thread, and the branch is taken when its being zero is `z`. -/
def condBranch (s : State) (g : Group) (perThread z : Bool) (x : Thread → Val) (o : BitVec 14) (lit : Option Imm) : Out :=
  let run := g.inMask s.cur.lanes
  if run.any fun t => !(x t).wait.isEmpty then notReady s
  else
    let bad := run.filter fun t => (x t).poison && g.kcls != .n
    if !bad.isEmpty && !perThread then raiseCohort s g (.plain .poison)
    else
      let m := s.cur.lanes &&& ~~~(laneMask (bad.map (·.lane)))
      let zero (t : Thread) : Bool :=
        if (x t).poison then Config.free 1 s.tick (110000 + t.lane) == 1#1 else (x t).val == 0#128
      let move (t : Thread) : Thread :=
        if laneBit m t.lane then
          s.takePath t (if zero t == z then brTarget t.pc o lit else t.pc + s.instBytes)
        else t
      .next (raiseLanes (s.putGroup (g.mapThreads move)) g (bad.map fun t => (t.lane, .plain .poison)))

/-- R171: to the target. -/
def execBra (o : BitVec 14) (lit : Option Imm) (s : State) : Out :=
  onGroup s fun g =>
    .next (s.putGroup (g.mapThreads fun t => if laneBit s.cur.lanes t.lane then s.goto t (brTarget t.pc o lit) else t))

/-- A branch on a vector-class value. -/
def vectorBranch (z : Bool) (c : Sel) (o : BitVec 14) (lit : Option Imm) (s : State) : Out :=
  onGroup s fun g =>
    withRegs s g [(c, 1)] <| condBranch s g true z (fun t => vsource s.tick g t false c) o lit

/-- R171: where the thread's value is zero. -/
def execBrz (c : Sel) (o : BitVec 14) (lit : Option Imm) (s : State) : Out := vectorBranch true c o lit s
/-- R171: where the thread's value is not zero. -/
def execBrnz (c : Sel) (o : BitVec 14) (lit : Option Imm) (s : State) : Out := vectorBranch false c o lit s

/-- A branch on a scalar. -/
def scalarBranch (z : Bool) (c : Sel) (o : BitVec 14) (lit : Option Imm) (s : State) : Out :=
  onGroup s fun g =>
    let v := ssource g c
    condBranch s g false z (fun _ => { val := v.val.setWidth 128, taint := v.taint, poison := v.poison, wait := [] }) o lit

/-- R171: when the scalar is zero. -/
def execBsz (c : Sel) (o : BitVec 14) (lit : Option Imm) (s : State) : Out := scalarBranch true c o lit s
/-- R171: when the scalar is not zero. -/
def execBsnz (c : Sel) (o : BitVec 14) (lit : Option Imm) (s : State) : Out := scalarBranch false c o lit s

/-- R172: the address of the next instruction to the pair, and to the target. -/
def execCall (c : Sel) (o : BitVec 14) (lit : Option Imm) (s : State) : Out :=
  onGroup s fun g =>
    withRegs s g [(c, 2)] <|
      let move (t : Thread) : Thread :=
        if laneBit s.cur.lanes t.lane then
          s.goto (writeDst t .w64 c { Val.const 0 with val := (t.pc + s.instBytes).setWidth 128 }) (brTarget t.pc o lit)
        else t
      let g1 := g.mapThreads move
      .next (s.putGroup ((g.inMask s.cur.lanes).foldl (fun h t => h.dirtyRegs t.lane .w64 c) g1))

/-- To the address in a pair, which is consumed (R172). -/
def jumpIssue (c : Sel) (s : State) : Out :=
  onGroup s fun g =>
    withRegs s g [(c, 2)] <|
      let x (t : Thread) : Val := vsource s.tick g t true c
      let run := g.inMask s.cur.lanes
      if run.any fun t => !(x t).wait.isEmpty then notReady s
      else
        let bad := run.filter fun t => (x t).poison && g.kcls != .n
        let m := s.cur.lanes &&& ~~~(laneMask (bad.map (·.lane)))
        let goal (t : Thread) : DWord :=
          if (x t).poison then Config.free 64 s.tick (110000 + t.lane) else (x t).val.setWidth 64
        let move (t : Thread) : Thread := if laneBit m t.lane then s.takePath t (goal t) else t
        .next (raiseLanes (s.putGroup (g.mapThreads move)) g (bad.map fun t => (t.lane, .plain .poison)))

/-- R172: return. -/
def execRet (c : Sel) (s : State) : Out := jumpIssue c s
/-- R172: jump. -/
def execJmp (c : Sel) (s : State) : Out := jumpIssue c s

/-! ## Nop, sleep and wfe (R173, R182) -/

/-- R173: only moves on. -/
def execNop (s : State) : Out := onGroup s fun g => .next (s.putGroup (movePast s g))

/-- The cohort's threads move on and take a state. -/
def restIn (s : State) (st : TState) : Out :=
  onGroup s fun g => .next (s.putGroup (g.mapThreads fun t =>
    if laneBit s.cur.lanes t.lane then { s.past t with st := st } else t))

/-- R173: not eligible in the next issue cycle. -/
def execYield (s : State) : Out := restIn s (.sleeping (s.cycle + 2))

/-- R173: sleep for the cycles in bits 31..0 of a scalar, poisoned or not. -/
def execSleep (c : Sel) (s : State) : Out :=
  onGroup s fun g =>
    let n := bits (ssource g c).val 31 0
    restIn s (.sleeping (s.cycle + if n == 0 then 2 else n))

/-- R182: not ready until something happens. -/
def execWfe (s : State) : Out := restIn s (.wfe (s.cycle + 65536))

/-- A thread of a lane goes from a waiting state to ready. -/
def wakeLane (core slot lane : Nat) (p : TState → Bool) (s : State) : Out :=
  match (s.group? core slot).bind fun g => g.thread? lane with
  | none => notReady s
  | some t =>
    if p t.st then .next (s.mapLanes core slot (1#64 <<< lane) fun u => { u with st := .ready, since := s.cycle + 1 })
    else notReady s

/-- R173: a sleep's count has run out. -/
def execSleepExpiry (core slot lane : Nat) (s : State) : Out :=
  wakeLane core slot lane (fun st => match st with
    | .sleeping w => decide (w ≤ s.cycle)
    | _ => false) s

/-- R182: a `wfe` may end at any time. -/
def execWfeWake (core slot lane : Nat) (s : State) : Out :=
  wakeLane core slot lane (fun st => match st with
    | .wfe _ => true
    | _ => false) s

/-! ## Reconvergence frames in memory (R175, R177) -/

/-- What an access to a frame in memory that cannot be made now comes to, with the kind of the access (R177, R187). -/
abbrev FrameStop : Type := AKind × Plan

/-- The 32 bytes of a frame as a number (R175). -/
def Frame.image (f : Frame) : Nat :=
  bits f.label 63 2 * 4 + at_ f.members.toNat 64 + at_ f.arrived.toNat 128 + at_ f.depth 192 + at_ f.gw 208

/-- A frame from its image; bits at or above gw are ignored. -/
def Frame.ofImage (gw x : Nat) : Frame :=
  let b : BitVec 256 := BitVec.ofNat 256 x
  { label := BitVec.ofNat 64 (bits b 63 2 * 4), members := BitVec.ofNat 64 (bits b 127 64) &&& lowLanes gw,
    arrived := BitVec.ofNat 64 (bits b 191 128) &&& lowLanes gw, gw := bits b 215 208, depth := bits b 207 192 }

/-- Where the frame of a depth lives while it is spilled. -/
def Group.frameAddr (g : Group) (n : Nat) : DWord := BitVec.ofNat 64 (bits g.rcvbase 63 7 * 128 + 32 * (n - 1))

/-- Frames of a group at work, newest first, each with its image in memory if it was read from there; `unread` frames below
them are still only in memory. `bad` is the fault of a frame whose bytes were not good, which ranks after those of the accesses
(R187). -/
structure FView where
  st     : State
  fs     : List (Frame × Option Nat)
  unread : Nat
  bad    : Option FaultInfo
  deriving DecidableEq, Repr

/-- The hardware frames. -/
def frameView (s : State) (g : Group) : FView :=
  { st := s, fs := g.frames.map fun f => (f, none), unread := g.rcvdepth - g.frames.length, bad := none }

/-- The entries of the side log that an access to a frame at a translated address finds: what the acting thread has logged there,
and the group's spills (R177, R218). -/
def State.frameLog (s : State) (p : Poster) (a : DWord) : List LogEnt :=
  s.slog.filter fun e => e.core == p.core && e.slot == p.slot && (e.lane == p.lane || e.typ == 2) && e.overlaps a 32

/-- The newest logged value of a byte among entries. -/
def loggedIn (es : List LogEnt) (a : Nat) : Option Byte :=
  ((es.filter fun e => e.typ != 1 && e.addr.toNat ≤ a && a < e.addr.toNat + e.bytes.length).getLast?).bind
    fun e => e.bytes[a - e.addr.toNat]?

/-- A fault of an access to a frame at an address, or of the frame found there (R177, R299). -/
def State.frameFault (s : State) (p : Poster) (c : FaultCode) (a : DWord) : FaultInfo :=
  { code := c, acc := 5, addr := a, addr2 := if bits a 63 56 == 0xF4 then (s.logAddr p a).getD 0 else 0 }

/-- The bytes of a frame in memory, and whether they carry poison; logged bytes come from the log (R177, R218). -/
def State.frameBytes (s : State) (p : Poster) (a : DWord) : Except FrameStop (State × List Byte × Bool) :=
  let log (b : DWord) : List (Option Byte) := (List.range 32).map fun i => loggedIn (s.frameLog p b) (b.toNat + i)
  let logged := ((s.logAddr p a).map log).getD (List.replicate 32 none)
  if ((s.logAddr p a).map fun b => (s.frameLog p b).any (·.typ == 1)) == some true then .error (.refill, .onLog)
  else if logged.all (·.isSome) then .ok (s, logged.map (·.getD 0), false)
  else match s.planWhere .refill a 32 (s.resolve p a 32 .refill) with
    | .go w =>
      let (s1, bs, pois) := s.readAt p a 32 (fun c => c) w
      .ok (s1, (logged.zip bs).map fun q => q.1.getD q.2, pois)
    | pl => .error (.refill, pl)

/-- The worse of two faults of frames' bytes: POISON ranks before RCV_BAD, and of one code the first read is told (R187). -/
def worseFrame (o : Option FaultInfo) (i : FaultInfo) : FaultInfo :=
  match o with
  | none => i
  | some j => if i.code == .poison && j.code != .poison then i else j

/-- Read the newest frame that is only in memory, as if by a lane; its checks and faults (R177). One that is not good stands for
a frame without members. DESIGN CHOICE (log entry 85): bits 1..0 of the frame, which the device writes as 0 and the
specification does not call reserved, are not checked. -/
def FView.readOne (g : Group) (lane : Nat) (v : FView) : Except FrameStop FView :=
  let p := g.poster lane
  let a := g.frameAddr v.unread
  let spoilt (s : State) (c : FaultCode) : FView :=
    let f : Frame := { label := 0, members := 0, arrived := 0, gw := g.gw, depth := v.unread }
    { st := s, fs := v.fs ++ [(f, some f.image)], unread := v.unread - 1, bad := some (worseFrame v.bad (s.frameFault p c a)) }
  let check (s : State) (x : Nat) : FView :=
    let f := Frame.ofImage g.gw x
    if f.gw != g.gw || f.depth != v.unread || x / 2 ^ 216 != 0 then spoilt s .rcvBad
    else { v with st := s, fs := v.fs ++ [(f, some x)], unread := v.unread - 1 }
  match v.st.frameBytes p a with
  | .error e => .error e
  | .ok (s1, bs, pois) =>
    .ok (if pois then
        if g.kcls == .n then check s1 (Config.free 256 s1.tick (120000 + v.unread)).toNat else spoilt s1 .poison
      else check s1 (leNat bs))

/-- Read frames from memory until a condition holds or none is left. -/
def FView.readUntil (g : Group) (lane : Nat) (enough : FView → Bool) : Nat → FView → Except FrameStop FView
  | 0, v => .ok v
  | n + 1, v =>
    if enough v || v.unread == 0 then .ok v
    else match v.readOne g lane with
      | .ok w => w.readUntil g lane enough n
      | .error e => .error e

/-- The newest frame that has a lane as a member (R175). -/
def FView.own (v : FView) (lane : Nat) : Option (Frame × Option Nat) := v.fs.find? fun f => laneBit f.1.members lane

/-- Change the own frame of a lane, or close it where it stands. -/
def setOwn (lane : Nat) (k : Frame → Option Frame) : List (Frame × Option Nat) → List (Frame × Option Nat)
  | [] => []
  | f :: fs =>
    if laneBit f.1.members lane then
      match k f.1 with
      | some x => (x, f.2) :: fs
      | none => fs
    else f :: setOwn lane k fs

/-- Store a frame's image in memory, as if by a lane. A translation fault of a page that the thread's log already holds
goes to the log; `log` allows one that it does not hold. Where the log cannot take the frame, the fault is the cohort's (R177,
R218). -/
def storeFrame (s : State) (g : Group) (lane : Nat) (log : Bool) (a : DWord) (x : Nat) (pc : DWord) : Except FrameStop State :=
  let p := g.poster lane
  let bad (c : FaultCode) : Except FrameStop State := .error (.spill, .fault (s.frameFault p c a))
  match s.planStore p a 32 .spill with
  | .go w => .ok (s.writeAt p (toBytes x 32) w)
  | .log c b _ =>
    let e : LogEnt := { core := g.core, slot := g.slot, lane := lane, addr := b, seq := 0, typ := 2, aop := 0, wd := false
                        bytes := toBytes x 32, ord := 0, scp := 0, kcls := g.kcls, stk := bits a 63 56 == 0xF4 }
    if (log || s.logHolds p b 32) && 0 < s.logFree g.core then .ok ((s.logFirst g lane c e pc).logAppend e) else bad c
  | .onLog =>
    match s.resolve p a 32 .spill with
    | .fault i => bad i.code
    | _ => bad .pageMiss
  | pl => .error (.spill, pl)

/-- Does a frame release its waiters (R176)? -/
def Frame.releases (f : Frame) (exited : DWord) : Bool :=
  f.arrived != 0#64 && (f.members &&& ~~~(f.arrived ||| exited)) == 0#64

/-- Released lanes and their labels, and the frame afterwards. -/
def Frame.released (exited : DWord) (f : Frame) : Frame × Option (DWord × DWord) :=
  if f.releases exited then ({ f with members := f.arrived, arrived := 0 }, some (f.arrived, f.label)) else (f, none)

/-- Lanes of a group that have exited. -/
def Group.exitedMask (g : Group) : DWord := laneMask ((g.threads.filter fun t => t.st == .exited).map (·.lane))

/-- Write back the frames that stay in memory and have changed; `n` is the depth of the first. -/
def writeBack (g : Group) (lane : Nat) (pc : DWord) : List (Frame × Option Nat) → Nat → State → Except FrameStop State
  | [], _, s => .ok s
  | (f, o) :: fs, n, s =>
    if o.map (Frame.ofImage g.gw) == some f then writeBack g lane pc fs (n - 1) s
    else match storeFrame s g lane false (g.frameAddr n) f.image pc with
      | .ok u => writeBack g lane pc fs (n - 1) u
      | .error e => .error e

/-- Finish a frame operation: the release check over the frames at work, the stack renumbered, its eight newest frames in
hardware and the others in memory (R176, R177). The faults of a frame's bytes rank after those of every access (R187). DESIGN
CHOICE (log entry 100): the check covers the frame that `rcv.pop` leaves on top or refills, whose members may all have arrived
by a program's change. -/
def FView.finish (g : Group) (lane : Nat) (pc : DWord) (exited : DWord) (v : FView) : Except FrameStop State :=
  match v.readUntil g lane (fun w => 8 ≤ w.fs.length) v.unread with
  | .error e => .error e
  | .ok w =>
    let done := w.fs.map fun f => (f.1.released exited, f.2)
    let depth := done.length + w.unread
    let fs := (done.zip (List.range done.length)).map fun q => ({ q.1.1.1 with depth := depth - q.2 }, q.1.2)
    let woken := done.filterMap fun f => f.1.2
    match writeBack g lane pc (fs.drop 8) (depth - 8) w.st, w.bad with
    | .error e, _ => .error e
    | .ok _, some i => .error (.refill, .fault i)
    | .ok s1, none =>
      let keep (h : Group) : Group := { h with frames := (fs.take 8).map (·.1), rcvdepth := depth }
      let s2 := match s1.group? g.core g.slot with
        | some h => s1.putGroup (keep h)
        | none => s1
      .ok (woken.foldl (fun u q => resumeAt u g.core g.slot (q.1 &&& ~~~exited) fun _ => q.2 + 4#64) s2)

/-- A fault of some threads of a cohort at an instruction that executes once for it: one cohort record on which those
threads park (R187, R300). -/
def raisePart (s : State) (g : Group) (bad : DWord) (i : FaultInfo) : State :=
  if bad == s.cur.lanes then raiseMask s g bad i s.cur.words
  else
    let rest := laneMask (((g.inMask bad).filter fun t => t.logRec.isNone).map (·.lane))
    let own := (g.inMask bad).filter fun t => t.logRec.isSome
    let s1 := own.foldl (fun u t => parkOnLog u g t.lane) s
    if rest == 0#64 then s1
    else
      let n := s1.freeFaultSlot g.core
      let pc := match g.inMask s.cur.lanes with
        | t :: _ => t.pc
        | [] => 0
      let lane := ((g.inMask s.cur.lanes).map (·.lane)).headD 0
      (s1.postFault g.core (faultRec g lane true i pc s.cur.lanes (s.cur.lanes &&& ~~~rest) s.cur.words)).mapLanes g.core
        g.slot rest (parkOn n)

/-- What a frame operation does when an access to a frame cannot be made: it faults for the cohort, of which `bad` raise
RCV_BAD that needs no access, or waits (R177, R187). -/
def frameStop (s : State) (g : Group) (lane : Nat) (bad : DWord) (e : FrameStop) : Out :=
  match e.2 with
  | .fault i =>
    let s1 := if bad == 0#64 then s else raisePart s g bad (.plain .rcvBad)
    .next ((raisePart s1 g (s.cur.lanes &&& ~~~bad) i).dropWalks (g.poster lane))
  | .walk sup v => startWalks s e.1 [(g.poster lane, .walk sup v)]
  | _ => notReady s

/-! ## The frame instructions (R176) -/

/-- The lowest lane of the cohort and its `pc`. -/
def leadOf (s : State) (g : Group) : Nat × DWord :=
  match g.inMask s.cur.lanes with
  | t :: _ => (t.lane, t.pc)
  | [] => (0, 0)

/-- R176, R177: push a frame, spilling the oldest in hardware from depth 8 on. -/
def execRcvPush (o : BitVec 14) (lit : Option Imm) (s : State) : Out :=
  onGroup s fun g =>
    let (lane, pc) := leadOf s g
    if g.rcvdepth == 65535 then raiseCohort s g (.plain .rcvBad)
    else
      let label := brTarget pc o lit &&& ~~~3#64
      let f : Frame := { label := label, members := s.cur.lanes, arrived := 0, gw := g.gw, depth := g.rcvdepth + 1 }
      let push (u : State) (keep : List Frame) : Out :=
        match u.group? g.core g.slot with
        | none => notReady s
        | some h => .next ((u.putGroup (movePast s { h with frames := f :: keep, rcvdepth := g.rcvdepth + 1 })).dropWalks
            (g.poster lane))
      match if 8 ≤ g.rcvdepth then g.frames.getLast? else none with
      | none => push s g.frames
      | some old =>
        match storeFrame s g lane true (g.frameAddr old.depth) old.image pc with
        | .ok u => push (u.count g.core g.world.toNat 0x17 1) g.frames.dropLast
        | .error e => frameStop s g lane 0 e

/-- What own frames say to the lanes of a cohort, whose lowest is `lead`: the fault of each that may not go on. -/
def ownFault (g : Group) (v : FView) (lead : Nat) (label : Option DWord) (lane : Nat) : Option FaultInfo :=
  match v.own lane with
  | none => some (.plain .rcvBad)
  | some (f, o) =>
    match label with
    | none => none
    | some a =>
      if f.label == a then none
      else if o.isNone then some (.plain .rcvBad)
      else some (v.st.frameFault (g.poster lead) .rcvBad (g.frameAddr f.depth))

/-- A frame instruction on the own frames of the cohort's threads: `k` changes the frame of a lane or closes it, and the
threads that go on become `after`. -/
def ownFrames (s : State) (g : Group) (label : Option DWord) (k : Nat → Frame → Option Frame) (after : Thread → Thread) : Out :=
  let (lane, pc) := leadOf s g
  let lanes := (g.inMask s.cur.lanes).map (·.lane)
  let v0 := frameView s g
  let early := laneMask (lanes.filter fun l =>
    match v0.own l with
    | none => v0.unread == 0
    | some _ => (ownFault g v0 lane label l).isSome)
  match v0.readUntil g lane (fun v => lanes.all fun l => (v.own l).isSome) v0.unread with
  | .error e => frameStop s g lane early e
  | .ok v =>
    let faults := lanes.filterMap fun l => (ownFault g v lane label l).map fun i => (l, i)
    let good := lanes.filter fun l => !(faults.any fun f => f.1 == l)
    let fs := good.foldl (fun fs l => setOwn l (k l) fs) v.fs
    let st1 := v.st.mapLanes g.core g.slot (laneMask good) after
    match ({ v with st := st1, fs := fs } : FView).finish g lane pc g.exitedMask with
    | .error e => frameStop s g lane early e
    | .ok u =>
      let infos := (faults.map (·.2)).eraseDups
      .next ((infos.foldl (fun w i =>
        raisePart w g (laneMask ((faults.filter fun f => f.2 == i).map (·.1))) i) u).dropWalks (g.poster lane))

/-- R176: arrive at the own frame's label. -/
def execRcvWait (s : State) : Out :=
  onGroup s fun g =>
    ownFrames s g (some (leadOf s g).2) (fun l f => some { f with arrived := f.arrived ||| 1#64 <<< l })
      fun t => { t with st := .atRcv, bpSkip := false }

/-- R176: close the newest frame for every member. -/
def execRcvPop (s : State) : Out :=
  onGroup s fun g =>
    let (lane, pc) := leadOf s g
    match g.frames with
    | [] => raiseCohort s g (.plain .rcvBad)
    | f :: _ =>
      if (s.cur.lanes &&& ~~~f.members) != 0#64 then raiseCohort s g (.plain .rcvBad)
      else
        let v := frameView (s.putGroup (movePast s g)) g
        match { v with fs := v.fs.drop 1 }.finish g lane pc g.exitedMask with
        | .error e => frameStop s g lane 0 e
        | .ok u => .next (u.dropWalks (g.poster lane))

/-- R176: leave the own frame, which closes with its last member. -/
def execRcvDrop (s : State) : Out :=
  onGroup s fun g =>
    let leave (l : Nat) (f : Frame) : Option Frame :=
      let m := f.members &&& ~~~(1#64 <<< l)
      if m == 0#64 then none else some { f with members := m }
    ownFrames s g none leave s.past

/-! ## Exit (R173, R177) -/

/-- Records delivered to a group of a core become undelivered again (R298). -/
def State.undeliver (s : State) (core slot : Nat) : State :=
  { s with
    easel := s.easel.map fun q => if q.core == core && q.delivered == some slot then { q with delivered := none } else q
    faultq := s.faultq.map fun q => if q.core == core && q.delivered == some slot then { q with delivered := none } else q }

/-- A group slot gets another number wherever what is under way names it. -/
def State.renameSlot (s : State) (core old new : Nat) : State :=
  let n (k : Nat) : Nat := if k == old then new else k
  let p (x : Poster) : Poster := if x.core == core then { x with slot := n x.slot } else x
  let parts (b : Poster) (l : List (Nat × Nat × Nat × Nat)) : List (Nat × Nat × Nat × Nat) :=
    if b.core == core then l.map fun q => (q.1, n q.2.1, q.2.2) else l
  { s with
    groups := s.groups.map fun g => if g.core == core then { g with slot := n g.slot } else g
    slog := s.slog.map fun e => if e.core == core then { e with slot := n e.slot } else e
    flights := s.flights.map fun f => if f.core == core then { f with slot := n f.slot } else f
    walks := s.walks.map fun w => { w with by_ := p w.by_ }
    icache := s.icache.map fun l => { l with by_ := p l.by_ }
    prefs := s.prefs.map fun f => { f with by_ := p f.by_ }
    mcmds := s.mcmds.map fun c => { c with by_ := p c.by_, parts := parts c.by_ c.parts }
    joints := s.joints.map fun c => { c with by_ := p c.by_, parts := parts c.by_ c.parts }
    ccmds := s.ccmds.map fun c => { c with by_ := p c.by_ }
    ncmds := s.ncmds.map fun c => { c with by_ := p c.by_ }
    ringq := s.ringq.map fun r => { r with by_ := p r.by_ }
    errs := s.errs.map fun m => { m with place := placeInSlot m.place core old new } }

/-- What follows when threads of a group have exited: barriers of its team and cluster complete, and a group that has
ended gives up its frames, its service, the records delivered to it and its slot (R173, R294, R298, R334, R398, R399). -/
def State.afterExit (s : State) (core slot : Nat) : State :=
  match s.group? core slot with
  | none => s
  | some g =>
    let s1 := s.checkBars core slot g.team
    if g.live.isEmpty then
      let s2 := (s1.putGroup { g with frames := [], rcvdepth := 0, service := none }).undeliver core slot
      { s2.renameSlot core slot (slot % 512 + 512 * (s2.fresh + 1)) with fresh := s2.fresh + 1 }
    else s1

/-- R173: the cohort's threads exit. -/
def execExit (s : State) : Out :=
  onGroup s fun g =>
    let (lane, pc) := leadOf s g
    let g1 := g.mapThreads fun t => if laneBit s.cur.lanes t.lane then { t with st := .exited } else t
    let s1 := s.putGroup g1
    if g1.live.isEmpty then .next (s1.afterExit g.core g.slot)
    else
      let v := frameView s1 g
      match v.readUntil g lane (fun _ => false) v.unread with
      | .error e => frameStop s g lane 0 e
      | .ok w =>
        match w.finish g lane pc g1.exitedMask with
        | .error e => frameStop s g lane 0 e
        | .ok u => .next ((u.afterExit g.core g.slot).dropWalks (g.poster lane))

/-! ## System instructions (R179 to R184) -/

/-- Argument `k` of a call, `v(2k):v(2k+1)`, captured without consuming it. Registers that the group does not have read
as any value. -/
def callArg (tick : Nat) (g : Group) (t : Thread) (k : Nat) : Val :=
  let reg (n : Nat) : Reg :=
    if n < g.nreg then readReg tick g t n
    else { val := Config.free 32 tick (130000 + t.lane * 64 + n), taint := false, poison := false, wait := [] }
  joinRegs (reg (2 * k)) (reg (2 * k + 1))

/-- The record of a thread's `ecall` or `wcall` (R294, R295). -/
def callRec (tick : Nat) (g : Group) (t : Thread) (w : Bool) (num : Nat) : EaselRec :=
  let args := (List.range 6).map (callArg tick g t)
  { a := args.map fun v => v.val.setWidth 64, berr := 0, bcnt := 0,
    apoi := BitVec.ofNat 6 ((List.range 6).foldl (fun n k => n + if (args.getD k (Val.const 0)).poison then 2 ^ k else 0) 0),
    kind := if w then 2 else 1, num := num, world := g.world, dest := w, gslot := g.slot, lane := t.lane, priv := g.priv,
    cls := g.kcls, ginst := g.ginst }

/-- Post a thread's call record, or stall it at the call (R180, R297). -/
def State.postCall (s : State) (g : Group) (w : Bool) (num batch : Nat) (t : Thread) : State :=
  let m : DWord := 1#64 <<< t.lane
  if s.easelRoom g.core g.world.toNat then
    let (u, n) := s.putEasel g.core true batch (g.team, g.gid) (callRec s.tick g t w num)
    u.mapLanes g.core g.slot m fun x => { x with st := .parkedEasel n false, bpSkip := false }
  else s.mapLanes g.core g.slot m fun x => { x with st := .ecallStall w num batch, bpSkip := false }

/-- `ecall` and `wcall`: a release that waits for the threads' side logs, and then a record each (R180, R218). -/
def callIssue (w : Bool) (num : Nat) (s : State) : Out :=
  onGroup s fun g =>
    if (if w then g.priv == .u || (g.priv == .f && g.service.isSome) else g.priv == .f || (g.priv == .s && g.service.isSome))
    then raiseCohort s g (.plain .priv)
    else
      let run := g.inMask s.cur.lanes
      if run.any fun t => s.logPending g t.lane || (List.range 6).any fun k => !(callArg s.tick g t k).wait.isEmpty then
        notReady s
      else
        let s0 := { s with fresh := s.fresh + 1 }
        .next (run.foldl (fun u t => u.postCall g w num s.fresh t) s0)

/-- R180: call the world's supervisor. -/
def execEcall (n : Imm8) (s : State) : Out := callIssue false n.toNat s
/-- R180: call firmware. -/
def execWcall (n : Imm8) (s : State) : Out := callIssue true n.toNat s

/-- The threads of a group that are stalled at a call, lowest lane first. -/
def Group.stalled (g : Group) : List Thread :=
  g.threads.filter fun t => match t.st with
    | .ecallStall _ _ _ => true
    | _ => false

/-- A stalled thread posts its record, or stays stalled (R180). -/
def State.retryCall (g : Group) (s : State) (t : Thread) : State :=
  match t.st with
  | .ecallStall w num b => s.postCall g w num b t
  | _ => s

/-- R180: the stalled threads of a group, of which `lane` is the lowest, retry once there is room, and as many post as there is
room for: together, as no `pop` delivers a part of what they post (R443). -/
def execEcallRetry (core slot lane : Nat) (s : State) : Out :=
  match s.group? core slot with
  | none => notReady s
  | some g =>
    if (g.stalled.map (·.lane)).head? == some lane && !g.frozen && !g.dead && s.easelRoom core g.world.toNat then
      .next (g.stalled.foldl (State.retryCall g) s)
    else notReady s

/-- The record of a BREAK or TRAP of a cohort (R295). -/
def breakRec (g : Group) (kind num lane : Nat) (pc m : DWord) (hw : Bool) : EaselRec :=
  { a := [pc, m, BitVec.ofNat 64 hw.toNat], berr := 0, bcnt := 0, apoi := 0, kind := kind, num := num, world := g.world,
    dest := g.priv != .u, gslot := g.slot, lane := lane, priv := g.priv, cls := g.kcls, ginst := g.ginst }

/-- Post a BREAK or TRAP record and park the cohort on it; without room the cohort is not ready (R181, R297). -/
def breakIssue (s : State) (g : Group) (kind num : Nat) (m : DWord) (hw : Bool) (k : State → State) : Out :=
  match g.inMask m with
  | [] => notReady s
  | t :: _ =>
    if !s.easelRoom g.core g.world.toNat then notReady s
    else
      let (u, n) := s.putEasel g.core true s.fresh (g.team, g.gid) (breakRec g kind num t.lane t.pc m hw)
      .next (k (u.mapLanes g.core g.slot m fun x => { x with st := .parkedEasel n true, bpSkip := false }))

/-- R181: a breakpoint in the program. -/
def execEbreak (n : Imm8) (s : State) : Out := onGroup s fun g => breakIssue s g 3 n.toNat s.cur.lanes false id
/-- R181: a trap. -/
def execTrap (n : Imm8) (s : State) : Out := onGroup s fun g => breakIssue s g 4 n.toNat s.cur.lanes false id

/-- R174: discard every line of the core's instruction cache. -/
def execFenceI (s : State) : Out :=
  onGroup s fun g =>
    let s1 := { s with icache := s.icache.filter fun l => l.core != g.core }
    .next (s1.putGroup (movePast s1 g))

/-- Perform entries of a side log whose pages are mapped, in order; none while one has to wait (R184). -/
def State.performAll : List LogEnt → State → Option State
  | [], s => some s
  | e :: es, s =>
    match s.group? e.core e.slot with
    | none => State.performAll es s
    | some g =>
      match s.perform (g.poster e.lane) e with
      | .done w => State.performAll es w
      | .later => none
      | _ => State.performAll es s

/-- The side log of a core that halts: entries whose pages are mapped are performed, the rest discarded (R184). None while one
waits for a walk in flight, whose end tells whether its page is mapped (R367). -/
def State.drainLog (s : State) (core : Nat) : Option State :=
  (State.performAll (s.slog.filter fun e => e.core == core) s).map fun u =>
    { u with slog := u.slog.filter fun e => e.core != core }

/-- R184, R275: the core issues nothing more, and its open joint commands are discarded. -/
def execHalt (s : State) : Out :=
  onGroup s fun g =>
    atLevel s g .f <|
      match (s.putGroup (movePast s g)).drainLog g.core with
      | none => notReady s
      | some s1 =>
        let s2 := { s1 with joints := s1.joints.filter fun j => j.by_.core != g.core }
        .next (s2.setCore { s2.core g.core with halted := true })

/-! ## Breakpoints (R185) -/

/-- Breakpoint registers that match an address in a group. -/
def State.breaksAt (s : State) (g : Group) (pc : DWord) : List Nat :=
  let c := s.core g.core
  if g.priv != .u || bits c.bpc 21 16 != g.world.toNat || g.service.isSome then []
  else (List.range 4).filter fun n => bitAt c.bpc n && bits (c.bpa.getD n 0) 63 2 == bits pc 63 2

end Sys2Proof.Machine
end

