-- ==== Sys2Proof/Machine/Matrix.lean ====
section
/-! DEFINITION. The matrix engine: `mrdy`, matrix posts, power tokens, and commands that start, run and complete (R46 to R48,
R261 to R275, R414). -/

namespace Sys2Proof.Machine

/-! ## The arithmetic of an element (R46 to R48) -/

/-- A sum of products in progress: not a number, an infinity, or an exact dyadic `x · 2^e` with the sign of its zero. -/
inductive Exact where
  | nan
  | inf (neg : Bool)
  | fin (x : Int) (e : Int) (negZero : Bool)
  deriving DecidableEq, Repr

/-- A dyadic sum. -/
def dyadicAdd (x : Int) (e : Int) (y : Int) (f : Int) : Int × Int :=
  let m := min e f
  (x * 2 ^ (e - m).toNat + y * 2 ^ (f - m).toNat, m)

/-- An exact product of two elements. -/
def exactMul (fa fb : FF) (a b : Nat) : Exact :=
  match fa.read a, fb.read b with
  | .nan _, _ => .nan
  | _, .nan _ => .nan
  | .inf s, .inf t => .inf (s != t)
  | .inf s, .fin t m _ => if m == 0 then .nan else .inf (s != t)
  | .fin s m _, .inf t => if m == 0 then .nan else .inf (s != t)
  | .fin s m e, .fin t n f =>
    let x : Int := ((m * n : Nat) : Int)
    .fin (if s != t then -x else x) (e + f) (s != t)

/-- Add a product to a sum (R47). -/
def exactAdd (a b : Exact) : Exact :=
  match a, b with
  | .nan, _ => .nan
  | _, .nan => .nan
  | .inf s, .inf t => if s == t then .inf s else .nan
  | .inf s, _ => .inf s
  | _, .inf t => .inf t
  | .fin x e z, .fin y f w =>
    let (u, g) := dyadicAdd x e y f
    .fin u g (z && w)

/-- The f32 bits of a chunk's sum, scaled by `2^k` (R46, R47). -/
def chunkBits (x : Exact) (k : Int) : Nat :=
  match x with
  | .nan => FF.f32.nan
  | .inf s => FF.f32.signBit s + FF.f32.inf
  | .fin m e z => if m == 0 then FF.f32.signBit z else (roundTo .f32 .rne false (decide (m < 0)) m.natAbs (e + k)).1

/-- Canonical NaN for any NaN (R47). -/
def canon (f : FF) (x : Nat) : Nat := if (f.read x).isNan then f.nan else x

/-- One chunk into the accumulator: its exact sum, scaled and rounded, and then one rounded addition. A scale byte of 0xFF
makes it a NaN (R47). -/
def chunkStep (fa fb : FF) (acc : Nat) (as bs : List Nat) (sa sb : Nat) : Nat :=
  let sum := (as.zip bs).foldl (fun x p => exactAdd x (exactMul fa fb p.1 p.2)) (.fin 0 0 true)
  let s := if sa == 0xFF || sb == 0xFF then FF.f32.nan else chunkBits sum ((sa : Int) - 127 + ((sb : Int) - 127))
  canon .f32 (fAdd .f32 .rne acc s).1

/-- Chunks of `l` elements in ascending order (R46); the scales are 127, a factor of 1, outside the MX formats. -/
def chunks (fa fb : FF) (l : Nat) : Nat → Nat → List Nat → List Nat → List Nat → List Nat → Nat
  | 0, acc, _, _, _, _ => acc
  | n + 1, acc, as, bs, sa, sb =>
    chunks fa fb l n (chunkStep fa fb acc (as.take l) (bs.take l) (sa.headD 127) (sb.headD 127)) (as.drop l) (bs.drop l)
      (sa.drop 1) (sb.drop 1)

/-- The fused f64 chain (R46). -/
def chain64 (acc : Nat) (as bs : List Nat) : Nat :=
  (as.zip bs).foldl (fun x p => canon .f64 (fFma .f64 .rne false p.1 p.2 x).1) acc

/-- A total in 32 bits, saturated or wrapped (R46). -/
def fit32 (sat : Bool) (x : Int) : Nat := wrap 32 (if sat then clampTo (-(2 ^ 31)) (2 ^ 31 - 1) x else x)

/-- An integer sum of products. -/
def dotInt (as bs : List Int) : Int := (as.zip bs).foldl (fun x p => x + p.1 * p.2) 0

/-- Elements of `w` bits of a row, lowest bits first. -/
def elemsOf (w n : Nat) (row : List Byte) : List Nat :=
  let x := leNat row
  (List.range n).map fun i => x / 2 ^ (w * i) % 2 ^ w

/-- A complex element (C, A and B as bytes of one row and one column) computed over all k (R48). -/
def complexElem (w k : Nat) (sat cj : Bool) (c : Nat) (ra rb : List Byte) : Nat :=
  let part (r : List Byte) (o : Nat) : List Int :=
    let e := elemsOf w (2 * k) r
    (List.range k).map fun i => signedOf w (e.getD (2 * i + o) 0)
  let ar := part ra 0
  let ai := part ra 1
  let br := part rb 0
  let bi := (part rb 1).map fun x => if cj then -x else x
  let re := signedOf 32 (c % 2 ^ 32) + dotInt ar br - dotInt ai bi
  let im := signedOf 32 (c / 2 ^ 32) + dotInt ai br + dotInt ar bi
  fit32 sat re + fit32 sat im * 2 ^ 32

/-- K of a format (R264). -/
def fmtK (fmt : Nat) : Nat :=
  match fmt with
  | 0x0 => 32 | 0x1 => 128 | 0x2 => 128 | 0x9 => 512 | 0xC => 512 | 0xD => 128 | _ => 256

/-- C registers of a format (R264). -/
def fmtRegs (fmt : Nat) : Nat :=
  match fmt with
  | 0x0 => 8 | 0xD => 8 | 0xE => 8 | _ => 4

/-- Blocks per row of an MX format, else 0 (R266). -/
def fmtBlocks (fmt : Nat) : Nat :=
  match fmt with
  | 0x7 => 8 | 0x8 => 8 | 0x9 => 16 | _ => 0

/-- One output element from C, the 256 bytes of its row and column, and their scales (R264, R267). -/
def matElem (fmt : Nat) (sat cj : Bool) (c : Nat) (ra rb sa sb : List Byte) : Nat :=
  let f (fa fb : FF) (w l : Nat) : Nat :=
    let k := fmtK fmt
    chunks fa fb l (k / l) c (elemsOf w k ra) (elemsOf w k rb) (sa.map (·.toNat)) (sb.map (·.toNat))
  let i (w : Nat) (un : Bool) : Nat :=
    let k := fmtK fmt
    let a := (elemsOf w k ra).map (signedOf w)
    let b : List Int := (elemsOf w k rb).map fun x => if un then ((x : Nat) : Int) else signedOf w x
    fit32 sat (signedOf 32 c + dotInt a b)
  match fmt with
  | 0x0 => chain64 c (elemsOf 64 32 ra) (elemsOf 64 32 rb)
  | 0x1 => f .bf16 .bf16 16 16
  | 0x2 => f .f16 .f16 16 16
  | 0x3 => f .e4m3 .e4m3 8 32
  | 0x4 => f .e5m2 .e5m2 8 32
  | 0x5 => f .e4m3 .e5m2 8 32
  | 0x6 => f .e5m2 .e4m3 8 32
  | 0x7 => f .e4m3 .e4m3 8 32
  | 0x8 => f .e5m2 .e5m2 8 32
  | 0x9 => f .e2m1 .e2m1 4 32
  | 0xA => i 8 false
  | 0xB => i 8 true
  | 0xC => i 4 false
  | 0xD => complexElem 8 128 sat cj c ra rb
  | _ => complexElem 4 256 sat cj c ra rb

/-- The value a masked element takes (R268). -/
def maskedElem (fmt tm c : Nat) : Nat :=
  match tm with
  | 0 => 0
  | 1 => if fmt == 0 then 0x3FF0000000000000 else if 0xA ≤ fmt then 1 else 0x3F800000
  | _ => c

/-! ## Fields and regions of a command (R263, R265, R266) -/

/-- The format of a command. -/
def cmdFmt (c : BitVec 96) : Nat := bits c 15 12
/-- Is it a joint command? -/
def cmdJoint (c : BitVec 96) : Bool := bits c 23 22 == 1
/-- Its completion barrier. -/
def cmdCb (c : BitVec 96) : Nat := bits c 19 16
/-- Its first C register. -/
def cmdCreg (c : BitVec 96) : Nat := bits c 4 0
/-- Its first B register, in a joint command. -/
def cmdBreg (c : BitVec 96) : Nat := bits c 42 38

/-- Scratchpad regions of a command: offset and length. -/
def cmdRegions (c : BitVec 96) : List (Nat × Nat) :=
  let ra := if cmdJoint c then 64 else 16
  let nb := fmtBlocks (cmdFmt c)
  [(bits c 63 51 * 128, 256 * ra)] ++ (if cmdJoint c then [] else [(bits c 50 38 * 128, 4096)]) ++
    (if nb == 0 then [] else [(bits c 95 83 * 128, nb * (ra + 16))])

/-! ## Whole-group instructions (R262) -/

/-- Has every thread of the group that has not exited reached the instruction with the cohort? -/
def wholeGroup (s : State) (g : Group) : Bool := laneMask (g.live.map (·.lane)) == s.cur.lanes

/-- Run `k` once the whole group has arrived. -/
def onWhole (s : State) (k : Group → Out) : Out :=
  onGroup s fun g => if wholeGroup s g then k g else notReady s

/-- Do loads of a group still have data to arrive? -/
def State.inFlight (s : State) (g : Group) : Bool := s.flights.any fun f => f.core == g.core && f.slot == g.slot

/-- R270: wait for the group's register writes and scratchpad stores, then arm it. -/
def execMrdy (s : State) : Out :=
  onWhole s fun g =>
    releasing s g <|
      if s.inFlight g then notReady s
      else .next (s.putGroup { movePast s g with armed := true, armDirty := [] })

/-! ## Power tokens (R27, R414) -/

/-- LIMIT and INUSE of a die. -/
def State.pool (s : State) (die : Nat) : Nat × Nat := s.pools.getD die (0, 0)

/-- Set INUSE of a die. -/
def State.setInUse (s : State) (die n : Nat) : State := { s with pools := s.pools.set die ((s.pool die).1, n) }

/-- Return tokens. -/
def State.returnTokens (s : State) (die k : Nat) : State := s.setInUse die ((s.pool die).2 - k)

/-- What a draw of tokens comes to. -/
inductive Draw where
  | got (s : State)
  | queued (s : State)
  | wait
  deriving DecidableEq, Repr

/-- Does a request come before another: in order of arrival, and those of one cycle by device site and then quarter (R27,
R414)? -/
def State.tokBefore (s : State) (a b : TokReq) : Bool :=
  let key (r : TokReq) : Nat := (r.cycle * 512 + s.siteOf r.core) * 4 + r.quarter
  decide (key a < key b)

/-- A request enters its queue. -/
def State.tokEnter (s : State) (r : TokReq) : List TokReq → List TokReq
  | [] => [r]
  | x :: xs => if s.tokBefore r x then r :: x :: xs else x :: s.tokEnter r xs

/-- A group's draw of `k` tokens at its post (R414). -/
def State.draw (s : State) (g : Group) (k : Nat) : Draw :=
  let die := s.dieOf g.core
  let line := s.tokq.filter fun r => r.die == die
  let (lim, used) := s.pool die
  match line.find? fun r => r.core == g.core && r.quarter == g.quarter with
  | some r =>
    if r.slot == g.slot && line.head? == some r && used + k ≤ lim then
      .got ({ s with tokq := s.tokq.erase r }.setInUse die (used + k))
    else .wait
  | none =>
    if line.isEmpty && used + k ≤ lim then .got (s.setInUse die (used + k))
    else
      let r : TokReq := { cycle := s.cycle, die := die, core := g.core, quarter := g.quarter, slot := g.slot, k := k }
      .queued { s with tokq := s.tokEnter r s.tokq }

/-! ## Posting (R271) -/

/-- Does a command break a rule of its fields or of its posting group, which raises MXE_FMT? `follow` is for the follow-on of
a copy, which needs no armed state and must be solo (R267, R271, R279). -/
def matBad (g : Group) (c : BitVec 96) (push follow : Bool) : Bool :=
  let fmt := cmdFmt c
  let n := fmtRegs fmt
  let cr := cmdCreg c
  let br := cmdBreg c
  (push && (!matReserved c || bits c 31 24 != 0xB0)) || g.gw != 64 || (!follow && !g.armed) ||
    (bitAt c 10 && fmt < 0xA) || (bitAt c 11 && fmt < 0xD) || (bitAt c 8 && fmtBlocks fmt != 0) ||
    cr % 4 != 0 || g.nreg < cr + n ||
    (cmdJoint c && (follow || br % 4 != 0 || g.nreg < br + 4 || (br < cr + n && cr < br + 4) || bits c 21 20 != g.quarter))

/-- APERTURE of a command with a region beyond the group's scratchpad (R271). -/
def matBeyond (g : Group) (c : BitVec 96) (follow : Bool) : Option FaultInfo :=
  ((cmdRegions c).find? fun r => g.spadsz < r.1 + r.2).map fun r =>
    if follow then { code := .aperture, acc := 6, addr := BitVec.ofNat 64 (0xF0 * 2 ^ 56 + max r.1 g.spadsz), addr2 := 0 }
    else .plain .aperture

/-- The checks of a command that joins no assembly entry, first fault first (R274). -/
def matCheck (g : Group) (c : BitVec 96) (push follow : Bool) : Option FaultInfo :=
  if matBad g c push follow then some (.plain .mxeFmt) else matBeyond g c follow

/-- A group's registers go into the ownership of a command (R273). -/
def Group.own (g : Group) (id : Nat) (c : BitVec 96) : Group :=
  let o (input : Bool) (lo len : Nat) : Owned :=
    { cmd := id, input := input, lo := lo, len := len, freed := 0, dirty := [], cb := cmdCb c, stage := 0,
      stale := g.armDirty.filter fun r => lo ≤ r.1 && r.1 < lo + len }
  let new := o false (cmdCreg c) (fmtRegs (cmdFmt c)) :: (if cmdJoint c then [o true (cmdBreg c) 4] else [])
  { g with owned := new ++ g.owned, armed := false, armDirty := [] }

/-- Commands of a core's FIFO that have not started. -/
def State.fifo (s : State) (core : Nat) : List MCmd := s.mcmds.filter fun m => m.by_.core == core && !m.running

/-- May a command enter the FIFO (R257)? -/
def State.fifoRoom (s : State) (core : Nat) : Bool := (s.fifo core).length < 16

/-- The part of a command that a group posts. -/
def partOf (g : Group) (c : BitVec 96) : Nat × Nat × Nat × Nat := (g.quarter, g.slot, cmdBreg c, cmdCreg c)

/-- A command with its quarter index and registers blanked: what the posts of one joint command share (R271). -/
def sharedFields (c : BitVec 96) : Nat := c.toNat - at_ (bits c 21 20) 20 - at_ (cmdBreg c) 38 - cmdCreg c

/-- The assembly entry of a group's team and a barrier. -/
def State.joint? (s : State) (g : Group) (c : BitVec 96) : Option Joint :=
  s.joints.find? fun j => j.by_.team == g.team && cmdCb j.cmd == cmdCb c

/-- The posting group goes on. -/
def posted (s : State) (g : Group) (id : Nat) (c : BitVec 96) : State := s.putGroup ((movePast s g).own id c)

/-- A matrix command as it enters the FIFO. -/
def newMCmd (id : Nat) (p : Poster) (c : BitVec 96) (parts : List (Nat × Nat × Nat × Nat)) : MCmd :=
  { id := id, by_ := p, cmd := c, parts := parts, drawn := true, running := false, done := [], dirty := [] }

/-- Does a joint post not fit the entry that it would join: other fields, or its quarter index taken by another group
(R271)? -/
def Joint.clashes (j : Joint) (g : Group) (c : BitVec 96) : Bool :=
  sharedFields j.cmd != sharedFields c || j.parts.any fun q => q.1 == g.quarter && q.2.1 != g.slot

/-- The fault of a post, MXE_FMT before APERTURE (R271, R274). DESIGN CHOICE (log entry 87): a group that already has its part
in the entry and posts with other fields raises MXE_FMT, as the pseudocode of R271 says, and does not wait. -/
def State.postFaults (s : State) (g : Group) (c : BitVec 96) (push : Bool) : Option FaultInfo :=
  if matBad g c push false || (cmdJoint c && (s.joint? g c).any fun j => j.clashes g c) then some (.plain .mxeFmt)
  else matBeyond g c false

/-- R271: a post that passes every check, once it is ready. -/
def matrixEnter (c : BitVec 96) (s : State) (g : Group) : Out :=
  let lane := (g.live.map (·.lane)).headD 0
  let p := g.poster lane
  let taking (d : Draw) (k : State → Out) : Out :=
    match d with
    | .got u => k u
    | .queued u => .next u
    | .wait => notReady s
  if !cmdJoint c then
    if !s.fifoRoom g.core then notReady s
    else taking (s.draw g 1) fun u =>
      .next (posted { u with mcmds := u.mcmds ++ [newMCmd s.fresh p c [partOf g c]], fresh := s.fresh + 1 } g s.fresh c)
  else
    match s.joint? g c with
    | none =>
      if 4 ≤ (s.joints.filter fun j => j.by_.core == g.core).length then notReady s
      else
        let j : Joint := { id := s.fresh, by_ := p, cmd := c, parts := [partOf g c] }
        .next (posted { s with joints := s.joints ++ [j], fresh := s.fresh + 1 } g s.fresh c)
    | some j =>
      if j.parts.any fun q => q.1 == g.quarter then notReady s
      else
        let parts := j.parts ++ [partOf g c]
        if parts.length < 4 then
          let put (x : Joint) : Joint := if x.id == j.id then { x with parts := parts } else x
          .next (posted { s with joints := s.joints.map put } g j.id c)
        else if !s.fifoRoom g.core then notReady s
        else taking (s.draw g 4) fun u =>
          .next (posted { u with joints := u.joints.filter (·.id != j.id),
                                 mcmds := u.mcmds ++ [newMCmd j.id j.by_ j.cmd parts] } g j.id c)

/-- R271: a matrix post. A `push` also waits for the side logs of its cohort (R236). -/
def matrixPost (push : Bool) (c : BitVec 96) (s : State) (g : Group) : Out :=
  match s.postFaults g c push with
  | some i => raiseCohort s g i
  | none => if push then releasing s g (matrixEnter c s g) else matrixEnter c s g

/-- R271: a solo command. -/
def execMma (cmd : BitVec 96) (s : State) : Out := onWhole s (matrixPost false cmd s)
/-- R271: a quarter of a joint command. -/
def execMmaJ (cmd : BitVec 96) (s : State) : Out := onWhole s (matrixPost false cmd s)

/-- `push qm` (R259, R271). DEDUCED (log entry 86): POISON of an operand comes before MXE_FMT for a reserved bit, as R259 and
R274 rank them; the pseudocode of R271 lists the reserved bits first. -/
def pushMatrix (a b : Sel) (s : State) : Out :=
  onWhole s fun g =>
    withS s g 0 a fun x => withS s g 1 b fun y =>
      if bits y 63 32 != 0 then raiseCohort s g (.plain .mxeFmt)
      else matrixPost true (y.extractLsb' 0 32 ++ x) s g

/-! ## Running (R272, R273) -/

/-- A command by its number. -/
def State.mcmd? (s : State) (id : Nat) : Option MCmd := s.mcmds.find? fun m => m.id == id

/-- Arrays a command is using. -/
def MCmd.busy (m : MCmd) : List Nat := (m.parts.map (·.1)).filter fun q => !m.done.contains q

/-- Registers of a command, by group slot: first and length. -/
def MCmd.regs (m : MCmd) (b : Bool) : List (Nat × Nat × Nat) :=
  m.parts.flatMap fun q => (q.2.1, q.2.2.2, fmtRegs (cmdFmt m.cmd)) :: (if b && cmdJoint m.cmd then [(q.2.1, q.2.2.1, 4)] else [])

/-- Registers that a command reads, by group slot: with ZC not its C (R263). -/
def MCmd.reads (m : MCmd) : List (Nat × Nat × Nat) :=
  m.parts.flatMap fun q => (if bitAt m.cmd 9 then [] else [(q.2.1, q.2.2.2, fmtRegs (cmdFmt m.cmd))]) ++
    (if cmdJoint m.cmd then [(q.2.1, q.2.2.1, 4)] else [])

/-- Does an earlier command write a register that a later one reads or writes? -/
def MCmd.before (e m : MCmd) : Bool :=
  (e.regs false).any fun x => (m.regs true).any fun y => x.1 == y.1 && x.2.1 < y.2.1 + y.2.2 && y.2.1 < x.2.1 + x.2.2

/-- Is a line of a command's regions absent? -/
def State.cmdAbsent (s : State) (m : MCmd) : Bool :=
  match s.team? m.by_.team with
  | none => false
  | some t => (cmdRegions m.cmd).any fun r => t.lines.any fun l =>
      !l.failed && r.1 / 128 ≤ l.line && l.line ≤ (r.1 + r.2 - 1) / 128

/-- R272: the FIFO's head starts, or is dropped when its instance has been cancelled (R275). A command that was swapped in
draws its tokens first (R275). -/
def execMmaStart (id : Nat) (s : State) : Out :=
  match s.mcmd? id with
  | none => notReady s
  | some m =>
    let core := m.by_.core
    let die := s.dieOf core
    if (s.fifo core).head? != some m then notReady s
    else if s.cancelled m.by_.world.toNat m.by_.ginst.toNat then
      .next ({ s with mcmds := s.mcmds.erase m }.returnTokens die (if m.drawn then m.parts.length else 0))
    else
      let run := s.mcmds.filter fun x => x.by_.core == core && x.running
      let (lim, used) := s.pool die
      let k := m.parts.length
      if (run.any fun x => x.busy.any fun q => m.busy.contains q) || s.cmdAbsent m || run.any (fun x => x.before m) then
        notReady s
      else if !m.drawn && (lim < used + k || s.tokq.any fun r => r.die == die) then notReady s
      else
        let s1 := if m.drawn then s else s.setInUse die (used + k)
        let go (x : MCmd) : MCmd := if x.id == id then { x with running := true, drawn := true } else x
        .next ({ s1 with mcmds := s1.mcmds.map go }.count core m.by_.world.toNat 0x06 1)

/-- R272: one array of a joint command finishes before the others. -/
def execArrayFinish (id q : Nat) (s : State) : Out :=
  match s.mcmd? id with
  | none => notReady s
  | some m =>
    if m.running && m.busy.contains q && 1 < m.busy.length then
      let fin (x : MCmd) : MCmd := if x.id == id then { x with done := q :: x.done } else x
      .next ({ s with mcmds := s.mcmds.map fin }.returnTokens (s.dieOf m.by_.core) 1)
    else notReady s

/-- What a command reads of its scratchpad and of a joint command's B registers. -/
structure MatIn where
  team : Option Team
  cmd  : MCmd
  tick : Nat
  deriving DecidableEq, Repr

/-- Keys of a stretch of the command's scratchpad. -/
def MatIn.keys (x : MatIn) (off n : Nat) : List Nat :=
  match x.team with
  | some t => (List.range n).map fun i => spadKey t.core (t.base + off + i)
  | none => []

/-- Is a stretch in a failed line? -/
def MatIn.failed (x : MatIn) (off n : Nat) : Bool :=
  match x.team with
  | some t => t.lines.any fun l => l.failed && off / 128 ≤ l.line && l.line ≤ (off + n - 1) / 128
  | none => false

/-- Bytes of an operand, whether they carry poison, and whether any of them is any value. -/
structure Operand where
  bytes  : List Byte
  poison : Bool
  open_  : Bool
  deriving DecidableEq, Repr

/-- An operand in the scratchpad; a failed line counts as poisoned (R267). -/
def MatIn.spad (x : MatIn) (s : State) (off n : Nat) : Operand :=
  let ks := x.keys off n
  { bytes := ks.map s.readKey, poison := s.readsPoison ks || x.failed off n, open_ := ks.any x.cmd.dirty.contains }

/-- Column `jj` of B in the registers of the groups of a joint command (R265). -/
def MatIn.regColumn (x : MatIn) (s : State) (jj : Nat) : Operand :=
  match x.cmd.parts.find? fun q => q.1 == jj / 4 with
  | none => { bytes := [], poison := false, open_ := true }
  | some q =>
    match s.group? x.cmd.by_.core q.2.1 with
    | none => { bytes := [], poison := false, open_ := true }
    | some g =>
      let r := q.2.2.1 + jj % 4
      let regs := (List.range 64).map fun l =>
        ((g.thread? l).bind fun t => t.v[r]?).getD { val := 0, taint := false, poison := false, wait := [] }
      let spoilt := g.owned.any fun o => o.cmd == x.cmd.id && o.input && (o.dirty ++ o.stale).any fun d => d.1 == r
      { bytes := regs.flatMap fun v => toBytes v.val.toNat 4, poison := regs.any (·.poison), open_ := spoilt }

/-- Column `jj` of B. -/
def MatIn.column (x : MatIn) (s : State) (jj : Nat) : Operand :=
  if cmdJoint x.cmd.cmd then x.regColumn s jj else x.spad s (bits x.cmd.cmd 50 38 * 128 + 256 * jj) 256

/-- Row `r` of A, over all arrays. -/
def MatIn.row (x : MatIn) (s : State) (r : Nat) : Operand := x.spad s (bits x.cmd.cmd 63 51 * 128 + 256 * r) 256

/-- Scales of a row of A or a column of B (R266). -/
def MatIn.scales (x : MatIn) (s : State) (b : Bool) (r : Nat) : Operand :=
  let nb := fmtBlocks (cmdFmt x.cmd.cmd)
  let ra := if cmdJoint x.cmd.cmd then 64 else 16
  if nb == 0 then { bytes := [], poison := false, open_ := false }
  else x.spad s (bits x.cmd.cmd 95 83 * 128 + (if b then nb * ra else 0) + nb * r) nb

/-- An element of the result: bits, poison, and whether it is any value. -/
structure MatOut where
  val    : Nat
  poison : Bool
  open_  : Bool
  deriving DecidableEq, Repr

/-- Is element (ii, jj) of the array of quarter index `qi` masked (R268)? -/
def cmdMasked (c : BitVec 96) (qi ii jj : Nat) : Bool :=
  let roff := if cmdJoint c then 16 * qi else 0
  let i : Int := ((16 * bits c 95 84 + roff + ii : Nat) : Int)
  let j : Int := ((16 * bits c 83 72 + jj : Nat) : Int)
  bitAt c 8 && decide (signedOf 8 (bits c 71 64) < j - i)

/-- Element (ii, jj) of a part, from its C (R267, R268). -/
def MatIn.elem (x : MatIn) (qi : Nat) (c : MatOut) (ii jj : Nat) (ra rb sa sb : Operand) : MatOut :=
  let cmd := x.cmd.cmd
  let fmt := cmdFmt cmd
  let c0 : MatOut := if bitAt cmd 9 then { val := 0, poison := false, open_ := false } else c
  if cmdMasked cmd qi ii jj then
    let tm := bits cmd 7 6
    if tm == 2 then c0 else { val := maskedElem fmt tm 0, poison := false, open_ := false }
  else
    { val := matElem fmt (bitAt cmd 10) (bitAt cmd 11) c0.val ra.bytes rb.bytes sa.bytes sb.bytes
      poison := c0.poison || ra.poison || rb.poison || sa.poison || sb.poison
      open_ := c0.open_ || ra.open_ || rb.open_ || sa.open_ || sb.open_ }

/-- The accumulator registers that element `e` of a part lies in: two for 8-register formats. -/
def accRegs (fmt creg e : Nat) : List Nat :=
  if fmtRegs fmt == 8 then [creg + 2 * (e / 64), creg + 2 * (e / 64) + 1] else [creg + e / 64]

/-- C of an element as the command reads it: any value where a register was written after the group's `mrdy` (R270). -/
def MatIn.cOf (x : MatIn) (g : Group) (creg e : Nat) : MatOut :=
  let rs := accRegs (cmdFmt x.cmd.cmd) creg e
  let regs := rs.map fun r =>
    ((g.thread? (e % 64)).bind fun t => t.v[r]?).getD { val := 0, taint := false, poison := false, wait := [] }
  let spoilt := g.owned.any fun o => o.cmd == x.cmd.id && rs.any fun r => (o.dirty ++ o.stale).contains (r, e % 64)
  { val := (regs.getD 0 { val := 0, taint := false, poison := false, wait := [] }).val.toNat +
      at_ ((regs.map (·.val.toNat)).getD 1 0) 32
    poison := regs.any (·.poison), open_ := spoilt }

/-- Write a part's results to its group (R265, R272); a register written while owned gets any value (R141). -/
def MatIn.writePart (x : MatIn) (s : State) (qi slot creg : Nat) : State :=
  match s.group? x.cmd.by_.core slot with
  | none => s
  | some g =>
    let fmt := cmdFmt x.cmd.cmd
    let roff := if cmdJoint x.cmd.cmd then 16 * qi else 0
    let rows := (List.range 16).map fun ii => (x.row s (roff + ii), x.scales s false (roff + ii))
    let cols := (List.range 16).map fun jj => (x.column s jj, x.scales s true jj)
    let none_ : Operand := { bytes := [], poison := false, open_ := true }
    let el (e : Nat) : MatOut :=
      let (ra, sa) := rows.getD (e / 16) (none_, none_)
      let (rb, sb) := cols.getD (e % 16) (none_, none_)
      x.elem qi (x.cOf g creg e) (e / 16) (e % 16) ra rb sa sb
    let dirty (r l : Nat) : Bool := g.owned.any fun o => o.cmd == x.cmd.id && o.dirty.contains (r, l)
    let put (t : Thread) : Thread :=
      { t with v := (List.range 4).foldl (fun v k =>
          let e := 64 * k + t.lane
          let o := el e
          let free := Config.free 64 x.tick (slot * 65536 + e)
          (accRegs fmt creg e).foldl (fun u r =>
            let hi := fmtRegs fmt == 8 && (r - creg) % 2 == 1
            let w : Word := if o.open_ || dirty r t.lane then (if hi then free.extractLsb' 32 32 else free.setWidth 32)
              else BitVec.ofNat 32 (if hi then o.val / 2 ^ 32 else o.val)
            u.set r { val := w, taint := false, poison := o.poison, wait := [] }) v) t.v }
    s.putGroup (g.mapThreads put)

/-- R272: the command's arrays have finished: the rest of its tokens return, its elements are written, and it arrives at its
barrier. -/
def execMmaComplete (id : Nat) (s : State) : Out :=
  match s.mcmd? id with
  | none => notReady s
  | some m =>
    if !m.running then notReady s
    else
      let x : MatIn := { team := s.team? m.by_.team, cmd := m, tick := s.tick }
      let s0 := s.meetErrors m.by_.asEngine ((cmdRegions m.cmd).flatMap fun r => x.keys r.1 r.2)
      let among (l : List (Nat × Nat × Nat)) : ErrPlace → Bool
        | .reg c sl _ n | .base c sl _ n => c == m.by_.core && l.any fun r => r.1 == sl && r.2.1 ≤ n && n < r.2.1 + r.2.2
        | _ => false
      let s1 := (m.parts.foldl (fun u q => x.writePart u q.1 q.2.1 q.2.2.2) (s0.meetRegs m.by_.asEngine (among m.reads))).dropMarks
        (among (m.regs false))
      let s2 := { s1 with mcmds := s1.mcmds.filter fun y => y.id != id }.returnTokens (s.dieOf m.by_.core) m.busy.length
      .next (s2.cbArrive m.by_.team (cmdCb m.cmd) 2 (some id))

end Sys2Proof.Machine
end

