-- ==== Sys2Proof/Machine/Engine.lean ====
section
/-! DEFINITION. What the engines and the scheduler share: the load of a command's descriptor, the stretches of memory that
an engine reads and lands in, and the presence of the scratchpad lines it lands in (R194, R206, R213, R219, R279 to R282). -/

namespace Sys2Proof.Machine

/-! ## The load of a descriptor (R279 steps 2 to 4, R325) -/

/-- One load of `n` bytes by the cohort's lowest thread, under every rule of loads; its faults are the cohort's, with
ACC 6: POISON of the bytes before ALIGN, then the load's own (R279 steps 2 to 4). In an N group poisoned bytes are any bytes
(R102). Nothing is posted from bytes whose glaze check fails (R254). `taint` says that the address is tainted, and the load
then passes L1 by (R243, R255). -/
def commandLoad (s : State) (g : Group) (ea : DWord) (taint : Bool) (n align : Nat) (k : State → List Byte → Out) : Out :=
  let p := g.poster (leadOf s g).1
  let f (c : FaultCode) : FaultInfo := { code := c, acc := 6, addr := ea, addr2 := 0 }
  let skew := ea.toNat % align != 0
  let finish (u : State) (bs : List Byte) (pois : Bool) : Out :=
    if pois && g.kcls != .n then raiseCohort u g (f .poison)
    else if skew then raiseCohort u g (f .align)
    else k u (if pois then (List.range n).map fun i => Config.free 8 s.tick (140000 + i) else bs)
  let read (lo m : Nat) (w : Where) : Out :=
    let (u, bs, pois) := s.readAt p (ea + BitVec.ofNat 64 lo) m (fun c => c && !taint) w
    if s.failsGlaze (Plan.go w).keys then .next u
    else finish u (s.overlay p ea (List.replicate lo 0#8 ++ bs ++ List.replicate (n - lo - m) 0#8)) pois
  match s.planLoad p ea n true with
  | .walk sup v => startWalks s .load [(p, .walk sup v)]
  | .fromLog a => finish s ((List.range n).map fun i => (s.loggedByte p (a.toNat + i)).getD 0) false
  | .part lo m w => read lo m w
  | .go w => read 0 n w
  | .fault i =>
    .next ((raiseMask s g s.cur.lanes (if skew then f .align else { i with acc := 6 }) s.cur.words).dropWalks p)
  | _ => if skew then raiseCohort s g (f .align) else notReady s

/-! ## Stretches of memory -/

/-- Where the bytes of a stretch lie: their keys, and the scratchpad lines among them as team and line. -/
inductive Span where
  | keys (ks : List Nat) (lines : List (Nat × Nat))
  | fault (i : FaultInfo)
  | wait
  deriving DecidableEq, Repr

/-- A stretch cut at 128-byte lines: addresses and lengths. -/
def lineChunks (a : DWord) (n : Nat) : List (DWord × Nat) :=
  let o := a.toNat % 128
  (List.range ((o + n + 127) / 128)).map fun j =>
    let lo := if j == 0 then 0 else 128 * j - o
    (a + BitVec.ofNat 64 lo, min n (128 * (j + 1) - o) - lo)

/-- One chunk. An engine reaches no register and no queue window (R191, log entry 15). DESIGN CHOICE (log entry 82): a row of
`cp`, `cp.mx` or `cp.gx` that lies in the stack window though its base does not, and LOCAL of a network command there, are not
refused, and are the stack of the poster's lane. -/
def State.chunk (s : State) (p : Poster) (a : DWord) (n : Nat) (kind : AKind) : Span :=
  let f : Span := .fault { code := .aperture, acc := kind.acc, addr := a, addr2 := 0 }
  match s.resolveNow p a n kind with
  | .keys ks _ _ none => .keys ks []
  | .keys ks _ _ (some (t, off)) => .keys ks [(t, off / 128)]
  | .fault i => .fault i
  | .queue _ => f
  | .dev _ => f
  | _ => .wait

/-- Two stretches one after the other: the first fault stands. -/
def Span.append (a b : Span) : Span :=
  match a, b with
  | .fault i, _ => .fault i
  | _, .fault i => .fault i
  | .wait, _ => .wait
  | _, .wait => .wait
  | .keys k l, .keys m n => .keys (k ++ m) (l ++ n)

/-- A stretch of `n` bytes. -/
def State.span (s : State) (p : Poster) (a : DWord) (n : Nat) (kind : AKind) : Span :=
  (lineChunks a n).foldl (fun x c => x.append (s.chunk p c.1 c.2 kind)) (.keys [] [])

/-- The state in which the walks for a stretch have been made: what they met is charged (R362). -/
def State.walksFor (s : State) (p : Poster) (a : DWord) (n : Nat) (kind : AKind) : State :=
  (lineChunks a n).foldl (fun u c => (u.reach p c.1 c.2 kind).1) s

/-! ## Reading and landing -/

/-- A line's entry while it is not present. -/
def State.spLine (s : State) (l : Nat × Nat) : Option SpLine := (s.team? l.1).bind fun t => t.lines.find? fun x => x.line == l.2

/-- Is one of the lines absent? -/
def State.absentAmong (s : State) (ls : List (Nat × Nat)) : Bool :=
  ls.any fun l => match s.spLine l with
    | some x => !x.failed
    | none => false

/-- Does a byte of scratchpad lie in a failed line? -/
def State.keyFailed (s : State) (k : Nat) : Bool :=
  s.teams.any fun t => spadKey t.core t.base ≤ k && k < spadKey t.core (t.base + t.size) &&
    t.lines.any fun l => l.failed && l.line == (k - spadKey t.core t.base) / 128

/-- A byte on its way: its value and whether it is poisoned. -/
structure Moved where
  val    : Byte
  poison : Bool
  deriving DecidableEq, Repr

/-- Read bytes for an engine: errors met are charged to its poster, and a failed line reads as poisoned (R206, R280). -/
def State.engineRead (s : State) (p : Poster) (ks : List Nat) : State × List Moved :=
  let s1 := s.meetErrors p.asEngine ks
  (s1, ks.map fun k => { val := s.readKeyFor p.lane k, poison := s1.isPoisoned k || s.badGlaze [k] || s.keyFailed k })

/-- What a write of any agent to keys makes of the pipes in vault segments (R330). -/
def State.spoilPipes (s : State) (ks : List Nat) : State :=
  let seg (k : Nat) : Nat × Nat :=
    ((k - vaultKey 0) / 2 ^ 32 * 144 + (k - vaultKey 0) / 2 ^ 24 % 256, (k - vaultKey 0) % 2 ^ 23 / 65536)
  let spoil (q : Pipe) : Pipe :=
    if ks.any fun k => isVault k && seg k == (q.site, q.seg) then { q with spoilt := true } else q
  if s.pipes.isEmpty then s else { s with pipes := s.pipes.map spoil }

/-- Write bytes for an engine or an agent, poison cleared where whole granules are covered (R219). -/
def State.agentWrite (s : State) (ks : List Nat) (bs : List Byte) : State :=
  match ks with
  | [] => s
  | k0 :: _ =>
    if isFlash k0 then s.flashStore (k0 - flashKey 0) bs
    else ((s.writeKeys ks bs).coverPoison ks).spoilPipes ks

/-- Bytes that have landed in scratchpad lines which are still absent (R194). -/
def State.noteLanded (s : State) (ks : List Nat) : State :=
  let note (t : Team) (l : SpLine) : SpLine :=
    let lo := spadKey t.core t.base + 128 * l.line
    if l.failed then l
    else { l with landed := (List.range 128).filter fun o => l.landed.contains o || ks.contains (lo + o) }
  { s with teams := s.teams.map fun t => { t with lines := t.lines.map (note t) } }

/-- Land bytes: a granule that receives a poisoned byte is poisoned where its class holds poison; N storage receives any
value (R281). -/
def State.land (s : State) (ks : List Nat) (ms : List Moved) : State :=
  let zs := ks.zip ms
  let bs := (List.range zs.length).map fun i =>
    match zs[i]? with
    | some (k, m) => if m.poison && s.clsOf k == .n then Config.free 8 s.tick (150000 + i) else m.val
    | none => 0
  let hurt := (zs.filter (·.2.poison)).flatMap fun z => granule (s.clsOf z.1) z.1
  ((s.agentWrite ks bs).markPoison hurt.eraseDups).noteLanded ks

/-! ## Presence (R194) -/

/-- Change the entry of a line; `none` makes it present. -/
def Team.setLine (t : Team) (n : Nat) (o : Option SpLine) : Team :=
  let rest := t.lines.filter fun l => l.line != n
  { t with lines := match o with
      | some l => l :: rest
      | none => rest }

/-- The scratchpad allocation and offset that an address names. -/
def State.spadAt (s : State) (p : Poster) (a : DWord) : Option (Team × Nat) :=
  match bits a 63 56 with
  | 0xF0 => if bits a 55 20 == 0 then (s.team? p.team).map fun t => (t, bits a 19 0) else none
  | 0xF1 =>
    if bits a 55 28 == 0 then (s.clusterTeam p (bits a 27 24) (bits a 23 20)).map fun t => (t, bits a 19 0) else none
  | _ => none

/-- Scratchpad lines of a stretch, as far as it lies in an allocation. -/
def State.linesAt (s : State) (p : Poster) (a : DWord) (n : Nat) : List (Nat × Nat) :=
  (lineChunks a n).filterMap fun c =>
    (s.spadAt p c.1).bind fun t => if t.2 + c.2 ≤ t.1.size then some (t.1.num, t.2 / 128) else none

/-- A command names lines as its destination: they are absent until it lands. -/
def State.claimLines (s : State) (id : Nat) (ls : List (Nat × Nat)) : State :=
  ls.eraseDups.foldl (fun u l =>
    match u.team? l.1 with
    | none => u
    | some t =>
      let was := t.lines.find? fun x => x.line == l.2
      u.setTeam (t.setLine l.2 (some { line := l.2, failed := false, ties := id :: (was.map (·.ties)).getD [],
                                       landed := (was.map (·.landed)).getD [] }))) s

/-- A command has landed all its bytes of lines: a line that nothing else is to land in is present, and threads that
waited on it go on. -/
def State.landLines (s : State) (id : Nat) (ls : List (Nat × Nat)) : State :=
  let s1 := ls.eraseDups.foldl (fun u l =>
    match u.team? l.1 with
    | none => u
    | some t =>
      match t.lines.find? fun x => x.line == l.2 with
      | none => u
      | some x =>
        let ties := x.ties.erase id
        if !x.ties.contains id then u
        else u.setTeam (t.setLine l.2 (if ties.isEmpty && !x.failed then none else some { x with ties := ties }))) s
  ((ls.map (·.1)).eraseDups).foldl State.wakeLines s1

/-- Lines that wait for a command. -/
def State.linesOf (s : State) (id : Nat) : List (Nat × Nat) :=
  s.teams.flatMap fun t => (t.lines.filter fun l => l.ties.contains id).map fun l => (t.num, l.line)

/-- A command has failed: every line it has not landed whole is failed (R282). -/
def State.failLines (s : State) (id : Nat) : State :=
  let ls := s.linesOf id
  let fail (l : SpLine) : SpLine :=
    if l.ties.contains id then { l with failed := true, ties := l.ties.erase id, landed := [] } else l
  let s1 := { s with teams := s.teams.map fun t => { t with lines := t.lines.map fail } }
  ((ls.map (·.1)).eraseDups).foldl State.wakeLines s1

/-- A command ends with lines that it did not land whole and that have not failed: they stay absent, also when another command
that names them lands (R194, R285, log entry 50). -/
def State.loosen (s : State) (id : Nat) : State :=
  let ties (l : SpLine) : List Nat := if l.ties.all (· == id) then [] else l.ties
  let loose (t : Team) : Team := { t with lines := t.lines.map fun l => { l with ties := ties l } }
  { s with teams := s.teams.map loose }

/-- The easel record of a failed command (R295): its poster, the failure's number, and two words. -/
def failRec (kind num : Nat) (p : Poster) (a : List DWord) : EaselRec :=
  { a := a, berr := 0, bcnt := 0, apoi := 0, kind := kind, num := num, world := p.world, dest := p.priv != .u,
    gslot := p.slot % 512, lane := p.lane, priv := p.priv, cls := p.kcls, ginst := p.ginst }

/-- The first doubleword of bytes as a number. -/
def word512 (bs : List Byte) : BitVec 512 := BitVec.ofNat 512 (leNat bs)

end Sys2Proof.Machine
end

