-- ==== Sys2Proof/Machine/Copy.lean ====
section
/-! DEFINITION. The copy engine: posts, rows that land, completion, failure and follow-ons (R259, R277 to R286). -/

namespace Sys2Proof.Machine

/-! ## The command and its descriptor (R277, R278) -/

/-- KIND of a header. -/
def cpKind (c : BitVec 96) : Nat := bits c 23 22
/-- Does the command arrive at a barrier? -/
def cpCben (c : BitVec 96) : Bool := bitAt c 11
/-- Its barrier. -/
def cpCb (c : BitVec 96) : Nat := bits c 15 12
/-- Its arrival scope. -/
def cpScp (c : BitVec 96) : Nat := bits c 10 7
/-- `.promote`. -/
def cpProm (c : BitVec 96) : Bool := bitAt c 6
/-- Does the team's retirement wait for it? -/
def cpRet (c : BitVec 96) : Bool := bitAt c 5

/-- A header within its legal values; in the `push` form MAJ and DS are fixed (R277). -/
def cpHeaderOk (c : BitVec 96) : Bool :=
  bits c 31 24 == 0xB1 && cpKind c != 3 && bits c 21 16 == 0x3E && bits c 4 0 == 0 &&
  (if cpCben c then 2 ≤ cpScp c && cpScp c ≤ 9 else cpScp c == 0)

/-- Rows of dimension 1. -/
def cpN1 (d : BitVec 512) : Nat := bits d 175 160 + 1
/-- Rows of dimension 2. -/
def cpN2 (d : BitVec 512) : Nat := bits d 191 176 + 1
/-- Bytes per row. -/
def cpN0 (d : BitVec 512) : Nat := bits d 159 128
/-- A signed stride times a count, as an address difference. -/
def stride (d : BitVec 512) (lo n : Nat) : DWord := ((d.extractLsb' lo 32).signExtend 64) * BitVec.ofNat 64 n
/-- Where a row lands. -/
def cpDst (d : BitVec 512) (r : Nat) : DWord :=
  d.extractLsb' 64 64 + stride d 224 (r % cpN1 d) + stride d 288 (r / cpN1 d)
/-- Where a row of `cp` or `cp.mx` comes from. -/
def cpSrc (d : BitVec 512) (r : Nat) : DWord :=
  d.extractLsb' 0 64 + stride d 192 (r % cpN1 d) + stride d 256 (r / cpN1 d)
/-- Address of an element of the index list. -/
def cpIdx (d : BitVec 512) (r : Nat) : DWord := d.extractLsb' 320 64 + BitVec.ofNat 64 (4 * (r % cpN1 d))
/-- Where a row of `cp.gx` comes from, by its index. -/
def cpGather (d : BitVec 512) (i : Word) : DWord :=
  d.extractLsb' 0 64 + i.signExtend 64 * (d.extractLsb' 192 32).signExtend 64
/-- All rows. -/
def cpRows (d : BitVec 512) : Nat := cpN1 d * cpN2 d

/-- COPY_FMT of a descriptor (R279 step 5). -/
def cpDescBad (c : BitVec 96) (d : BitVec 512) : Bool :=
  let gx := cpKind c == 2
  bits d 511 480 != 0 || (cpKind c != 1 && bits d 479 384 != 0) || (!gx && bits d 383 320 != 0) ||
  cpN0 d == 0 || 2 ^ 24 < cpN0 d || (gx && (cpN2 d != 1 || bits d 321 320 != 0))

/-! ## The checks of a post (R279 steps 6 to 9) -/

/-- May a command of a level name an address in this window? -/
def cpWindow (lvl : Priv) (a : DWord) : Bool :=
  match bits a 63 56 with
  | 0x00 | 0xF0 | 0xF1 | 0xF2 => true
  | 0x01 => lvl != .u
  | 0xFE => lvl == .f
  | _ => false

/-- The first byte of a row that lies in the queue window (R191). -/
def inQueueWindow (a : DWord) (n : Nat) : Option DWord :=
  let q := 2 ^ 56 + 2 ^ 56 - 2 ^ 24
  if a.toNat + n ≤ q || 2 ^ 57 ≤ a.toNat then none else some (if a.toNat < q then BitVec.ofNat 64 q else a)

/-- Is an address in a window whose accesses are translated? -/
def globalWindow (a : DWord) : Bool := bits a 63 56 ≤ 1

/-- The faults of one row in an untranslated window that a post looks for. DESIGN CHOICE (log entry 82): a row that strides carry
into the stack window has none, and is the stack of the poster's lane. -/
def State.rowFaults (s : State) (p : Poster) (a : DWord) (n : Nat) (kind : AKind) : List FaultInfo :=
  (lineChunks a n).filterMap fun c =>
    if globalWindow c.1 then none
    else match s.chunk p c.1 c.2 kind with
      | .fault i => some { i with acc := 6, addr2 := 0 }
      | _ => none

/-- Rows whose addresses are known at issue: source and destination of each. -/
def cpKnown (c : BitVec 96) (d : BitVec 512) : List (DWord × AKind) :=
  (List.range (cpRows d)).flatMap fun r =>
    (if cpKind c == 2 then [] else [(cpSrc d r, AKind.load)]) ++ [(cpDst d r, AKind.store)]

/-- The poster as the engine acts for it: `.promote` with the right to it admits every class (R281). -/
def cpPoster (p : Poster) (c : BitVec 96) : Poster := if cpProm c && p.prom then { p with kcls := .p } else p

/-- The first fault of steps 6 to 9. Rows of `cp.gx` are looked at in flight, but for the queue window. -/
def State.cpCheck (s : State) (g : Group) (p : Poster) (c : BitVec 96) (d : BitVec 512) : Option FaultInfo :=
  let f (a : DWord) : FaultInfo := { code := .aperture, acc := 6, addr := a, addr2 := 0 }
  let gx := cpKind c == 2
  let heads := [d.extractLsb' 0 64, d.extractLsb' 64 64] ++ (if gx then [d.extractLsb' 320 64] else [])
  let known := cpKnown c d
  match heads.find? fun a => !cpWindow p.priv a with
  | some a => some (f a)
  | none =>
    let queue := (if gx then (inQueueWindow (d.extractLsb' 320 64) 4).toList else []) ++
      known.filterMap fun k => inQueueWindow k.1 (cpN0 d)
    match queue with
    | a :: _ => some (f a)
    | [] =>
      let early := if gx then [] else known
      let faults := early.flatMap fun k => s.rowFaults (cpPoster p c) k.1 (cpN0 d) k.2
      match faults.filter fun i => i.code == .aperture || i.code == .owner with
      | i :: _ => some i
      | [] =>
        match (early.filter fun k => k.2 == .store).flatMap fun k =>
          if bits k.1 63 56 == 0xFE then [] else (s.rowFaults (cpPoster p c) k.1 (cpN0 d) k.2).filter fun i => i.code == .xclass with
        | i :: _ => some i
        | [] =>
          if cpKind c == 1 then
            (if bits d 407 406 != 0 then some (.plain .mxeFmt) else matCheck g (d.extractLsb' 384 96) true true)
          else none

/-! ## The post (R279, R281, R284) -/

/-- A row's pieces are its parts in the 128-byte lines of its destination; they are numbered by row and part. -/
def pieceBase : Nat := 2 ^ 18

/-- The pieces of a command. -/
def cpPieces (d : BitVec 512) : List Nat :=
  (List.range (cpRows d)).flatMap fun r => (List.range (lineChunks (cpDst d r) (cpN0 d)).length).map fun j => r * pieceBase + j

/-- A group's registers go to a follow-on; the armed state stays (R284). -/
def Group.ownFollow (g : Group) (id : Nat) (f : BitVec 96) : Group :=
  { ({ g with armDirty := [] } : Group).own id f with armed := g.armed, armDirty := g.armDirty }

/-- Commands of a core in the copy FIFO. -/
def State.copyFifo (s : State) (core : Nat) : List CCmd := s.ccmds.filter fun c => c.by_.core == core && !c.flying

/-- R277, R279: a copy post; `ds` is the value of the DS register, and `taint` that of the address. -/
def copyPost (s : State) (g : Group) (c : BitVec 96) (ds : DWord) (taint : Bool) : Out :=
  let p := g.poster (leadOf s g).1
  let ea := ds + c.extractLsb' 32 64
  if 64 ≤ (s.copyFifo g.core).length || (cpKind c == 1 && s.inFlight g) then notReady s
  else commandLoad s g ea taint 64 64 fun u bs =>
    let d := word512 bs
    if cpDescBad c d then raiseCohort u g (.plain .copyFmt)
    else match u.cpCheck g p c d with
      | some i => raiseCohort u g i
      | none =>
        let id := u.fresh
        let cmd : CCmd := { id := id, by_ := p, hdr := c, desc := d, addr := ea, flying := false, todo := [], got := [],
                            put := [], failed := none, ended := false, dirty := [] }
        let g1 := movePast s ((u.group? g.core g.slot).getD g)
        let g2 := if cpKind c == 1 then g1.ownFollow id (d.extractLsb' 384 96) else g1
        let lines := (List.range (cpRows d)).flatMap fun r => u.linesAt p (cpDst d r) (cpN0 d)
        .next ({ u.putGroup g2 with ccmds := u.ccmds ++ [cmd], fresh := id + 1 }.claimLines id lines)

/-- The extended form. -/
def copyIssue (c : BitVec 96) (s : State) : Out :=
  onGroup s fun g => releasing s g <| withS s g 0 (c.extractLsb' 16 6) fun ds => copyPost s g c ds (ssource g (c.extractLsb' 16 6)).taint

/-- R277: a strided copy. -/
def execCp (cmd : BitVec 96) (s : State) : Out := copyIssue cmd s
/-- R284: a copy with a matrix follow-on. -/
def execCpMx (cmd : BitVec 96) (s : State) : Out := copyIssue cmd s
/-- R280: a gather by an index list. -/
def execCpGx (cmd : BitVec 96) (s : State) : Out := copyIssue cmd s

/-- `push qc` (R259, R277). DEDUCED (log entry 47): bits 63..32 of sB that are not 0 raise COPY_FMT. -/
def pushCopy (a b : Sel) (s : State) : Out :=
  onGroup s fun g => releasing s g <|
    withS s g 0 a fun x => withS s g 1 b fun y =>
      let c : BitVec 96 := y.extractLsb' 0 32 ++ x
      if 64 ≤ (s.copyFifo g.core).length then notReady s
      else if bits y 63 32 != 0 || !cpHeaderOk c then raiseCohort s g (.plain .copyFmt)
      else copyPost s g c 0 (ssource g a).taint

/-! ## In flight (R280 to R283) -/

/-- A command by its number. -/
def State.ccmd? (s : State) (id : Nat) : Option CCmd := s.ccmds.find? fun c => c.id == id

/-- Replace a command. -/
def State.setCCmd (s : State) (c : CCmd) : State := { s with ccmds := s.ccmds.map fun x => if x.id == c.id then c else x }

/-- R280: the FIFO's head enters flight, or is dropped with its follow-on when its instance has been cancelled (R285). -/
def execCopyEnterFlight (id : Nat) (s : State) : Out :=
  match s.ccmd? id with
  | none => notReady s
  | some c =>
    let core := c.by_.core
    if (s.copyFifo core).head? != some c then notReady s
    else if s.cancelled c.by_.world.toNat c.by_.ginst.toNat then
      .next ({ s with ccmds := s.ccmds.filter (·.id != id) }.loosen id)
    else if 48 ≤ (s.ccmds.filter fun x => x.by_.core == core && x.flying).length then notReady s
    else .next (s.setCCmd { c with flying := true, todo := cpPieces c.desc })

/-- What a piece comes to before its bytes are read: source and destination, a fault that fails the command, or a
wait. -/
inductive Piece where
  | ready (ks : List Nat) (src : List (Nat × Nat)) (kd : List Nat) (dst : List (Nat × Nat))
  | bad (code : Nat) (a : DWord)
  | wait
  deriving DecidableEq, Repr

/-- Keys of the index element that a row reads (R280). -/
def State.idxKeys (s : State) (c : CCmd) (r : Nat) : List Nat :=
  if cpKind c.hdr != 2 then []
  else match s.span c.by_ (cpIdx c.desc r) 4 .load with
    | .keys ks _ => ks
    | _ => []

/-- A row's source address, with the state after the read of its index and any failure of that read (R282). -/
def State.rowSource (s : State) (c : CCmd) (r : Nat) : State × Except Piece DWord :=
  if cpKind c.hdr != 2 then (s, .ok (cpSrc c.desc r))
  else
    let a := cpIdx c.desc r
    match s.span c.by_ a 4 .load with
    | .fault i => (s, .error (.bad i.code.code i.addr))
    | .wait => (s, .error .wait)
    | .keys ks ls =>
      if s.absentAmong ls then (s, .error .wait)
      else
        let (u, ms) := (s.walksFor c.by_ a 4 .load).engineRead c.by_ ks
        if ms.any (·.poison) then (u, .error (.bad FaultCode.poison.code a))
        else
          let i : Word := BitVec.ofNat 32 (leNat (ms.map (·.val)))
          let open_ := ks.any fun k => c.dirty.contains k || c.put.contains k
          (u, .ok (cpGather c.desc (if open_ then Config.free 32 s.tick r else i)))

/-- A piece of a command. -/
def State.piece (s : State) (c : CCmd) (q : Nat) : State × Piece :=
  let r := q / pieceBase
  let p := cpPoster c.by_ c.hdr
  match s.rowSource c r, (lineChunks (cpDst c.desc r) (cpN0 c.desc))[q % pieceBase]? with
  | (u, .error e), _ => (u, e)
  | (u, .ok _), none => (u, .wait)
  | (u, .ok src), some (d, n) =>
    let a := src + (d - cpDst c.desc r)
    let v := (u.walksFor p a n .load).walksFor p d n .store
    match s.span p a n .load, s.span p d n .store with
    | .fault i, _ => (v, .bad i.code.code i.addr)
    | _, .fault i => (v, .bad i.code.code i.addr)
    | .keys ks ls, .keys kd ld => if s.absentAmong ls then (v, .wait) else (v, .ready ks ls kd ld)
    | _, _ => (v, .wait)

/-- Has every row before a piece's begun without a fault (R282)? -/
def State.rowsBefore (s : State) (c : CCmd) (q : Nat) : Bool :=
  (c.todo.filter fun x => x / pieceBase < q / pieceBase).all fun x => match (s.piece c x).2 with
    | .bad _ _ => false
    | _ => true

/-- Lines of the destination that are whole once a piece has landed: its own, unless a piece that is left will write to it too
(R419). -/
def CCmd.finished (c : CCmd) (row : Nat) : Nat :=
  let lineOf (q : Nat) : Option Nat :=
    ((lineChunks (cpDst c.desc (q / pieceBase)) (cpN0 c.desc))[q % pieceBase]?).map fun x => x.1.toNat / 128
  if (c.todo.erase row).any fun q => lineOf q == lineOf row then 0 else 1

/-- R280, R281: a piece of a row lands. A byte that the command writes twice, or both reads and writes, ends as any
value, and so does one that a store changed while the command was to read it (R217). Nothing lands from data whose glaze
check fails (R254); the core's L1 keeps no older copy of what lands (R245). -/
def execCopyRowLanding (id row : Nat) (s : State) : Out :=
  match s.ccmd? id with
  | none => notReady s
  | some c =>
    if !c.todo.contains row || !s.rowsBefore c row then notReady s
    else match s.piece c row with
      | (u, .ready ks _ kd ld) =>
        let p := cpPoster c.by_ c.hdr
        let (u1, ms) := u.engineRead p ks
        let idx := s.idxKeys c (row / pieceBase)
        let odd (k d : Nat) : Bool := c.dirty.contains k || c.put.contains k || kd.contains k || c.put.contains d ||
          c.got.contains d || idx.contains d
        let ms1 := (List.range ms.length).map fun i =>
          match ms[i]?, ks[i]?, kd[i]? with
          | some m, some k, some d => if odd k d then { m with val := Config.free 8 s.tick (160000 + i) } else m
          | _, _, _ => { val := 0, poison := false }
        let again := (ks ++ idx).filter fun k => c.put.contains k || kd.contains k
        let u2 := u1.land kd ms1
        let u3 := (u2.dropL1 p.core kd).agentWrite again ((List.range again.length).map fun i => Config.free 8 s.tick (161000 + i))
        let left := c.todo.erase row
        let next := { c with todo := left, got := ks ++ idx ++ c.got, put := kd ++ c.put }
        let busy := left.flatMap fun q =>
          match (lineChunks (cpDst c.desc (q / pieceBase)) (cpN0 c.desc))[q % pieceBase]? with
          | some (d, n) => s.linesAt c.by_ d n
          | none => []
        let whole := ld.filter fun l => !busy.contains l
        if s.failsGlaze (ks ++ idx) then .next u1
        else .next (((u3.setCCmd next).landLines id whole).count p.core p.world.toNat 0x0A (c.finished row))
      | _ => notReady s

/-- A command that has ended arrives at its barrier; `cp.mx` then waits to append its follow-on (R283, R284). -/
def State.copyArrive (s : State) (c : CCmd) : State :=
  let s1 := if cpKind c.hdr == 1 then s.setCCmd { c with ended := true, failed := none, todo := [] }
    else { s with ccmds := s.ccmds.filter (·.id != c.id) }
  let s2 := s1.count c.by_.core c.by_.world.toNat 0x09 1
  if cpCben c.hdr then s2.cbArrive c.by_.team (cpCb c.hdr) (cpScp c.hdr) none else s2

/-- R283: every byte has landed, or the command has failed and its record is posted. -/
def execCopyComplete (id : Nat) (s : State) : Out :=
  match s.ccmd? id with
  | none => notReady s
  | some c =>
    let posted := match c.failed with
      | some r => !s.pending.contains (c.by_.core, r)
      | none => true
    if c.flying && c.todo.isEmpty && !c.ended && posted then .next (s.copyArrive c) else notReady s

/-- R282: the piece of a row meets a fault: the command fails. Nothing is posted of an index whose glaze check fails (R254). -/
def execCopyFail (id row : Nat) (s : State) : Out :=
  match s.ccmd? id with
  | none => notReady s
  | some c =>
    let before := c.todo.filter fun x => x / pieceBase < row / pieceBase
    if !c.todo.contains row || !before.isEmpty then notReady s
    else match s.piece c row with
      | (u, .bad code a) =>
        if s.failsGlaze (s.idxKeys c (row / pieceBase)) then .next u
        else
        let r := failRec 0x0A code c.by_ [c.addr, a]
        let u1 := (u.failLines id).postDevice c.by_.core r
        let c1 := { c with todo := [], failed := some r }
        let u2 := u1.setCCmd c1
        .next (if u2.pending.contains (c.by_.core, r) then u2 else u2.copyArrive c1)
      | _ => notReady s

/-- R284: a follow-on enters the matrix FIFO once there is room and a token. -/
def execFollowOnAppend (id : Nat) (s : State) : Out :=
  match s.ccmd? id with
  | none => notReady s
  | some c =>
    let core := c.by_.core
    let die := s.dieOf core
    let (lim, used) := s.pool die
    if !c.ended || !s.fifoRoom core || lim < used + 1 || s.tokq.any (fun r => r.die == die) then notReady s
    else match s.group? core c.by_.slot with
      | none => notReady s
      | some g =>
        let f : BitVec 96 := c.desc.extractLsb' 384 96
        let m := newMCmd id c.by_ f [partOf g f]
        .next ({ s with ccmds := s.ccmds.filter (·.id != id), mcmds := s.mcmds ++ [m] }.setInUse die (used + 1))

end Sys2Proof.Machine
end

