-- ==== Sys2Proof/Machine/FloatOps.lean ====
section
/-! DEFINITION. The floating-point arithmetic, comparison and conversion instructions (R139 to R147, R150 to R153). -/

namespace Sys2Proof.Machine

/-- A vector float instruction on one type, with a result of the type's width: `op` computes one element (R139). -/
def fpIssue (s : State) (p : Option Pfx) (d : Sel) (t : FTy) (srcs : List Sel) (four : Bool)
    (op : RMode → FF → List Nat → Nat × BitVec 5) : Out :=
  vectorIssue s { p := p, d := d, dw := DW.of t.wide, srcs := srcs.map fun a => (a, t.wide),
                  four := if four then some t.wide else none, old := false } fun g th v =>
    let r := perElem t (fun f _ xs => op (modeOf g p) f xs) v
    { val := BitVec.ofNat 128 r.1, flags := r.2, srg := th.srg }

/-- Operand `i` of an element's operands. -/
def nthArg (xs : List Nat) (i : Nat) : Nat := xs.getD i 0

/-- R142: a + b. -/
def execFadd (d a b : Sel) (t : FTy) (p : Option Pfx) (s : State) : Out :=
  fpIssue s p d t [a, b] false fun m f x => fAdd f m (nthArg x 0) (nthArg x 1)

/-- R142: a − b. -/
def execFsub (d a b : Sel) (t : FTy) (p : Option Pfx) (s : State) : Out :=
  fpIssue s p d t [a, b] false fun m f x => fSub f m (nthArg x 0) (nthArg x 1)

/-- R142: a × b. -/
def execFmul (d a b : Sel) (t : FTy) (p : Option Pfx) (s : State) : Out :=
  fpIssue s p d t [a, b] false fun m f x => fMul f m (nthArg x 0) (nthArg x 1)

/-- R142: a × b + c, rounded once. -/
def execFma (d a b : Sel) (t : FTy) (p : Option Pfx) (s : State) : Out :=
  fpIssue s p d t [a, b] true fun m f x => fFma f m false (nthArg x 0) (nthArg x 1) (nthArg x 2)

/-- R142: c − a × b, rounded once. -/
def execFnma (d a b : Sel) (t : FTy) (p : Option Pfx) (s : State) : Out :=
  fpIssue s p d t [a, b] true fun m f x => fFma f m true (nthArg x 0) (nthArg x 1) (nthArg x 2)

/-- R143: the smaller; a NaN operand gives the other. -/
def execFmin (d a b : Sel) (t : FTy) (p : Option Pfx) (s : State) : Out :=
  fpIssue s p d t [a, b] false fun _ f x => fMinMax f false (nthArg x 0) (nthArg x 1)

/-- R143: the larger; a NaN operand gives the other. -/
def execFmax (d a b : Sel) (t : FTy) (p : Option Pfx) (s : State) : Out :=
  fpIssue s p d t [a, b] false fun _ f x => fMinMax f true (nthArg x 0) (nthArg x 1)

/-- R143: the smaller; any NaN operand gives a NaN. -/
def execFminm (d a b : Sel) (t : FTy) (p : Option Pfx) (s : State) : Out :=
  fpIssue s p d t [a, b] false fun _ f x => fMinMaxM f false (nthArg x 0) (nthArg x 1)

/-- R143: the larger; any NaN operand gives a NaN. -/
def execFmaxm (d a b : Sel) (t : FTy) (p : Option Pfx) (s : State) : Out :=
  fpIssue s p d t [a, b] false fun _ f x => fMinMaxM f true (nthArg x 0) (nthArg x 1)

/-- R142: a / b. -/
def execFdiv (d a b : Sel) (t : FTy) (p : Option Pfx) (s : State) : Out :=
  fpIssue s p d t [a, b] false fun m f x => fDiv f m (nthArg x 0) (nthArg x 1)

/-- R142: √a. -/
def execFsqrt (d a : Sel) (t : FTy) (p : Option Pfx) (s : State) : Out :=
  fpIssue s p d t [a] false fun m f x => fSqrt f m (nthArg x 0)

/-- R144: the sign bit cleared. -/
def execFabs (d a : Sel) (t : FTy) (p : Option Pfx) (s : State) : Out :=
  fpIssue s p d t [a] false fun _ f x => (f.mag (nthArg x 0), 0#5)

/-- R144: the sign bit inverted. -/
def execFneg (d a : Sel) (t : FTy) (p : Option Pfx) (s : State) : Out :=
  fpIssue s p d t [a] false fun _ f x => (f.flip (nthArg x 0), 0#5)

/-- R144: the sign bit of b. -/
def execFsgn (d a b : Sel) (t : FTy) (p : Option Pfx) (s : State) : Out :=
  fpIssue s p d t [a, b] false fun _ f x => (f.mag (nthArg x 0) + f.signBit (f.neg (nthArg x 1)), 0#5)

/-- R145: the class word, always one 32-bit register. -/
def execFclass (d a : Sel) (t : FTy) (p : Option Pfx) (s : State) : Out :=
  vectorIssue s { p := p, d := d, dw := .w32, srcs := [(a, t.wide)], four := none, old := false } fun _ th v =>
    { val := BitVec.ofNat 128 (perElem t (fun f _ x => (fClass f (nthArg x 0), 0#5)) v).1, flags := 0#5, srg := th.srg }

/-- R146: a × 2^n; n is B as i32, or for packed types B's half as i16. -/
def execFscale (d a b : Sel) (t : FTy) (p : Option Pfx) (s : State) : Out :=
  vectorIssue s { p := p, d := d, dw := DW.of t.wide, srcs := [(a, t.wide), (b, false)], four := none, old := false }
    fun g th v =>
      let n (k : Nat) : Int := if ftyPacked t then signedOf 16 (half (arg v 1).toNat k) else signedOf 32 (arg v 1).toNat
      let r := perElem t (fun f k x => fScale f (modeOf g p) (nthArg x 0) (n k)) v
      { val := BitVec.ofNat 128 r.1, flags := r.2, srg := th.srg }

/-- R147: compare floats into a mask; a packed lane's bit is the AND of its elements' relations, for `ne` and `un` the
OR. -/
def execFcmp (d a b : Sel) (t : FTy) (c : Cond) (p : Option Pfx) (s : State) : Out :=
  compareIssue s p d t.wide a b fun _ v =>
    let one (k : Nat) : Bool × BitVec 5 :=
      if ftyPacked t then fHolds (ftyFmt t) c (half (arg v 0).toNat k) (half (arg v 1).toNat k)
      else fHolds (ftyFmt t) c (arg v 0).toNat (arg v 1).toNat
    if ftyPacked t then
      ((if c == .ne || c == .un then (one 0).1 || (one 1).1 else (one 0).1 && (one 1).1), (one 0).2 ||| (one 1).2)
    else one 0

/-- The float format of a type code, where it is one of `fcvt`'s (R71). -/
def cvtFF : CvtTy → Option FF
  | .f64 => some .f64 | .f32 => some .f32 | .f16 => some .f16 | .bf16 => some .bf16 | .e4m3 => some .e4m3
  | .e5m2 => some .e5m2 | _ => none

/-- Width and signedness of an integer type code (R71). -/
def cvtInt : CvtTy → Nat × Bool
  | .i32 => (32, true) | .n32 => (32, false) | .i64 => (64, true) | .n64 => (64, false) | .i16 => (16, true)
  | .n16 => (16, false) | .i8 => (8, true) | .n8 => (8, false) | _ => (32, false)

/-- R150: one conversion. -/
def convert (mode : RMode) (nosat : Bool) (src dst : CvtTy) (x : Nat) : Nat × BitVec 5 :=
  match cvtFF src, cvtFF dst with
  | some f, some g => cvtFloat f g mode nosat (x % 2 ^ f.width)
  | some f, none => cvtToInt f mode (cvtInt dst).2 (cvtInt dst).1 (x % 2 ^ f.width)
  | none, some g =>
    let w := (cvtInt src).1
    let y := x % 2 ^ w
    cvtFromInt g mode nosat (if (cvtInt src).2 then signedOf w y else (y : Int))
  | none, none => (x, 0#5)

/-- R150: `fcvt`. Under the stochastic mode the generator of each active thread steps once (R40). -/
def execFcvt (d a : Sel) (n : Bool) (src dst : CvtTy) (p : Option Pfx) (s : State) : Out :=
  vectorIssue s { p := p, d := d, dw := DW.of dst.wide, srcs := [(a, src.wide)], four := none, old := false } fun g th v =>
    let c := modeCode g p dst.stochastic
    let r := if c == 6#3 then stepSrg th.srg else th.srg
    let x := convert (RMode.ofCode c r.toNat) n src dst (arg v 0).toNat
    { val := BitVec.ofNat 128 x.1, flags := x.2, srg := r }

/-- The format of `fround`'s type. -/
def fmtFF : FmtTy → FF
  | .f64 => .f64 | .f32 => .f32 | .f16 => .f16 | .bf16 => .bf16

/-- R151: round to an integral value. -/
def execFround (d a : Sel) (t : FmtTy) (p : Option Pfx) (s : State) : Out :=
  vectorIssue s { p := p, d := d, dw := DW.of t.wide, srcs := [(a, t.wide)], four := none, old := false } fun g th v =>
    let x := fRound (fmtFF t) (modeOf g p) ((arg v 0).toNat % 2 ^ (fmtFF t).width)
    { val := BitVec.ofNat 128 x.1, flags := x.2, srg := th.srg }

/-- R152: split an f32 into three bf16 parts. -/
def execFsplitBf16 (d a : Sel) (p : Option Pfx) (s : State) : Out :=
  vectorIssue s { p := p, d := d, dw := .w64, srcs := [(a, false)], four := none, old := false } fun _ th v =>
    let x := fSplit (arg v 0).toNat
    { val := BitVec.ofNat 128 x.1, flags := x.2, srg := th.srg }

/-- The format of an MX element. -/
def mxFF : MxElem → FF
  | .e4m3 => .e4m3 | .e5m2 => .e5m2 | .e2m1 => .e2m1

/-- R153: pack the low word with the scale in the high word's low byte. -/
def execFpack (d a : Sel) (e : MxElem) (p : Option Pfx) (s : State) : Out :=
  vectorIssue s { p := p, d := d, dw := .w32, srcs := [(a, true)], four := none, old := false } fun g th v =>
    let x := fPack (mxFF e) (modeOf g p) ((arg v 0).toNat % 2 ^ 32) ((arg v 0).toNat / 2 ^ 32 % 256)
    { val := BitVec.ofNat 128 x.1, flags := x.2, srg := th.srg }

/-- R153: unpack the low word's element with the scale in the high word's low byte. -/
def execFunpk (d a : Sel) (e : MxElem) (p : Option Pfx) (s : State) : Out :=
  vectorIssue s { p := p, d := d, dw := .w32, srcs := [(a, true)], four := none, old := false } fun g th v =>
    let x := fUnpack (mxFF e) (modeOf g p) ((arg v 0).toNat % 2 ^ (mxFF e).width) ((arg v 0).toNat / 2 ^ 32 % 256)
    { val := BitVec.ofNat 128 x.1, flags := x.2, srg := th.srg }

end Sys2Proof.Machine
end

