-- ==== Sys2Proof/Machine/CrossLane.lean ====
section
/-! DEFINITION. Converged sets, shuffles, reductions, scans, votes and mask instructions (R157 to R167). -/

namespace Sys2Proof.Machine

/-! ## Converged sets (R157) -/

/-- Threads that belong to no converged set: exited, parked on a fault, ECALL or WCALL record, or waiting on a scratchpad
line (R157, R169). -/
def Thread.out (t : Thread) : Bool :=
  match t.st with
  | .exited | .parkedFault _ | .parkedEasel _ false | .onLine _ _ => true
  | _ => false

/-- Threads in the converged set of `t`: the same formation and the same targets since. -/
def setOf (g : Group) (t : Thread) : List Thread := g.threads.filter fun u => !u.out && u.setId == t.setId && u.path == t.path

/-- Threads that have yet to take a branch at which the set of `t` has already split, and so may still join it. -/
def setPending (g : Group) (t : Thread) : Bool :=
  g.threads.any fun u => !u.out && u.setId == t.setId && u.path != t.path && u.path.isPrefixOf t.path

/-- The participant set of a cross-lane instruction: the converged set of the cohort's lowest thread, once all of it is
ready at this instruction; `none` until then. -/
def participants (s : State) (g : Group) : Option DWord :=
  match g.inMask s.cur.lanes with
  | [] => none
  | t :: _ =>
    let ps := setOf g t
    if !setPending g t && ps.all (fun u => u.st == .ready && u.pc == t.pc) then some (laneMask (ps.map (·.lane))) else none

/-- A cross-lane instruction: `k` receives the participant lanes (R157, R169). -/
def crossLane (s : State) (regs : List (Sel × Nat)) (k : Group → DWord → Out) : Out :=
  onGroup s fun g =>
    match participants s g with
    | none => notReady s
    | some m => withRegs s g regs (k g m)

/-- The participants move past the instruction. -/
def pastMask (s : State) (m : DWord) (g : Group) : Group :=
  g.mapThreads fun t => if laneBit m t.lane then s.past t else t

/-! ## Shuffles (R159, R160) -/

/-- The four shuffles. -/
inductive Shuf where
  | pick | swap | fwd | back
  deriving DecidableEq, Repr

/-- The source lane of lane `i`, or none when it is out of range. `b` is B as lane `i` reads it. -/
def sourceLane (o : Shuf) (gw k i b : Nat) : Option Nat :=
  let d := if k == 0 then b else gw / 2 ^ k
  match o with
  | .pick =>
    let w := if k == 0 then gw else max 1 (gw / 2 ^ k)
    if w ≤ b then none else some (i - i % w + b)
  | .swap => if gw ≤ i ^^^ d then none else some (i ^^^ d)
  | .fwd => if i < d then none else some (i - d)
  | .back => if gw ≤ i + d then none else some (i + d)

/-- A shuffle for its participant set: all reads precede all writes; lane `i` takes A of its source lane, or its own when
that is out of range or has exited. DESIGN CHOICE (log entry 84): a poisoned prefix mask that an N group consumes does not
poison the out-of-range mask, for which R160 names B alone. -/
def shuffle (o : Shuf) (d a b : Sel) (k : BitVec 3) (p : Option Pfx) (s : State) : Out :=
  crossLane s [(d, 1), (a, 1), (b, 1)] fun g m =>
    if pfxFaults g p then raiseMask s g m (.plain .poison) s.cur.words |> .next
    else
      let (act, mp) := pfxLanes s.tick g p
      let usesB := o == .pick || k == 0#3
      let bOf (t : Thread) : Val := if usesB then vsource s.tick g t false b else Val.const 0
      let src (t : Thread) : Option Nat :=
        match sourceLane o g.gw k.toNat t.lane (bOf t).val.toNat with
        | none => none
        | some j => if g.exited j then none else some j
      let from_ (t : Thread) : Thread :=
        match src t with
        | some j => (g.thread? j).getD t
        | none => t
      let aOf (t : Thread) : Val :=
        if (from_ t).lane == t.lane then vsource s.tick g t false a else vsource s.tick (g.seenBy m) (from_ t) false a
      let run := g.inMask (m &&& act)
      if run.any fun t => !(bOf t).wait.isEmpty || !(aOf t).wait.isEmpty then notReady s
      else
        let val (t : Thread) : Val :=
          let x := aOf t
          { x with taint := x.taint || (bOf t).taint, poison := x.poison || (bOf t).poison || mp }
        let g1 := g.mapThreads fun t =>
          if laneBit m t.lane then
            s.past (if laneBit act t.lane then pushVal (writeDst t .w32 d (val t)) .w32 (val t)
                    else inactiveLane s.tick g p .w32 d [] t)
          else t
        let g2 := g1.noteWrites (if pfxZeroes p then m else m &&& act) .w32 d
        let c := match p with
          | some q => q.c.toNat
          | none => 0
        let oor := laneMask ((run.filter fun t => (src t).isNone).map (·.lane))
        .next (s.putGroup (if c == 0 then g2
          else maskUpdate g2 c m act (pfxZero p) oor (run.any fun t => (bOf t).poison)))

/-- R159: each lane picks a lane of its segment. -/
def execXlPick (d a b : Sel) (k : BitVec 3) (p : Option Pfx) (s : State) : Out := shuffle .pick d a b k p s
/-- R159: lane i takes lane i XOR d. -/
def execXlSwap (d a b : Sel) (k : BitVec 3) (p : Option Pfx) (s : State) : Out := shuffle .swap d a b k p s
/-- R159: lane i takes lane i − d. -/
def execXlFwd (d a b : Sel) (k : BitVec 3) (p : Option Pfx) (s : State) : Out := shuffle .fwd d a b k p s
/-- R159: lane i takes lane i + d. -/
def execXlBack (d a b : Sel) (k : BitVec 3) (p : Option Pfx) (s : State) : Out := shuffle .back d a b k p s

/-! ## Reductions and scans (R161, R162) -/

/-- One `Op` on two values (R162). -/
def redOp (mode : RMode) (o : RedOp) (x y : Nat) : Nat × BitVec 5 :=
  let i (z : Nat) := signedOf 32 z
  match o with
  | .addI32 => ((x + y) % 2 ^ 32, 0#5)
  | .addI64 => ((x + y) % 2 ^ 64, 0#5)
  | .minI32 => (if i y < i x then y else x, 0#5)
  | .minN32 => (min x y, 0#5)
  | .maxI32 => (if i x < i y then y else x, 0#5)
  | .maxN32 => (max x y, 0#5)
  | .andB32 => (x &&& y, 0#5)
  | .orB32 => (x ||| y, 0#5)
  | .xorB32 => (x ^^^ y, 0#5)
  | .faddF32 => fAdd .f32 mode x y
  | .faddF64 => fAdd .f64 mode x y
  | .fminF32 => fMinMax .f32 false x y
  | .fmaxF32 => fMinMax .f32 true x y
  | .fminF64 => fMinMax .f64 false x y
  | .fmaxF64 => fMinMax .f64 true x y

/-- `Combine`: an empty position gives the other unchanged, with no `Op` performed (R161). -/
def combine (mode : RMode) (o : RedOp) (x y : Option Nat) : Option Nat × BitVec 5 :=
  match x, y with
  | none, _ => (y, 0#5)
  | _, none => (x, 0#5)
  | some a, some b =>
    let r := redOp mode o a b
    (some r.1, r.2)

/-- One step of the network: each position is given by `f` from the positions before. -/
def netStep (gw : Nat) (f : Nat → Option Nat × BitVec 5) (fl : BitVec 5) : List (Option Nat) × BitVec 5 :=
  let qs := (List.range gw).map f
  (qs.map (·.1), qs.foldl (fun m q => m ||| q.2) fl)

/-- `Reduce` with distances gw/2 down to 1 (R161): `n` steps remain. -/
def reduceNet (mode : RMode) (o : RedOp) (gw : Nat) : Nat → List (Option Nat) → BitVec 5 → List (Option Nat) × BitVec 5
  | 0, p, fl => (p, fl)
  | n + 1, p, fl =>
    let d := 2 ^ n
    let (q, fl') := netStep gw (fun i => combine mode o (p.getD (min i (i ^^^ d)) none) (p.getD (max i (i ^^^ d)) none)) fl
    reduceNet mode o gw n q fl'

/-- `Scan` with distances 1 up to gw/2 (R161): `k` counts the steps done, `n` those that remain. -/
def scanNet (mode : RMode) (o : RedOp) (gw : Nat) : Nat → Nat → List (Option Nat) → BitVec 5 →
    List (Option Nat) × BitVec 5
  | 0, _, p, fl => (p, fl)
  | n + 1, k, p, fl =>
    let d := 2 ^ k
    let (q, fl') := netStep gw
      (fun i => if d ≤ i then combine mode o (p.getD (i - d) none) (p.getD i none) else (p.getD i none, 0#5)) fl
    scanNet mode o gw n (k + 1) q fl'

/-- A reduction or scan for its participant set (R161, R162). -/
def network (scan : Bool) (d a : Sel) (o : RedOp) (s : State) : Out :=
  let w := DW.of o.wide
  crossLane s [(d, w.regs), (a, w.regs)] fun g m =>
    let ps := g.inMask m
    let val (t : Thread) : Val := vsource s.tick (g.seenBy m) t o.wide a
    if ps.any fun t => !(val t).wait.isEmpty then notReady s
    else
      let pos := (List.range g.gw).map fun i =>
        match ps.find? fun t => t.lane == i with
        | some t => some (val t).val.toNat
        | none => none
      let n := Nat.log2 g.gw
      let mode := modeOf g none
      let (out, fl) := if scan then scanNet mode o g.gw n 0 pos 0#5 else reduceNet mode o g.gw n pos 0#5
      let res (t : Thread) : Val :=
        let among := if scan then ps.filter fun u => u.lane ≤ t.lane else ps
        { val := BitVec.ofNat 128 ((out.getD t.lane none).getD 0), taint := among.any fun u => (val u).taint,
          poison := among.any fun u => (val u).poison, wait := [] }
      let g1 := g.mapThreads fun t =>
        if laneBit m t.lane then s.past (pushVal (writeDst t w d (res t)) w (res t)) else t
      let g2 := g1.noteWrites m w d
      .next (s.putGroup { g2 with fflags := g.fflags ||| fl })

/-- R161: every participant receives the reduction of the whole set. -/
def execRed (d a : Sel) (o : RedOp) (s : State) : Out := network false d a o s
/-- R161: inclusive scan in lane order. -/
def execScan (d a : Sel) (o : RedOp) (s : State) : Out := network true d a o s

/-! ## Votes, ballot, match and rank (R163) -/

/-- A MASK instruction that reads A, 32 bits, of every participant. -/
def overSet (s : State) (a : Sel) (regs : List (Sel × Nat)) (k : Group → DWord → List (Thread × Val) → Group) : Out :=
  crossLane s ((a, 1) :: regs) fun g m =>
    let ps := (g.inMask m).map fun t => (t, vsource s.tick (g.seenBy m) t false a)
    if ps.any fun q => !q.2.wait.isEmpty then notReady s
    else .next (s.putGroup (pastMask s m (k g m ps)))

/-- Is the operand not zero? -/
def nonzero (q : Thread × Val) : Bool := q.2.val != 0#128

/-- A vote's scalar: 1 or 0, with the participants' taint and poison (R101, R163). -/
def voteVal (b : Bool) (ps : List (Thread × Val)) : Val64 :=
  { val := if b then 1 else 0, taint := ps.any (·.2.taint), poison := ps.any (·.2.poison) }

/-- R163: does some participant hold a nonzero value? -/
def execVoteAny (d a : Sel) (s : State) : Out :=
  overSet s a [] fun g _ ps => g.setScalar d (voteVal (ps.any nonzero) ps)

/-- R163: do all participants hold a nonzero value? -/
def execVoteAll (d a : Sel) (s : State) : Out :=
  overSet s a [] fun g _ ps => g.setScalar d (voteVal (ps.all nonzero) ps)

/-- R163: a mask bit for each participant. -/
def execBallot (d a : Sel) (s : State) : Out :=
  overSet s a [] fun g m ps =>
    maskUpdate g d.toNat m (lowLanes g.gw) false (laneMask ((ps.filter nonzero).map (·.1.lane))) (ps.any (·.2.poison))

/-- R163: each participant receives the mask of the participants that hold its value. -/
def execMatchLanes (d a : Sel) (s : State) : Out :=
  overSet s a [(d, 2)] fun g m ps =>
    let same (x : BitVec 128) : DWord := laneMask ((ps.filter fun q => q.2.val == x).map (·.1.lane))
    let v (t : Thread) : Val :=
      { val := (same (vsource s.tick (g.seenBy m) t false a).val).setWidth 128, taint := ps.any (·.2.taint),
        poison := ps.any (·.2.poison), wait := [] }
    let g1 := g.mapThreads fun t => if laneBit m t.lane then pushVal (writeDst t .w64 d (v t)) .w64 (v t) else t
    g1.noteWrites m .w64 d

/-- R163: each participant receives how many bits of mA lie below its own. -/
def execPopm (d a : Sel) (s : State) : Out :=
  crossLane s [(d, 1)] fun g m =>
    let r := g.mask a.toNat
    let v (t : Thread) : Val :=
      { val := BitVec.ofNat 128 (countLanes (r.val &&& lowLanes t.lane)), taint := false, poison := r.poison, wait := [] }
    let g1 := g.mapThreads fun t => if laneBit m t.lane then s.past (pushVal (writeDst t .w32 d (v t)) .w32 (v t)) else t
    .next (s.putGroup (g1.noteWrites m .w32 d))

/-! ## Whole masks (R164) -/

/-- A mask computed from two masks, once for the cohort. -/
def mask2 (s : State) (d a b : Sel) (f : DWord → DWord → DWord) : Out :=
  scalarIssue s fun g =>
    let x := g.mask a.toNat
    let y := g.mask b.toNat
    g.setMask d.toNat { val := f x.val y.val, poison := x.poison || y.poison }

/-- R164. -/
def execMand (d a b : Sel) (s : State) : Out := mask2 s d a b (· &&& ·)
/-- R164. -/
def execMor (d a b : Sel) (s : State) : Out := mask2 s d a b (· ||| ·)
/-- R164. -/
def execMxor (d a b : Sel) (s : State) : Out := mask2 s d a b (· ^^^ ·)
/-- R164: NOT over bits gw−1..0. -/
def execMnot (d a : Sel) (s : State) : Out := mask2 s d a a fun x _ => ~~~x
/-- R164. -/
def execMmov (d a : Sel) (s : State) : Out := mask2 s d a a fun x _ => x

/-- A scalar computed from a mask: the mask's poison, no taint (R164). -/
def maskScalar (s : State) (d a : Sel) (f : DWord → Nat) : Out :=
  scalarIssue s fun g =>
    let x := g.mask a.toNat
    g.setScalar d { val := BitVec.ofNat 64 (f x.val), taint := false, poison := x.poison }

/-- R164: set bits. -/
def execMpop (d a : Sel) (s : State) : Out := maskScalar s d a countLanes
/-- R164: the lowest set bit; 64 when there is none. -/
def execMfirst (d a : Sel) (s : State) : Out := maskScalar s d a fun x => ((List.range 64).find? (laneBit x)).getD 64
/-- R164: the mask zero-extended. -/
def execMget (d a : Sel) (s : State) : Out := maskScalar s d a fun x => x.toNat
/-- R164: a scalar's low bits into a mask; its taint is dropped. -/
def execMset (d a : Sel) (s : State) : Out :=
  scalarIssue s fun g =>
    let x := ssource g a
    g.setMask d.toNat { val := x.val, poison := x.poison }

end Sys2Proof.Machine
end

