-- ==== Sys2Proof/Machine/Net.lean ====
section
/-! DEFINITION. The network engine: posts, commands that start, packets of the transport, completions and completion rings,
and `push` (R259, R287 to R293, R339 to R342). -/

namespace Sys2Proof.Machine

/-! ## The descriptor and the completion specifier (R288, R290) -/

/-- OP. -/
def netOp (d : BitVec 512) : Nat := bits d 7 0
/-- Delivery mode. -/
def netMode (d : BitVec 512) : Nat := bits d 17 16
/-- Bytes. -/
def netLen (d : BitVec 512) : Nat := bits d 63 32
/-- Local buffer. -/
def netLocal (d : BitVec 512) : DWord := d.extractLsb' 64 64
/-- Address at the peer. -/
def netRemote (d : BitVec 512) : DWord := d.extractLsb' 128 64
/-- Completion specifier for the target. -/
def netRcomp (d : BitVec 512) : DWord := d.extractLsb' 256 64

/-- Bytes of an element of a reduction (R74, R288). -/
def ropBytes (r : Nat) : Nat := if r == 1 || r == 10 || 13 ≤ r then 8 else 4

/-- The operation of a reduction (R74). -/
def ropOf (r : Nat) : RedOp :=
  match RedOp.ofCode (BitVec.ofNat 4 r) with
  | some o => o
  | none => .addI32

/-- A completion specifier with no reserved value, for a level (R290). -/
def compOk (lvl : Priv) (c : DWord) : Bool := bits c 63 62 != 3 && bits c 5 0 == 0 && !(bitAt c 56 && lvl == .u)

/-- Address of the ring that a specifier names. -/
def compRing (c : DWord) : DWord := BitVec.ofNat 64 (at_ (bitAt c 56).toNat 56 + at_ (bits c 55 6) 6)

/-- Does the team's retirement wait for the local completion? -/
def compRet (c : DWord) : Bool := bitAt c 57

/-- NET_FMT of a descriptor; `f` is the instruction's own operation (R287, R288). DESIGN CHOICE (log entry 89): W = 1 in an
RCOMP that a U group posts raises nothing here; the write of that ring fails at the target, where it acts at the poster's
level. -/
def netBad (lvl : Priv) (d : BitVec 512) (comp : DWord) (f : Option Nat) : Bool :=
  let op := netOp d
  let rop := bits d 27 24
  let sz := ropBytes rop
  let n := netLen d
  let win := bits (netLocal d) 63 56
  let rc := netRcomp d
  !compOk lvl comp || 5 < op || (match f with
    | some x => x != op
    | none => false) ||
  (if op == 5 then d.toNat != 5
   else bits d 511 320 != 0 || bits d 31 28 != 0 || bits d 23 18 != 0 || bits d 15 8 != 0 || n == 0 || 2 ^ 30 < n || rop == 15 ||
    (op == 4 && (netMode d == 3 || n % sz != 0 || bits (netLocal d) 2 0 % sz != 0 || bits (netRemote d) 2 0 % sz != 0)) ||
    ((op == 0 || op == 2 || op == 4) && (win == 0xF0 || win == 0xF1)) ||
    ((op == 0 || op == 4) && (bits rc 63 62 % 2 == 1 || bits rc 5 0 != 0)))

/-! ## Posting (R287) -/

/-- Commands of a core that wait in its port. -/
def State.port (s : State) (core : Nat) : List NCmd := s.ncmds.filter fun c => c.by_.core == core && !c.taken

/-- A command enters the port; lines that a `get` or `recv` lands in become absent (R289). -/
def enterPort (s : State) (g : Group) (p : Poster) (d : BitVec 512) (addr comp : DWord) : Out :=
  let g1 := movePast s ((s.group? g.core g.slot).getD g)
  let c : NCmd := { id := s.fresh, by_ := p, desc := d, addr := addr, comp := comp, taken := false,
                    todo := if netOp d == 1 || netOp d == 3 then [(0, netLen d)] else [], acked := none, waitsRing := false }
  let s1 := { s.putGroup g1 with ncmds := s.ncmds ++ [c], fresh := s.fresh + 1 }
  let s2 := if c.todo.isEmpty then s1 else s1.claimLines c.id (s1.linesAt p (netLocal d) (netLen d))
  .next (s2.count g.core g.world.toNat 0x0B 1)

/-- A post with a descriptor. -/
def netPost (f : Option Nat) (a b : Sel) (s : State) : Out :=
  onGroup s fun g => releasing s g <|
    withS s g 0 a fun x => withS s g 1 b fun y =>
      if 32 ≤ (s.port g.core).length then notReady s
      else commandLoad s g x (ssource g a).taint 64 64 fun u bs =>
        if netBad g.priv (word512 bs) y f then raiseCohort u g (.plain .netFmt)
        else enterPort u g (g.poster (leadOf s g).1) (word512 bs) x y

/-- R289: bytes to a peer's memory. -/
def execNetPut (a b : Sel) (s : State) : Out := netPost (some 0) a b s
/-- R289: bytes from a peer's memory. -/
def execNetGet (a b : Sel) (s : State) : Out := netPost (some 1) a b s
/-- R289: a tagged message. -/
def execNetSend (a b : Sel) (s : State) : Out := netPost (some 2) a b s
/-- R289: receive a tagged message. -/
def execNetRecv (a b : Sel) (s : State) : Out := netPost (some 3) a b s
/-- R289: reduce into a peer's memory. -/
def execNetRed (a b : Sel) (s : State) : Out := netPost (some 4) a b s

/-- R287, R289: a fence of the port, without a descriptor. -/
def execNetFence (b : Sel) (s : State) : Out :=
  onGroup s fun g => releasing s g <|
    withS s g 1 b fun y =>
      if 32 ≤ (s.port g.core).length then notReady s
      else if !compOk g.priv y then raiseCohort s g (.plain .netFmt)
      else enterPort s g (g.poster (leadOf s g).1) 5 0 y

/-- R259: a two-word command to a core queue. -/
def execPush (q : CmdQ) (a b : Sel) (s : State) : Out :=
  match q with
  | .qm => pushMatrix a b s
  | .qc => pushCopy a b s
  | .qn => netPost none a b s

/-! ## Fabric domains (R341, R342) -/

/-- Offset of a world's fabric domain entry. -/
def domOff (w : Nat) : Nat := dev3 + 0x2000 + 64 * w

/-- STATE of a world's domain. -/
def State.domState (s : State) (w : Nat) : Nat := bits (s.devGet (domOff w)) 1 0

/-- Set STATE. -/
def State.setDomState (s : State) (w v : Nat) : State := s.devSet (domOff w) (setBits (s.devGet (domOff w)) 1 0 v)

/-- A packet is sent for a world; at 2^47 the device starts a drain (R341, R342). -/
def State.sent (s : State) (w : Nat) : State :=
  let n := (s.devGet (domOff w + 40)).toNat + 1
  let s1 := s.devSet (domOff w + 40) (BitVec.ofNat 64 n)
  if 2 ^ 47 ≤ n && s1.domState w == 1 then s1.setDomState w 2 else s1

/-! ## Completion rings (R291) -/

/-- A unit's access with the walks it makes: the state in which they are made, and the stretch. -/
def State.spanMet (s : State) (p : Poster) (a : DWord) (n : Nat) (kind : AKind) : State × Span :=
  (s.walksFor p a n kind, s.span p a n kind)

/-- What a write of an entry comes to. -/
inductive RingTry where
  | done (s : State)
  | full (s : State)
  | bad
  | wait
  deriving DecidableEq, Repr

/-- A 32-bit word of a header. -/
def hdrWord (h : BitVec 512) (lo : Nat) : Nat := bits h (lo + 31) lo

/-- Write an entry and WIDX, or say that the ring is full; then `full` counts the completion in OVF, unless it has been
counted. A header that breaks R291's table counts as one that fails the write. -/
def State.ringTry (s : State) (x : RingWait) : RingTry :=
  let p := x.by_
  match s.spanMet p x.ring 64 .load with
  | (_, .fault _) => .bad
  | (_, .wait) => .wait
  | (s0, .keys hk _) =>
    let (s1, ms) := s0.engineRead p hk
    let h := word512 (ms.map (·.val))
    let base : DWord := h.extractLsb' 0 64
    let size := hdrWord h 64
    let widx := hdrWord h 96
    let word (u : State) (lo v : Nat) : Option State :=
      match s.span p (x.ring + BitVec.ofNat 64 (lo / 8)) 4 .store with
      | .keys ks _ => some (u.agentWrite ks (toBytes v 4))
      | _ => none
    if ms.any (·.poison) || s.failsGlaze hk || base.toNat % 16 != 0 || !((List.range 21).any fun k => size == 2 ^ k) then .bad
    else if widx == (hdrWord h 128 + size) % 2 ^ 32 then
      (if x.counted then .full s1
       else match word s1 160 (hdrWord h 160 + 1) with
        | some u => .full u
        | none => .bad)
    else
      let e := x.len % 2 ^ 32 + at_ (x.op % 256) 32 + at_ (x.status % 256) 40 + at_ x.tag.toNat 64 + at_ ((widx + 1) % 2 ^ 32) 96
      match s1.spanMet p (base + BitVec.ofNat 64 (16 * (widx % size))) 16 .store, word s1 96 (widx + 1) with
      | (s2, .keys ks _), some _ =>
        (match word (s2.agentWrite ks (toBytes e 16)) 96 (widx + 1) with
         | some u => .done u
         | none => .bad)
      | (_, .wait), _ => .wait
      | _, _ => .bad

/-- The record of a failed ring write: A0 names the header. -/
def State.ringFail (s : State) (x : RingWait) : State := s.postDevice x.by_.core (failRec 0x0B 3 x.by_ [x.ring])

/-- A command whose completion is written is done. -/
def State.dropNCmd (s : State) (o : Option Nat) : State :=
  match o with
  | some id => { s with ncmds := s.ncmds.filter (·.id != id) }
  | none => s

/-- Do two completions go to one ring? -/
def RingWait.same (x y : RingWait) : Bool := x.ring == y.ring && x.by_.world == y.by_.world && x.by_.asid == y.by_.asid

/-- OVF has counted a completion. -/
def State.markCounted (s : State) (id : Nat) : State :=
  { s with ringq := s.ringq.map fun z => if z.id == id then { z with counted := true } else z }

/-- A completion goes to a ring: it is written, waits there behind others, or fails. -/
def State.ringPost (s : State) (x : RingWait) : State :=
  let queue (u : State) (counted : Bool) : State :=
    let mark (c : NCmd) : NCmd := if some c.id == x.cmd then { c with waitsRing := true } else c
    { u with ringq := u.ringq ++ [{ x with counted := counted }], ncmds := u.ncmds.map mark }
  if s.ringq.any x.same then queue s false
  else match s.ringTry x with
    | .bad => (s.ringFail x).dropNCmd x.cmd
    | .done u => u.dropNCmd x.cmd
    | .full u => queue u true
    | .wait => queue s false

/-- It is the turn of the next completion of a ring: one that meets it full is counted in OVF (R291). -/
def State.ringTurn (s : State) (x : RingWait) : State :=
  match s.ringq.find? x.same with
  | none => s
  | some y =>
    if y.counted then s
    else match s.ringTry y with
      | .full u => u.markCounted y.id
      | _ => s

/-- R291: RIDX frees space: the first completion that waits for a ring is written, or fails. -/
def execCompletionRingSpace (id : Nat) (s : State) : Out :=
  match s.ringq.find? fun x => x.id == id with
  | none => notReady s
  | some x =>
    if (s.ringq.find? x.same) != some x then notReady s
    else
      let gone (u : State) : State := { u with ringq := u.ringq.filter (·.id != id) }
      match s.ringTry x with
      | .done u => .next (((gone u).dropNCmd x.cmd).ringTurn x)
      | .bad => .next ((((gone s).ringFail x).dropNCmd x.cmd).ringTurn x)
      | .full u => if x.counted then notReady s else .next (u.markCounted id)
      | .wait => notReady s

/-! ## Packets of this device (R339, R340) -/

/-- The payload of a message's packets but the last: an open multiple of eight bytes up to 4,096 (R339, log entry 92). -/
def State.payload (s : State) : Nat := 8 + 8 * (Config.free 9 s.tick 173000).toNat

/-- Cut a message into packets: where each begins, and its bytes. -/
def packets (n size : Nat) : List (Nat × Nat) := (List.range ((n + size - 1) / size)).map fun i => (i * size, min size (n - i * size))

/-- A network command's peer (R288). -/
def NCmd.peer (c : NCmd) : Nat := bits c.desc 223 192

/-- A packet of a command. -/
def NCmd.packet (c : NCmd) (off : Nat) (data : List Byte) : NetPacket :=
  { world := c.by_.world.toNat, epoch := 0, tagOk := true, port := 0, op := netOp c.desc, mode := netMode c.desc, seq := 0
    id := c.id, flow := c.by_.core, rod := 0, peer := c.peer, remote := netRemote c.desc, off := off, len := netLen c.desc
    tag := c.desc.extractLsb' 224 32, rcomp := netRcomp c.desc, rop := bits c.desc 27 24, kcls := c.by_.kcls.code, lvl := c.by_.priv.code
    status := 0
    data := data }

/-- A flow of a list, new if it is not there. -/
def flowOf (l : List RodFlow) (k : NetPacket) : RodFlow :=
  (l.find? fun f => f.flow == k.flow && f.world == k.world && f.peer == k.peer).getD
    { flow := k.flow, world := k.world, peer := k.peer, port := none, next := 0 }

/-- Replace a flow of a list. -/
def putFlow (l : List RodFlow) (f : RodFlow) : List RodFlow :=
  f :: l.filter fun x => !(x.flow == f.flow && x.world == f.world && x.peer == f.peer)

/-- Does a packet belong to an ROD flow? -/
def inRod (k : NetPacket) : Bool := k.mode == 1 && k.op != 8

/-- Ports of a die that are up. -/
def State.upPorts (s : State) (die : Nat) : List Nat := ((List.range 4).map (4 * die + ·)).filter fun n => !s.down.contains n

/-- The port that a packet leaves by: an open one of its die's that are up, for an ROD flow the one it has kept (R340). -/
def State.portFor (s : State) (die : Nat) (k : NetPacket) : Option Nat :=
  let ups := s.upPorts die
  let any : Option Nat := match ups with
    | [n] => some n
    | _ => ups[(Config.free 8 s.tick (171000 + k.seq)).toNat % ups.length]?
  if inRod k then
    (match (flowOf s.rodOut k).port with
     | some n => if ups.contains n then some n else any
     | none => any)
  else any

/-- A packet leaves by a port, under its domain's key; with every port of the die down it does not leave. -/
def State.emit (s : State) (die : Nat) (k : NetPacket) : State :=
  match s.portFor die k with
  | none => s
  | some n =>
    let s1 := { s with
      wire := { k with port := n, epoch := bits (s.devGet (domOff k.world + 8)) 39 32 } :: s.wire
      rodOut := if inRod k then putFlow s.rodOut { flowOf s.rodOut k with port := some n } else s.rodOut }
    (s1.sent k.world).countPort n k.world 0x36

/-- The engine of a die sends a packet for the first time. One of a reliable mode is kept until it is acknowledged. -/
def State.sendPacket (s : State) (die : Nat) (cmd : Option Nat) (k : NetPacket) : State :=
  let f := flowOf s.rodOut k
  let k1 := { k with seq := s.fresh, rod := if inRod k then f.next else 0 }
  let kept : List Sent := if k.mode == 3 then [] else [{ id := s.fresh, die := die, cmd := cmd, pkt := k1, retries := 0 }]
  let s1 := { s with
    fresh := s.fresh + 1
    sentq := s.sentq ++ kept
    rodOut := if inRod k then putFlow s.rodOut { f with next := f.next + 1 } else s.rodOut }
  s1.emit die k1

/-- A packet of a peer has been dealt with: in a reliable mode it is remembered and acknowledged with a status. -/
def State.acknowledge (s : State) (k : NetPacket) (status : Nat) : State :=
  if k.mode == 3 then s
  else
    let f := flowOf s.rodIn k
    let s1 := { s with
      rx := (k.world, k.peer, k.seq, status) :: s.rx
      rodIn := if inRod k then putFlow s.rodIn { f with next := k.rod + 1 } else s.rodIn }
    s1.emit (k.port / 4 % 2) { k with op := 8, status := status, data := [] }

/-! ## Landing at this device (R289, R292, R340) -/

/-- Cut a stretch out of stretches. -/
def cutStretch (lo hi : Nat) (l : List (Nat × Nat)) : List (Nat × Nat) :=
  l.flatMap fun x => (if x.1 < min x.2 lo then [(x.1, min x.2 lo)] else []) ++ (if max x.1 hi < x.2 then [(max x.1 hi, x.2)] else [])

/-- Replace a network command. -/
def State.setNCmd (s : State) (c : NCmd) : State := { s with ncmds := s.ncmds.map fun x => if x.id == c.id then c else x }

/-- STATUS of a refused landing. -/
def landStatus (i : FaultInfo) (other : Nat) : Nat := if i.code == .xclass then 2 else other

/-- Data for a command land at an offset of LOCAL. `none` when they must wait. A scratchpad line is present once every byte of
it that the command names has landed. DEDUCED (log entry 50): a line of which a message shorter than its `recv` leaves some
bytes without data stays absent. -/
def State.landLocal (s : State) (c : NCmd) (off : Nat) (data : List Byte) : Option (State × Except Nat NCmd) :=
  let n := min data.length (netLen c.desc - off)
  let a := netLocal c.desc + BitVec.ofNat 64 off
  if n == 0 then some (s, .ok c)
  else match s.spanMet c.by_ a n .store with
  | (u, .fault i) => some (u, .error (landStatus i 3))
  | (_, .wait) => none
  | (u, .keys ks ls) =>
    let todo := cutStretch off (off + n) c.todo
    let s1 := (u.agentWrite ks (data.take n)).noteLanded ks
    let busy := todo.flatMap fun x => s.linesAt c.by_ (netLocal c.desc + BitVec.ofNat 64 x.1) (x.2 - x.1)
    some (s1.landLines c.id (ls.filter fun l => !busy.contains l), .ok { c with todo := todo })

/-- The bytes of a command that have landed. -/
def NCmd.landed (c : NCmd) : Nat := netLen c.desc - (c.todo.map fun x => x.2 - x.1).sum

/-- LEN of a command that failed with bytes on their way to the peer: how many landed there is open (R291, R292). -/
def State.openLanded (s : State) (c : NCmd) : Nat := (Config.free 32 s.tick 172000).toNat % (netLen c.desc + 1)

/-- A command ends with a status: nothing of it is sent again, and lines of a failed one that have not landed are failed
(R292). -/
def State.ackNCmd (s : State) (c : NCmd) (status len : Nat) : State :=
  let s1 := { s with sentq := s.sentq.filter fun x => x.cmd != some c.id }.setNCmd { c with acked := some (status, len) }
  if status ≤ 1 then s1.loosen c.id else s1.failLines c.id

/-- May data land for a command? ROD commands to one peer land in port order (R292). -/
def State.rodTurn (s : State) (c : NCmd) : Bool :=
  netMode c.desc != 1 || !((s.ncmds.takeWhile (·.id != c.id)).any fun x =>
    x.by_.core == c.by_.core && x.peer == c.peer && netMode x.desc == 1 && netOp x.desc != 5 && x.acked.isNone)

/-- Do two packets belong to one message? -/
def sameMsg (k l : NetPacket) : Bool := k.world == l.world && k.peer == l.peer && k.id == l.id && k.op == l.op

/-- What has landed of a packet's message. -/
def State.inMsg (s : State) (k : NetPacket) : InMsg :=
  (s.inmsgs.find? fun m => m.world == k.world && m.peer == k.peer && m.id == k.id).getD
    { world := k.world, peer := k.peer, id := k.id, todo := [(0, k.len)], recv := none }

/-- A packet of a message has landed, for a `recv` if it is a send: the state, and whether the message is whole. -/
def State.noteMsg (s : State) (k : NetPacket) (recv : Option Nat) : State × Bool :=
  let todo := cutStretch k.off (k.off + k.data.length) (s.inMsg k).todo
  let rest := s.inmsgs.filter fun m => !(m.world == k.world && m.peer == k.peer && m.id == k.id)
  if todo.isEmpty then ({ s with inmsgs := rest }, true)
  else ({ s with inmsgs := { s.inMsg k with todo := todo, recv := recv } :: rest }, false)

/-- A packet of a message lands in the `recv` that matched it; bytes beyond its LEN are discarded (R289). -/
def State.landMessage (s : State) (c : NCmd) (k : NetPacket) : Option State :=
  match s.ncmds.find? fun x => x.id == c.id && x.acked.isNone with
  | none => some (s.noteMsg k (some c.id)).1
  | some d =>
    match s.landLocal d k.off k.data with
    | none => none
    | some (u, .error st) => some ((u.noteMsg k (some c.id)).1.ackNCmd d st d.landed)
    | some (u, .ok e) =>
      let (v, whole) := u.noteMsg k (some c.id)
      some (if whole then v.ackNCmd e (if netLen c.desc < k.len then 1 else 0) e.landed else v.setNCmd e)

/-- Packets of a message that came before its `recv` land and are acknowledged. -/
def landHeld (c : NCmd) : List NetPacket → State → Option State
  | [], s => some s
  | k :: r, s => ((s.landMessage c k).map fun u => u.acknowledge k 0).bind (landHeld c r)

/-- Does a `recv` match a message? -/
def NCmd.matches (c : NCmd) (k : NetPacket) : Bool :=
  netOp c.desc == 3 && c.by_.world.toNat == k.world && c.desc.extractLsb' 224 32 == k.tag &&
  (c.peer == 2 ^ 32 - 1 || c.peer == k.peer)

/-- Who acts for a peer's request: the domain's world and ASID, at level U, with the class of the posting kernel (R292,
R340). -/
def State.peerPoster (s : State) (k : NetPacket) : Poster :=
  { core := 0, slot := 0, lane := 0, team := 0, priv := .u, world := BitVec.ofNat 6 k.world
    asid := BitVec.ofNat 13 (bits (s.devGet (domOff k.world + 8)) 12 0), kcls := .ofCode k.kcls, prom := false, ginst := 0
    lq := 64, lseq := 0 }

/-- Who writes the ring that a peer's RCOMP names: one of the poster's level, which decides whether window 0x01 may hold it
(R290). -/
def State.ringPoster (s : State) (k : NetPacket) : Poster :=
  { s.peerPoster k with priv := if k.lvl == 0 then .u else if k.lvl == 1 then .s else .f }

/-- Where a peer's request leads: windows 0x00 and 0xF2 only. -/
def State.peerSpan (s : State) (k : NetPacket) (off n : Nat) (kind : AKind) : State × Span :=
  let a := k.remote + BitVec.ofNat 64 off
  if bits a 63 56 == 0x00 || bits a 63 56 == 0xF2 then s.spanMet (s.peerPoster k) a n kind
  else (s, .fault { code := .aperture, acc := kind.acc, addr := a, addr2 := 0 })

/-- Split into units. -/
def unitsOf {α : Type} (n : Nat) : Nat → List α → List (List α)
  | 0, _ => []
  | k + 1, l => if l.isEmpty then [] else l.take n :: unitsOf n k (l.drop n)

/-- Apply a reduction's elements, each whole; a poisoned one is left as it is (R225, R289). -/
def State.landReduction (s : State) (p : Poster) (rop : Nat) (ks : List Nat) (data : List Byte) : State :=
  let n := ropBytes rop
  let es := (unitsOf n data.length ks).zip (unitsOf n data.length data)
  es.foldl (fun u e =>
    let (u1, ms) := u.engineRead p e.1
    (if ms.any (·.poison) || u.failsGlaze e.1 then u1
    else u1.agentWrite e.1 (toBytes (redOp .rne (ropOf rop) (leNat (ms.map (·.val))) (leNat e.2)).1 n)).countLine
      (e.1.headD 0) 0x29 1) s

/-- A packet that comes with a completion for the target writes it (R289, R290). -/
def State.targetComplete (s : State) (k : NetPacket) : State :=
  if bits k.rcomp 63 62 != 2 then s
  else
    let x : RingWait := { id := s.fresh, by_ := s.ringPoster k, ring := compRing k.rcomp, op := k.op, status := 0, tag := k.tag,
                          len := k.len, cmd := none, counted := false }
    { s with fresh := s.fresh + 1 }.ringPost x

/-- A peer's `get`: its data go back in packets, up to the first with a poisoned byte, which reports it (R289, R292). -/
def answerGet (k : NetPacket) : List (Nat × Nat) → List Moved → State → State
  | [], _, s => s
  | (off, n) :: r, ms, s =>
    let here := ms.take n
    let reply : NetPacket :=
      { k with op := 9, flow := Config.cores + k.port / 4 % 2, off := off, status := if here.any (·.poison) then 5 else 0
               data := if here.any (·.poison) then [] else here.map (·.val) }
    let u := s.sendPacket (k.port / 4 % 2) none reply
    if here.any (·.poison) then u else answerGet k r (ms.drop n) u

/-- An acknowledgement (R340): a refusal ends its command; the last of a command's acknowledgements completes it. -/
def State.acked (s : State) (k : NetPacket) : State :=
  match s.sentq.find? fun x => x.id == k.seq && x.pkt.world == k.world && x.pkt.peer == k.peer with
  | none => s
  | some x =>
    let s1 := { s with sentq := s.sentq.filter (·.id != x.id) }
    match s1.ncmds.find? fun c => some c.id == x.cmd && c.acked.isNone with
    | none => s1
    | some c =>
      if k.status != 0 then s1.ackNCmd c k.status (if netOp c.desc == 1 then c.landed else s.openLanded c)
      else if netOp c.desc == 1 || s1.sentq.any (fun y => y.cmd == x.cmd) then s1
      else s1.ackNCmd c 0 (netLen c.desc)

/-- What a request of a peer, or the data of a `get`, does: the state and the status of its acknowledgement, none while it is
not taken. The outer `none` when it must wait. -/
def State.serve (s : State) (k : NetPacket) : Option (State × Option Nat) :=
  match k.op with
  | 0 => match s.peerSpan k k.off k.data.length .store with
    | (u, .keys ks _) =>
      let (v, whole) := (u.agentWrite ks k.data).noteMsg k none
      some (if whole then v.targetComplete k else v, some 0)
    | (u, .fault i) => some (u, some (landStatus i 4))
    | (_, .wait) => none
  | 1 => match s.peerSpan k 0 k.len .load with
    | (u, .keys ks _) =>
      let (v, ms) := u.engineRead (s.peerPoster k) ks
      some (if s.failsGlaze ks then v else answerGet k (packets k.len s.payload) ms v, some 0)
    | (u, .fault _) => some (u, some 4)
    | (_, .wait) => none
  | 2 =>
    let held := s.sends.any (sameMsg k)
    let bound : Option NCmd := match (s.inMsg k).recv with
      | some id => some { (s.ncmds.find? fun c => c.id == id).getD
          { id := id, by_ := s.peerPoster k, desc := 0, addr := 0, comp := 0, taken := true, todo := [], acked := some (0, 0)
            waitsRing := false } with id := id }
      | none => s.ncmds.find? fun c =>
        c.taken && c.acked.isNone && c.matches k && !s.inmsgs.any fun m => m.recv == some c.id
    (match if held then none else bound with
     | some c => if s.rodTurn c then (s.landMessage c k).map fun u => (u, some 0) else some (s, none)
     | none => some (if s.sends.any (fun l => sameMsg k l && l.seq == k.seq) then s else { s with sends := s.sends ++ [k] }, none))
  | 4 =>
    if k.remote.toNat % ropBytes k.rop != 0 || k.off % ropBytes k.rop != 0 || k.data.length % ropBytes k.rop != 0 then
      some (s, some 4)
    else match s.peerSpan k k.off k.data.length .reduction with
      | (u, .keys ks _) =>
        let (v, whole) := (u.landReduction (s.peerPoster k) k.rop ks k.data).noteMsg k none
        some (if whole then v.targetComplete k else v, some 0)
      | (u, .fault i) => some (u, some (landStatus i 4))
      | (_, .wait) => none
  | 9 =>
    (match s.ncmds.find? fun c => c.id == k.id && c.taken && c.acked.isNone && netOp c.desc == 1 && c.peer == k.peer &&
        c.by_.world.toNat == k.world with
     | none => some (s, some 0)
     | some c =>
       if !s.rodTurn c then some (s, none)
       else if k.status != 0 then some (s.ackNCmd c k.status c.landed, some 0)
       else
         let s1 := { s with sentq := s.sentq.filter fun x => x.cmd != some c.id }
         (match s1.landLocal c k.off k.data with
          | none => none
          | some (u, .error st) => some (u.ackNCmd c st c.landed, some 0)
          | some (u, .ok d) => some (if d.todo.isEmpty then u.ackNCmd d 0 (netLen d.desc) else u.setNCmd d, some 0)))
  | _ => some (s, none)

/-- R340: a packet of the transport arrives. One of a closed domain, with a bad tag or of another epoch, is dropped (R341); no
packet carries more than 4,096 bytes (R339). One that has been taken before is only acknowledged again, but for one of a mode
whose operations may be repeated; one of an ROD flow that comes before its turn is not taken. `none` when it must wait. -/
def State.receive (s : State) (k : NetPacket) : Option State :=
  let w := k.world
  let s0 := s.countPort (k.port % 8) w 0x37
  if s.domState w == 0 || !k.tagOk || k.epoch != bits (s.devGet (domOff w + 8)) 39 32 then
    some (s0.countPort (k.port % 8) w 0x3A)
  else if 4096 < k.data.length then some s0
  else if k.op == 8 then some (s0.acked k)
  else match s.rx.find? fun r => r.1 == w && r.2.1 == k.peer && r.2.2.1 == k.seq with
    | some r =>
      let again : State := match k.op, k.mode == 2, s0.peerSpan k k.off k.data.length .store with
        | 0, true, (u, .keys ks _) => u.agentWrite ks k.data
        | _, _, _ => s0
      some (again.emit (k.port / 4 % 2) { k with op := 8, status := r.2.2.2, data := [] })
    | none =>
      if inRod k && k.rod != (flowOf s.rodIn k).next then some s0
      else (s0.serve k).map fun q => match q.2 with
        | some st => q.1.acknowledge k st
        | none => q.1

/-- R340: a packet of the transport arrives. -/
def execNetPacketReceive (k : NetPacket) (s : State) : Out :=
  match s.receive k with
  | some u => .next u
  | none => notReady s

/-! ## Commands (R289, R292) -/

/-- A network command by its number. -/
def State.ncmd? (s : State) (id : Nat) : Option NCmd := s.ncmds.find? fun c => c.id == id

/-- Is a fence of the core taken and not complete? One whose completion waits for ring space is (R289). -/
def State.fenced (s : State) (core : Nat) : Bool :=
  s.ncmds.any fun c => c.by_.core == core && c.taken && netOp c.desc == 5 && !c.waitsRing

/-- Must the bytes of a command not leave yet? Those of an ROD command land at the peer, and so after what an earlier ROD `get` or
`recv` from that peer lands here (R292). -/
def State.rodHeld (s : State) (c : NCmd) : Bool :=
  netMode c.desc == 1 && (s.ncmds.takeWhile (·.id != c.id)).any fun x =>
    x.by_.core == c.by_.core && x.peer == c.peer && netMode x.desc == 1 && (netOp x.desc == 1 || netOp x.desc == 3) &&
      x.acked.isNone

/-- What sending a message comes to. -/
inductive Sending where
  | done (s : State)
  | failed (s : State) (status : Nat)
  | stopped (s : State)
  | wait
  deriving DecidableEq, Repr

/-- Send the packets of a message in order: a fault or a poisoned byte fails the command behind the packets already sent
(R292); nothing leaves of data whose glaze check fails (R254). -/
def sendMessage (c : NCmd) (die : Nat) : List (Nat × Nat) → State → Sending
  | [], s => .done s
  | (off, n) :: r, s =>
    match s.spanMet c.by_ (netLocal c.desc + BitVec.ofNat 64 off) n .load with
    | (u, .fault _) => .failed u 3
    | (_, .wait) => .wait
    | (u, .keys ks _) =>
      let (v, ms) := u.engineRead c.by_ ks
      if s.failsGlaze ks then .stopped v
      else if ms.any (·.poison) then .failed v 5
      else sendMessage c die r (v.sendPacket die (some c.id) (c.packet off (ms.map (·.val))))

/-- R292: the head of a core's port is taken, or dropped when its instance has been cancelled (R293). One of a closed domain
completes with PEER_DOWN; while the domain drains none is taken, nor dropped (R341, R342). -/
def execNetCommandStart (id : Nat) (s : State) : Out :=
  match s.ncmd? id with
  | none => notReady s
  | some c =>
    let w := c.by_.world.toNat
    let die := s.dieOf c.by_.core
    if (s.port c.by_.core).head? != some c || s.fenced c.by_.core || 2 ≤ s.domState w then notReady s
    else if s.cancelled w c.by_.ginst.toNat then .next ((s.dropNCmd (some id)).loosen id)
    else
      let t := { c with taken := true }
      let s1 := s.setNCmd t
      let unsent := netMode c.desc == 3 && (s.upPorts die).isEmpty
      match s.domState w with
      | 0 => .next (s.ackNCmd t 6 0)
      | 1 =>
        (match netOp c.desc with
         | 1 => if unsent then notReady s else .next (s1.sendPacket die (some id) (c.packet 0 []))
         | 3 =>
           (match s.sends.find? fun k => c.matches k with
            | none => .next s1
            | some k =>
              if !s.rodTurn c then notReady s
              else match landHeld t (s.sends.filter (sameMsg k)) { s1 with sends := s.sends.filter fun l => !sameMsg k l } with
                | some u => .next u
                | none => notReady s)
         | 5 => .next s1
         | _ =>
           if unsent || s.rodHeld c then notReady s
           else match sendMessage t die (packets (netLen c.desc) s.payload) s1 with
             | .done u => .next (if netMode c.desc == 3 then u.ackNCmd t 0 (netLen c.desc) else u)
             | .failed u st => .next (u.ackNCmd t st (s.openLanded t))
             | .stopped u => .next u
             | .wait => notReady s)
      | _ => notReady s

/-- R340: a packet that has gone unacknowledged is sent again, or its command completes with PEER_DOWN after RETRY times. -/
def execPacketRetransmit (id : Nat) (s : State) : Out :=
  match s.sentq.find? fun x => x.id == id with
  | none => notReady s
  | some x =>
    let w := x.pkt.world
    if s.domState w == 0 then notReady s
    else if x.retries < bits (s.devGet (domOff w + 8)) 47 40 then
      let again (y : Sent) : Sent := if y.id == id then { y with retries := y.retries + 1 } else y
      let u := { s with sentq := s.sentq.map again }.emit x.die x.pkt
      .next (u.countPort ((s.portFor x.die x.pkt).getD (4 * x.die)) w 0x38)
    else
      let s1 := { s with sentq := s.sentq.filter (·.id != id) }
      .next (match s1.ncmds.find? fun c => some c.id == x.cmd && c.acked.isNone with
        | some c => s1.ackNCmd c 6 (if netOp c.desc == 1 then c.landed else s.openLanded c)
        | none => s1)

/-- R341: commands of a closed domain that the engine has taken complete with PEER_DOWN, and nothing more is sent for it. -/
def State.closeDomains (s : State) : State :=
  if s.ncmds.isEmpty && s.sentq.isEmpty then s
  else
    let shut := s.ncmds.filter fun c => c.taken && c.acked.isNone && s.domState c.by_.world.toNat == 0
    let u := shut.foldl (fun u c =>
      u.ackNCmd c 6 (if netOp c.desc == 1 || netOp c.desc == 3 then c.landed else if netOp c.desc == 5 then 0 else s.openLanded c)) s
    { u with sentq := u.sentq.filter fun x => s.domState x.pkt.world != 0 }

/-- Has a command completed locally: with which status and length? A fence has once every earlier command of its port has
(R289). -/
def State.localDone (s : State) (c : NCmd) : Option (Nat × Nat) :=
  if !c.taken || c.waitsRing then none
  else if netOp c.desc == 5 && c.acked.isNone then
    (if (s.ncmds.takeWhile (·.id != c.id)).any fun x => x.by_.core == c.by_.core && !x.waitsRing then none else some (0, 0))
  else c.acked

/-- R289: a command completes locally and reports it. -/
def execNetLocalCompletion (id : Nat) (s : State) : Out :=
  match s.ncmd? id with
  | none => notReady s
  | some c =>
    match s.localDone c with
    | none => notReady s
    | some (status, len) =>
      let op := netOp c.desc
      match bits c.comp 63 62 with
      | 1 =>
        .next ((s.dropNCmd (some id)).cbArrive c.by_.team (bits c.comp 61 58) (if op == 1 || op == 3 then 8 else 7) none)
      | 2 =>
        let x : RingWait := { id := s.fresh, by_ := c.by_, ring := compRing c.comp, op := op, status := status,
                              tag := c.desc.extractLsb' 224 32, len := len, cmd := some id, counted := false }
        .next ({ s with fresh := s.fresh + 1 }.ringPost x)
      | _ =>
        let s1 := s.dropNCmd (some id)
        .next (if status ≤ 1 then s1 else s1.postDevice c.by_.core (failRec 0x0B status c.by_ [c.addr]))

/-- R342: every packet sent for a draining domain has been acknowledged, and every command that the engine has taken has
completed: none spans a key. -/
def execDomainDrained (world : Nat) (s : State) : Out :=
  let open_ := s.sentq.any (fun x => x.pkt.world == world) ||
    s.ncmds.any fun c => c.by_.world.toNat == world && c.taken && !c.waitsRing
  if s.domState world == 2 && !open_ then .next (s.setDomState world 3) else notReady s

/-- R340: an Ethernet port goes down or comes up. -/
def execPortLinkChange (port : Nat) (up : Bool) (s : State) : Out :=
  let rest := s.down.filter (· != port)
  .next { s with down := if up then rest else port :: rest }

end Sys2Proof.Machine
end

