-- ==== Sys2Proof/Machine/Csr.lean ====
section
/-! DEFINITION. The control registers and the instructions that read and write them (R107 to R118). -/

namespace Sys2Proof.Machine

/-! ## Reading -/

/-- A world's timer compare value on a core (R408). -/
def State.tcmp (s : State) (core w : Nat) : DWord := mapGet (BitVec.allOnes 64) (s.core core).tcmp w

/-- Remaining error budget of a group's launch (R413). DESIGN CHOICE (log entry 18): 0 for the groups that the ROM places, behind
which stands no launch. -/
def State.ebud (s : State) (g : Group) : Nat :=
  match s.launch? g.lq.toNat g.lseq.toNat with
  | some l => l.rem.toNat
  | none => 0

/-- The value of a control register as an instruction of the group reads it; none for an unassigned number (R108 to
R117). -/
def State.csr (s : State) (g : Group) (n : Nat) : Option DWord :=
  let c := s.core g.core
  let v (x : Nat) : Option DWord := some (BitVec.ofNat 64 x)
  if 0x50 ≤ n && n < 0x54 then v (bits (c.bpa.getD (n - 0x50) 0) 63 2 * 4)
  else if 0x60 ≤ n && n < 0x68 then v (c.cnt.getD (n - 0x60) 0).toNat
  else if 0x68 ≤ n && n < 0x70 then v (c.cnsel.getD (n - 0x68) 0).toNat
  else match n with
    | 0x000 => v Config.wmax
    | 0x001 => v (g.gw + at_ g.nreg 8)
    | 0x002 => v g.gid
    | 0x003 => v g.tx
    | 0x004 => v g.ty
    | 0x005 => v g.tz
    | 0x006 => v (g.core + at_ (s.siteOf g.core) 16)
    | 0x007 => v (g.cx + at_ g.cy 4 + at_ g.cw 8 + at_ g.ch 12 + at_ g.clid 16)
    | 0x008 => v (g.ginst.toNat + at_ g.lq.toNat 16 + at_ g.lseq.toNat 32)
    | 0x010 => v g.priv.code
    | 0x011 => v g.world.toNat
    | 0x012 => v g.asid.toNat
    | 0x013 => v (g.kcls.code + at_ g.prom.toNat 8)
    | 0x020 => v g.rm.toNat
    | 0x021 => v g.srseed.toNat
    | 0x022 => v g.fflags.toNat
    | 0x030 => v (bits g.rcvbase 63 7 * 128)
    | 0x031 => v g.rcvdepth
    | 0x032 => v (g.stkSzc.toNat + at_ g.stkBase.toNat 12)
    | 0x033 => v g.spadsz
    | 0x040 => some s.time
    | 0x041 => some (s.tcmp g.core g.world.toNat)
    | 0x042 => v (s.ebud g)
    | 0x054 => some c.bpc
    | _ => none

/-! ## Access rights -/

/-- OWN of a core counter (R117). -/
def State.cntOwn (s : State) (core i : Nat) : Nat := bits ((s.core core).cnsel.getD i 0) 21 16

/-- May the group access the register so (R7, R109, R116, R117)? -/
def State.csrPermits (s : State) (g : Group) (n : Nat) (write : Bool) : Bool :=
  let w := g.world.toNat
  if (0x50 ≤ n && n < 0x54) || n == 0x54 then
    g.priv == .f || (g.priv == .s && (!write || bits (s.core g.core).bpc 21 16 == w))
  else if n == 0x41 then g.priv != .u
  else if 0x60 ≤ n && n < 0x68 then
    let own := s.cntOwn g.core (n - 0x60)
    match g.priv with
    | .f => true
    | .s => !write || own == w
    | .u => write || (own == w && bitAt ((s.core g.core).cnsel.getD (n - 0x60) 0) 10)
  else if 0x68 ≤ n && n < 0x70 then
    match g.priv with
    | .f => true
    | .s => !write || s.cntOwn g.core (n - 0x68) == w
    | .u => false
  else true

/-! ## Writing -/

/-- The bits of a register that a level may write (the Access columns of R109 to R117). -/
def csrMask (lvl : Priv) (n : Nat) : DWord :=
  let all := BitVec.allOnes 64
  let priv := lvl != .u
  if 0x50 ≤ n && n < 0x54 then (if priv then ~~~3#64 else 0)
  else if 0x60 ≤ n && n < 0x68 then (if priv then BitVec.ofNat 64 (2 ^ 48 - 1) else 0)
  else if 0x68 ≤ n && n < 0x70 then (if lvl == .f then 0x3F073F else if priv then 0x73F else 0)
  else match n with
    | 0x020 => 7
    | 0x021 => 0xFFFFFFFF
    | 0x022 => 0x1F
    | 0x030 => ~~~0x7F#64
    | 0x032 => if priv then BitVec.ofNat 64 (at_ (2 ^ 44 - 1) 12 + 15) else 0
    | 0x041 => if lvl == .f then all else 0
    | 0x054 => if lvl == .f then 0x3F000F else if priv then 0xF else 0
    | _ => 0

/-- The bits of a register that a level clears by writing ones (R116). -/
def csrW1c (lvl : Priv) (n : Nat) : DWord := if n == 0x54 && lvl != .u then 0xF00 else 0

/-- What a writing form makes of a register: its RW fields take the form's value, its W1C fields lose the bits written
as ones, except under `csrc`, and everything else keeps its value (R118). -/
def csrNew (f : CsrFn) (lvl : Priv) (n : Nat) (old x : DWord) : DWord :=
  let m := csrMask lvl n
  let v := match f with
    | .write => x
    | .set => old ||| x
    | .clear => old &&& ~~~x
  let y := (old &&& ~~~m) ||| (v &&& m)
  if f == .clear then y else y &&& ~~~(x &&& csrW1c lvl n)

/-- The mode that `c.rm` stores (R38). -/
def storedMode (v : BitVec 3) : BitVec 3 := if v == 0#3 || v == 7#3 then 1#3 else v

/-- Store a new value in a register of the group's, with its side effects (R38, R40, R109, R115). -/
def State.csrSet (s : State) (g : Group) (n : Nat) (v : DWord) : State :=
  let c := s.core g.core
  if 0x50 ≤ n && n < 0x54 then s.setCore { c with bpa := c.bpa.set (n - 0x50) v }
  else if 0x60 ≤ n && n < 0x68 then s.setCore { c with cnt := c.cnt.set (n - 0x60) (v.setWidth 48) }
  else if 0x68 ≤ n && n < 0x70 then s.setCore { c with cnsel := c.cnsel.set (n - 0x68) (v.setWidth 32) }
  else match n with
    | 0x020 => s.putGroup { g with rm := storedMode (v.setWidth 3) }
    | 0x021 =>
      let reseed (t : Thread) : Thread := { t with srg := seedSrg (v.setWidth 32) t.lane }
      s.putGroup { g with srseed := v.setWidth 32, threads := g.threads.map reseed }
    | 0x022 => s.putGroup { g with fflags := v.setWidth 5 }
    | 0x030 => if 8 < g.rcvdepth then s else s.putGroup { g with rcvbase := v }
    | 0x032 => s.putGroup { g with stkBase := v.extractLsb' 12 44, stkSzc := if 10 < bits v 3 0 then 10 else v.setWidth 4 }
    | 0x041 => s.setCore { c with tcmp := mapSet (BitVec.allOnes 64) c.tcmp g.world.toNat v }
    | 0x054 => s.setCore { c with bpc := v }
    | _ => s

/-! ## The instructions (R118) -/

/-- A writing form of the CSR format. -/
def csrIssue (f : CsrFn) (d : Sel) (n : Nat) (s : State) : Out :=
  onGroup s fun g =>
    match s.csr g n with
    | none => raiseCohort s g (.plain .ill)
    | some old =>
      if !s.csrPermits g n true then raiseCohort s g (.plain .priv)
      else withS s g 0 d fun x => .next ((s.putGroup (movePast s g)).csrSet (movePast s g) n (csrNew f g.priv n old x))

/-- R118: read a control register into a scalar. -/
def execCsrr (d : Sel) (c : BitVec 12) (s : State) : Out :=
  onGroup s fun g =>
    match s.csr g c.toNat with
    | none => raiseCohort s g (.plain .ill)
    | some v =>
      if !s.csrPermits g c.toNat false then raiseCohort s g (.plain .priv)
      else .next (s.putGroup (movePast s (g.setScalar d { val := v, taint := false, poison := false })))

/-- R118: write. -/
def execCsrw (d : Sel) (c : BitVec 12) (s : State) : Out := csrIssue .write d c.toNat s
/-- R118: set bits. -/
def execCsrs (d : Sel) (c : BitVec 12) (s : State) : Out := csrIssue .set d c.toNat s
/-- R118: clear bits. -/
def execCsrc (d : Sel) (c : BitVec 12) (s : State) : Out := csrIssue .clear d c.toNat s

/-- R40: a write of `c.srseed` reseeds every thread of the group. -/
def execSrseedWrite (f : CsrFn) (d : Sel) (s : State) : Out := csrIssue f d 0x021 s
/-- R38: a write of `c.rm`. -/
def execRmWrite (f : CsrFn) (d : Sel) (s : State) : Out := csrIssue f d 0x020 s
/-- R141: a write of `c.fflags`; in this model every earlier float instruction has put its flags there at its issue. -/
def execFflagsWrite (f : CsrFn) (d : Sel) (s : State) : Out := csrIssue f d 0x022 s
/-- R109: a write of `c.rcvbase`. -/
def execRcvbaseWrite (f : CsrFn) (d : Sel) (s : State) : Out := csrIssue f d 0x030 s
/-- R116: a write of `c.bpc`. -/
def execBpcWrite (f : CsrFn) (d : Sel) (s : State) : Out := csrIssue f d 0x054 s

end Sys2Proof.Machine
end

