-- ==== Sys2Proof/Machine/Supervisor.lean ====
section
/-! DEFINITION. Taking and answering records: `pop`, `srep`, `sdone`, `flt.done`, the borrowed accesses, `freeze` and `thaw`,
with the timer and the records that wait for room (R258, R260, R294 to R313, R408). -/

namespace Sys2Proof.Machine

/-! ## Delivery (R258, R260, R298) -/

/-- Is a record of this DEST and WORLD eligible for a group? -/
def eligible (g : Group) (dest : Bool) (world : BitVec 6) : Bool :=
  match g.priv with
  | .u => false
  | .s => !dest && world == g.world
  | .f => dest

/-- Does an easel record have a poster, whose instance may be cancelled (R258, R295)? -/
def EaselRec.hasPoster (r : EaselRec) : Bool := (1 ≤ r.kind && r.kind ≤ 4) || r.kind == 0x0A || r.kind == 0x0B

/-- An entry of a queue as `pop` sees it: its slot, its age, and whether its instance has been cancelled. -/
structure Waiting where
  slot : Nat
  seq  : Nat
  gone : Bool
  deriving DecidableEq, Repr

/-- Insert by age. -/
def insertWaiting (x : Waiting) : List Waiting → List Waiting
  | [] => [x]
  | y :: ys => if x.seq < y.seq then x :: y :: ys else y :: insertWaiting x ys

/-- Undelivered records eligible for a group, oldest first. -/
def State.waiting (s : State) (g : Group) (q : RecQ) : List Waiting :=
  let l : List Waiting := match q with
    | .qe => (s.easel.filter fun x => x.core == g.core && x.live && x.delivered.isNone && eligible g x.body.dest x.body.world).map
        fun x => { slot := x.slot, seq := x.seq,
                   gone := x.body.hasPoster && s.cancelled x.body.world.toNat x.body.ginst.toNat }
    | .qf => (s.faultq.filter fun x => x.core == g.core && x.live && x.delivered.isNone && eligible g x.body.dest x.body.world).map
        fun x => { slot := x.slot, seq := x.seq, gone := s.cancelled x.body.world.toNat x.body.ginst.toNat }
  l.foldl (fun a x => insertWaiting x a) []

/-- Mark a record delivered to a group; BCNT counts from then on (R294). -/
def State.deliver (s : State) (g : Group) (q : RecQ) (slot : Nat) : State :=
  match q with
  | .qe => { s with easel := s.easel.map fun x =>
      if x.core == g.core && x.slot == slot then { x with delivered := some g.slot, body := { x.body with bcnt := 0 } } else x }
  | .qf => { s with faultq := s.faultq.map fun x =>
      if x.core == g.core && x.slot == slot then { x with delivered := some g.slot } else x }

/-- Free a slot of the easel; the record's words stay as they are. -/
def State.freeEasel (s : State) (core slot : Nat) : State :=
  { s with easel := s.easel.map fun x =>
      if x.core == core && x.slot == slot then { x with live := false, delivered := none } else x }

/-- Free a slot of the fault record queue. -/
def State.freeFault (s : State) (core slot : Nat) : State :=
  { s with faultq := s.faultq.map fun x =>
      if x.core == core && x.slot == slot then { x with live := false, delivered := none } else x }

/-- Free a slot of a queue. -/
def State.freeRec (s : State) (core : Nat) (q : RecQ) (slot : Nat) : State :=
  match q with
  | .qe => s.freeEasel core slot
  | .qf => s.freeFault core slot

/-- Position of a lane among the lanes of a cohort. -/
def rankIn (ts : List Thread) (lane : Nat) : Nat := (ts.filter fun t => t.lane < lane).length

/-- R260: deliver records one per lane, oldest first; those of cancelled instances are dropped and nothing takes their
place. -/
def execPop (d : Sel) (q : RecQ) (s : State) : Out :=
  onGroup s fun g =>
    atLevel s g .s <|
      let run := g.inMask s.cur.lanes
      let taken := (s.waiting g q).take run.length
      if taken.isEmpty then notReady s
      else
        let give := taken.filter fun w => !w.gone
        let s1 := (taken.filter (·.gone)).foldl (fun u w => u.freeRec g.core q w.slot) s
        let s2 := give.foldl (fun u w => u.deliver g q w.slot) s1
        let got (t : Thread) : Thread :=
          if laneBit s.cur.lanes t.lane then
            let x := ((give.map (·.slot)).drop (rankIn run t.lane)).headD 0xFFFF
            s.past (t.push { val := BitVec.ofNat 64 x, taint := false, poison := false, wait := [] })
          else t
        .next (s2.putGroup ((g.mapThreads got).setScalar d
          { val := BitVec.ofNat 64 give.length, taint := false, poison := false }))

/-! ## Lanes of the supervisor instructions (R303) -/

/-- What a lane of a supervisor instruction answers. -/
inductive LaneOut where
  | ok (s : State)
  | bad (i : FaultInfo)
  deriving DecidableEq, Repr

/-- A consumed operand: in an N group a poisoned one is any value, and keeps its poison bit (R102). -/
def Val.taken (tick k : Nat) (g : Group) (v : Val) : Val :=
  if v.poison && g.kcls == .n then { v with val := Config.free 128 tick (170000 + k) } else v

/-- A slot operand: none for 0xFFFF. -/
def slotOf (v : Val) : Option Nat :=
  let n := v.val.toNat % 2 ^ 32
  if n == 0xFFFF then none else some n

/-- A per-thread supervisor instruction on a slot and further operands: when operands have arrived, every lane in ascending
order takes them; lanes that fault park with their records. A lane whose slot is 0xFFFF consumes nothing else and becomes
`idle` (R303, R311). -/
def supIssue (s : State) (regs : List (Sel × Nat)) (slot : Group → Thread → Val) (ops : Group → Thread → List Val)
    (idle : Group → Thread → Thread) (k : State → Group → Thread → Nat → List Val → LaneOut) (fin : State → State) : Out :=
  onGroup s fun g =>
    withRegs s g regs <|
      atLevel s g .s <|
        let run := g.inMask s.cur.lanes
        let num (t : Thread) : Val := (slot g t).taken s.tick (8 * t.lane) g
        let rest (t : Thread) : List Val := if (slotOf (num t)).isNone then [] else ops g t
        if run.any fun t => (slot g t :: ops g t).any fun v => !v.wait.isEmpty then notReady s
        else
          let go (u : State) (t : Thread) (f : Thread → Thread) : State :=
            u.mapLanes g.core g.slot (1#64 <<< t.lane) fun x => s.past (f x)
          let one (a : State × List (Nat × FaultInfo)) (t : Thread) : State × List (Nat × FaultInfo) :=
            if g.kcls != .n && (slot g t :: rest t).any (·.poison) then (a.1, a.2 ++ [(t.lane, .plain .poison)])
            else match slotOf (num t) with
              | none => (go a.1 t (idle g), a.2)
              | some n =>
                let vs := (List.range (rest t).length).map fun i =>
                  ((rest t).getD i (Val.const 0)).taken s.tick (8 * t.lane + 1 + i) g
                (match k a.1 g t n vs with
                 | .ok u => (go u t id, a.2)
                 | .bad i => (a.1, a.2 ++ [(t.lane, i)]))
          let (u, fs) := run.foldl one (s, [])
          .next (raiseLanes (fin u) g fs)

/-- A live easel record delivered to a group (R298). -/
def State.deliveredEasel (s : State) (g : Group) (n : Nat) : Option EaselSlot :=
  s.easel.find? fun x => x.core == g.core && x.slot == n && x.live && x.delivered == some g.slot

/-- A live fault record delivered to a group. -/
def State.deliveredFault (s : State) (g : Group) (n : Nat) : Option FaultSlot :=
  s.faultq.find? fun x => x.core == g.core && x.slot == n && x.live && x.delivered == some g.slot

/-- Threads that one instruction resumes form one converged set of their own in each group: those that got a number from
`base` on share it (R157, R305). -/
def State.mergeSets (s : State) (base : Nat) : State :=
  { s with groups := s.groups.map fun g => g.mapThreads fun t =>
      if base ≤ t.setId && t.path.isEmpty && t.st == .ready then { t with setId := base } else t }

/-! ## Answering (R304, R305) -/

/-- A thread has had `v0:v1` written and an entry pushed from outside: its soft errors go with their words (R103). -/
def State.movedMarks (s : State) (core slot lane : Nat) : State :=
  if s.errs.isEmpty then s
  else
    let regs (n : Nat) : Option Nat := if n < 2 then none else some n
    let entries (n : Nat) : Option Nat := if n < 15 then some (n + 1) else none
    let moved (m : ErrMark) (k : Nat → Option Nat) : Option ErrMark :=
      m.move fun l => if l == lane then (m.entry l).bind k else m.entry l
    { s with errs := s.errs.filterMap fun m => match m.place with
      | .reg c n _ _ | .base c n _ _ => if c == core && n == slot && (m.entry lane).isSome then moved m regs else some m
      | .hist c n _ _ _ | .hbase c n _ _ _ => if c == core && n == slot && (m.entry lane).isSome then moved m entries else some m
      | _ => some m }

/-- A caller takes its reply: `v0:v1`, a history entry, and ready past the call, in the set numbered `id` (R304). -/
def State.takeReply (s : State) (core slot lane n id : Nat) (r : Val) : State :=
  match s.group? core slot with
  | none => s
  | some g =>
    match g.thread? lane with
    | none => s
    | some t =>
      if t.st != .parkedEasel n false then s
      else
        let v : Val := { r with taint := false, wait := [] }
        let f (u : Thread) : Thread :=
          { pushVal (writeDst u .w64 0 v) .w64 v with
            st := .ready, bpSkip := false, pc := u.pc + 4#64, setId := id, path := [], since := s.cycle + 1 }
        (s.putGroup ((g.setThread lane f).dirtyRegs lane .w64 0)).movedMarks core slot lane

/-- Answer one record (R304). A set of the callers of one issue is numbered past every number that the step draws for the parked
cohorts it resumes, at most one for each of its 64 lanes. -/
def State.reply (s : State) (g : Group) (q : EaselSlot) (base : Nat) (r : Val) : State :=
  let s1 := { s with easel := s.easel.map fun x => if x.core == q.core && x.slot == q.slot then { x with answered := true } else x }
  let b := q.body
  if b.kind == 1 || b.kind == 2 then s1.takeReply g.core b.gslot b.lane q.slot (base + 64 + q.batch) r
  else if b.kind == 3 || b.kind == 4 then
    let hw := b.a.getD 2 0 == 1#64
    let pc := b.a.getD 0 0
    let goal : DWord := if hw || r.val.getLsbD 0 then pc else pc + 4#64
    match s1.group? g.core b.gslot with
    | none => s1
    | some h =>
      let m := laneMask (((h.inMask (b.a.getD 1 0)).filter fun t => t.st == .parkedEasel q.slot true).map (·.lane))
      (resumeAt s1 g.core b.gslot m fun _ => goal).mapLanes g.core b.gslot m fun t => { t with bpSkip := hw }
  else s1

/-- R304: answer the records that the lanes name. -/
def execSrep (a b : Sel) (s : State) : Out :=
  let base := s.fresh
  onGroup s fun h => (if h.priv == .u then id else releasing s h) <|
    supIssue s [(a, 1), (b, 2)] (fun g t => vsource s.tick g t false a) (fun g t => [vsource s.tick g t true b]) (fun _ t => t)
      (fun u g _ n vs =>
        match u.deliveredEasel g n with
        | none => .bad (.plain .svcBad)
        | some q => .ok (if q.answered then u else u.reply g q base (vs.headD (Val.const 0))))
      fun u => { u with fresh := u.fresh + base + 65 }

/-- R304: free the slots that the lanes name. -/
def execSdone (a : Sel) (s : State) : Out :=
  supIssue s [(a, 1)] (fun g t => vsource s.tick g t false a) (fun _ _ => []) (fun _ t => t)
    (fun u g _ n _ =>
      match u.deliveredEasel g n with
      | none => .bad (.plain .svcBad)
      | some _ => .ok (u.freeEasel g.core n)) id

/-- The thread that holds an ACC 7 record of a core's queue, whether or not it has exited since. -/
def State.logHolder (s : State) (core n : Nat) : Option (Group × Thread) :=
  (s.groups.filter fun h => h.core == core).findSome? fun h => (h.threads.find? fun t => t.logRec == some n).map fun t => (h, t)

/-- Answer one fault record (R305, R310); none while a replay has to wait. -/
def State.faultDone (s : State) (g : Group) (q : FaultSlot) : Option State :=
  let s1 := s.freeFault g.core q.slot
  if q.body.acc == 7 then
    match s1.logHolder g.core q.slot with
    | none => some s1
    | some (h, t) => s1.replayLane h t.lane q.slot
  else some (resumeFault s1 g.core q.body.gslot q.slot)

/-- Must some lane's replay wait? -/
def replayWaits (s : State) (g : Group) (a : Sel) : Bool :=
  (g.inMask s.cur.lanes).any fun t =>
    match slotOf (vsource s.tick g t false a) with
    | none => false
    | some n =>
      match s.deliveredFault g n with
      | none => false
      | some q => (s.faultDone g q).isNone

/-- R305: answer the fault records that the lanes name. -/
def execFltDone (a : Sel) (s : State) : Out :=
  onGroup s fun h => withRegs s h [(a, 1)] <|
    if h.priv != .u && replayWaits s h a then notReady s
    else (if h.priv == .u then id else releasing s h) <|
      supIssue s [(a, 1)] (fun g t => vsource s.tick g t false a) (fun _ _ => []) (fun _ t => t)
        (fun u g _ n _ =>
          match u.deliveredFault g n with
          | none => .bad (.plain .svcBad)
          | some q => .ok ((u.faultDone g q).getD u))
        fun u => u.mergeSets s.fresh

/-! ## The records of failed replays (R310) -/

/-- Are the words those of an instruction that acts for a whole converged set: XL, and the lane-reading ones of MASK (R157)?
DEDUCED (log entry 86): words that are no instruction wait for no set, but raise ILL for the threads that have reached
them. -/
def crossesLanes (ws : List Word) : Bool :=
  match splitWords ws with
  | none => false
  | some q =>
    let w := q.base
    let whole (i : Option Instr) : Bool := q.tail.isNone && i.any fun x => x.wellFormed
    match (fld w 24 6).toNat with
    | 0x08 => whole (decodeXl q.p w (fld w 18 6) (fld w 12 6) (fld w 6 6))
    | 0x09 => q.p.isNone && 0x10 ≤ (fld w 0 6).toNat && whole (decodeMask (fld w 18 6) (fld w 12 6) (fld w 6 6) (fld w 0 6))
    | _ => false

/-- Are the words those of a whole-group instruction: `mrdy`, `mma`, `mma.j`, or `push` on `qm` (R262)? So is an extended `mma`
whose reserved bits are not 0, which raises ILL as a matrix post (R271, log entry 86). -/
def actsForGroup (ws : List Word) : Bool :=
  match ws with
  | [w] =>
    w == 0x17000000#32 ||
      (fld w 24 8 == 0x16#8 && fld w 18 6 == CmdQ.qm.code && ssrc (fld w 12 6) && ssrc (fld w 6 6) && fld w 0 6 == 0#6)
  | [w, _, _] => fld w 24 8 == 0xB0#8 && (fld w 22 2 == 0#2 || fld w 22 2 == 1#2)
  | _ => false

/-- Has every thread of a group that has not exited reached an address (R262)? -/
def Group.allAt (g : Group) (pc : DWord) : Bool := g.live.all fun u => u.st == .ready && u.pc == pc

/-- Does a ready thread wait, converging, at words for the rest of its converged set or group (R169)? -/
def State.convergingAt (s : State) (g : Group) (t : Thread) (ws : List Word) : Bool :=
  (crossesLanes ws && (participants { s with cur := { s.cur with lanes := 1#64 <<< t.lane } } g).isNone) ||
    (actsForGroup ws && !g.allAt t.pc)

/-- Does a ready thread wait, converging, at its instruction (R169)? -/
def State.convergingHere (s : State) (g : Group) (t : Thread) : Bool :=
  match s.fetch (g.poster t.lane) t.pc with
  | .words ws => s.convergingAt g t ws
  | _ => false

/-- Is the thread at an instruction boundary, where its ACC 8 record is posted (R310)? -/
def State.atBoundary (s : State) (g : Group) (t : Thread) : Bool := t.st == .ready && !s.convergingHere g t

/-- R310: the ACC 8 record of a thread that has reached its boundary, with the words of the instruction there. -/
def execLogReplayRecord (core slot lane : Nat) (s : State) : Out :=
  match s.group? core slot with
  | none => notReady s
  | some g =>
    match g.thread? lane with
    | none => notReady s
    | some t =>
      match t.logErr with
      | none => notReady s
      | some (c, a, a2) =>
        if !s.atBoundary g t then notReady s
        else
          let m : DWord := 1#64 <<< lane
          let post (nw : Nat) (ws : List Word) : Out :=
            let n := s.freeFaultSlot core
            let r := faultRec g lane false { code := .ofCode c, acc := 8, addr := a, addr2 := a2 } t.pc m 0 ws
            .next ((s.postFault core { r with nw := nw }).mapLanes core slot m fun u => { parkOn n u with logErr := none })
          match s.fetch (g.poster lane) t.pc with
          | .words ws => post ws.length ws
          | .fault _ ws nw => post nw ws
          | .walk sup v => startWalks s .fetch [(g.poster lane, .walk sup v)]
          | .line l => askLine s (g.poster lane) l
          | .wait => notReady s

/-! ## Breakpoints (R185) -/

/-- The ready threads of a group at a thread's `pc` that would be issued with it and have yet to match a breakpoint there: for an
instruction that acts for its converged set, those of the set (R157, R185). -/
def State.matchedWith (s : State) (g : Group) (t : Thread) : List Thread :=
  let cross := crossesLanes (s.peek (g.poster t.lane) t.pc)
  g.threads.filter fun u => u.st == .ready && u.pc == t.pc && decide (u.since ≤ s.cycle) && !u.bpSkip && u.logErr.isNone &&
    (!cross || (u.setId == t.setId && u.path == t.path))

/-- R185: the cohort about to be issued at the `pc` of a lane, its lowest, matches a breakpoint: it parks instead of being
issued. Threads that wait there for the rest of their set or group are not about to be issued. Which of several matching registers
the record names is open. -/
def execBreakpointMatch (core slot lane : Nat) (s : State) : Out :=
  match s.group? core slot with
  | none => notReady s
  | some g =>
    match g.thread? lane with
    | none => notReady s
    | some t =>
      let here := s.matchedWith g t
      let ns := s.breaksAt g t.pc
      if (here.map (·.lane)).head? != some lane || ns.isEmpty || g.frozen || g.dead || s.isHalted core ||
          s.convergingAt g t (s.peek (g.poster lane) t.pc) then notReady s
      else
        let n := ns.getD (Config.pick s.tick ns.length % ns.length) 0
        breakIssue s g 3 n (laneMask (here.map (·.lane))) true fun u =>
          let c := u.core core
          u.setCore { c with bpc := c.bpc ||| BitVec.ofNat 64 (ns.foldl (fun x i => x + at_ 1 (8 + i)) 0) }

/-! ## Borrowed accesses (R306) -/

/-- Size of a borrowed access in bytes. -/
def bsizeBytes : BSize → Nat
  | .b => 1 | .h => 2 | .w => 4 | .d => 8 | .q => 16

/-- Register width of a borrowed access. -/
def bsizeDW : BSize → DW
  | .d => .w64 | .q => .w128 | _ => .w32

/-- The caller that a record names, if it still exists: the posting thread's group is the one in its slot (R306). -/
def State.caller (s : State) (q : EaselSlot) : Option Poster :=
  let b := q.body
  if b.kind < 1 || 4 < b.kind then none
  else match s.group? q.core b.gslot with
    | none => none
    | some g => if (g.team, g.gid) != q.owner || g.exited b.lane then none else some (g.poster b.lane)

/-- What a borrowed access comes to: where it leads, a BERR status, or a wait. -/
inductive Borrow where
  | go (p : Poster) (w : Where)
  | err (n : Nat)
  | wait
  deriving DecidableEq, Repr

/-- A borrowed access of a record's caller (R306). -/
def State.borrow (s : State) (q : EaselSlot) (a : DWord) (n : Nat) (store : Bool) : Borrow :=
  match s.caller q with
  | none => .err 6
  | some p =>
    let kind : AKind := if store then .store else .load
    if bits a 63 56 == 0xFE then .err 1
    else match (s.reach p a n kind).2 with
      | .queue _ => .err 1
      | .dev _ => .err 1
      | .fault i =>
        (match i.code with
         | .aperture => .err 1
         | .owner => .err (if bits a 63 56 == 0xF2 then 1 else 2)
         | .xclass => .err 3
         | _ => .err 2)
      | .walk _ _ => .wait
      | .wait => .wait
      | w =>
        match s.planWhere kind a n w with
        | .line _ _ => .err 4
        | .fault _ => .err 5
        | _ => .go p w

/-- Set BERR and count a failure (R306). -/
def State.borrowed (s : State) (core slot berr : Nat) : State :=
  { s with easel := s.easel.map fun x =>
      if x.core == core && x.slot == slot then
        { x with body := { x.body with berr := berr, bcnt := if berr == 0 then x.body.bcnt else min 0xFFFF (x.body.bcnt + 1) } }
      else x }

/-- Must some lane's borrowed access wait? -/
def borrowWaits (s : State) (g : Group) (a b : Sel) (n : Nat) (store : Bool) : Bool :=
  (g.inMask s.cur.lanes).any fun t =>
    match slotOf (vsource s.tick g t false b) with
    | none => false
    | some i =>
      match s.deliveredEasel g i with
      | none => false
      | some q => s.borrow q ((vsource s.tick g t true a).val.setWidth 64) n store == .wait

/-- The state in which the walks of a borrowed access have been made (R362). -/
def State.borrowWalks (s : State) (q : EaselSlot) (a : DWord) (n : Nat) (store : Bool) : State :=
  match s.caller q with
  | none => s
  | some p => if bits a 63 56 == 0xFE then s else (s.reach p a n (if store then .store else .load)).1

/-- R306: a borrowed load. One at a tainted address is not served from L1 (R243, R255). -/
def execBld (d a b : Sel) (z : BSize) (s : State) : Out :=
  onGroup s fun g0 => withRegs s g0 [(d, (bsizeDW z).regs), (a, 2), (b, 1)] <|
    let n := bsizeBytes z
    let w := bsizeDW z
    if g0.priv != .u && borrowWaits s g0 a b n false then notReady s
    else
      supIssue s [(d, w.regs), (a, 2), (b, 1)] (fun g t => vsource s.tick g t false b) (fun g t => [vsource s.tick g t true a])
        (fun g t => inactiveLane s.tick g none w d [] t)
        (fun u g t i vs =>
          let addr := vs.headD (Val.const 0)
          let taint := addr.taint || (vsource s.tick g t false b).taint
          let put (u : State) (x : Nat) (pois : Bool) : LaneOut :=
            let v : Val := { val := BitVec.ofNat 128 x, taint := taint
                             poison := pois || addr.poison || (vsource s.tick g t false b).poison, wait := [] }
            .ok ((u.mapLanes g.core g.slot (1#64 <<< t.lane) fun x => pushVal (writeDst x w d v) w v).noteWrites g
              (1#64 <<< t.lane) w d)
          match u.deliveredEasel g i with
          | none => .bad (.plain .svcBad)
          | some q =>
            let ea : DWord := addr.val.setWidth 64
            let u0 := u.borrowWalks q ea n false
            match u.borrow q ea n false with
            | .go p wh =>
              let (u1, bs, pois) := u0.readAt p ea n (fun c => c && !taint) wh
              put (u1.borrowed g.core i 0) (leNat bs) pois
            | .err e => put (u0.borrowed g.core i e) 0 false
            | .wait => .ok u) id

/-- R306: a borrowed store. -/
def execBst (d a b : Sel) (z : BSize) (s : State) : Out :=
  onGroup s fun g0 => withRegs s g0 [(d, (bsizeDW z).regs), (a, 2), (b, 1)] <|
    let n := bsizeBytes z
    let w := bsizeDW z
    if g0.priv != .u && borrowWaits s g0 a b n true then notReady s
    else
      supIssue s [(d, w.regs), (a, 2), (b, 1)] (fun g t => vsource s.tick g t false b)
        (fun g t => [source s.tick g t w d, vsource s.tick g t true a]) (fun _ t => t)
        (fun u g _ i vs =>
          match u.deliveredEasel g i with
          | none => .bad (.plain .svcBad)
          | some q =>
            let ea : DWord := (vs.getD 1 (Val.const 0)).val.setWidth 64
            let u0 := u.borrowWalks q ea n true
            match u.borrow q ea n true with
            | .go p wh =>
              .ok ((u0.writeAt p (toBytes (vs.headD (Val.const 0)).val.toNat n) wh).borrowed g.core i 0)
            | .err e => .ok (u0.borrowed g.core i e)
            | .wait => .ok u) id

/-! ## Freeze and thaw (R312, R313) -/

/-- Groups that a selection names, or SVC_BAD. The issuing group is never selected. -/
def State.selected (s : State) (g : Group) (x : DWord) : Except FaultInfo (List Group) :=
  let bad : Except FaultInfo (List Group) := .error (.plain .svcBad)
  let here := s.groups.filter fun h => h.core == g.core && h.slot != g.slot
  let sup := g.priv == .s
  if bits x 29 22 != 0 || bits x 15 10 != 0 || (bitAt x 9 && sup) then bad
  else match bits x 63 62 with
    | 0 =>
      let named := s.groups.filter fun h => h.core == g.core && h.slot == bits x 8 0
      if sup && named.any (fun h => h.world != g.world || h.service.isSome) then bad
      else .ok (here.filter fun h => h.slot == bits x 8 0)
    | 1 =>
      let hit := here.filter fun h => h.lq.toNat == bits x 21 16 && h.lseq.toNat == bits x 61 30
      if sup && hit.any (fun h => h.world != g.world) then bad else .ok hit
    | 2 =>
      if sup && bits x 5 0 != g.world.toNat then bad
      else .ok (here.filter fun h => h.world.toNat == bits x 5 0 && (bitAt x 9 || h.service.isNone))
    | _ => bad

/-- An instruction on selected groups. -/
def selectIssue (a : Sel) (f : State → Group → Group → Group) (s : State) : Out :=
  onGroup s fun g =>
    atLevel s g .s <|
      withS s g 0 a fun x =>
        match s.selected g x with
        | .error i => raiseCohort s g i
        | .ok hs =>
          let s1 := hs.foldl (fun u h => u.putGroup (f s g h)) (s.putGroup (movePast s g))
          .next ((hs.map (·.team)).eraseDups.foldl State.recheck s1)

/-- R313: freeze. -/
def execFreeze (a : Sel) (s : State) : Out :=
  selectIssue a (fun _ g h => if g.priv == .f then { h with fzF := true } else { h with fzS := true }) s

/-- R312, R313: thaw. -/
def execThaw (a : Sel) (s : State) : Out :=
  selectIssue a (fun u g h =>
    if g.priv == .f then { h with fzS := false, fzF := false, fzB := false }
    else { h with fzS := false, fzB := h.fzB && u.ebud h == 0 }) s

/-! ## The timer and waiting records (R297, R408) -/

/-- A TIMER record at its posting: it takes the time, and the compare value that fired returns to all ones, unless another has
been set while the record waited (R295, R408). -/
def State.timerPosted (s : State) (core : Nat) (r : EaselRec) : State × EaselRec :=
  if r.kind != 0x05 then (s, r)
  else
    let c := s.core core
    let w := r.world.toNat
    let v := r.a.getD 1 0
    (if s.tcmp core w == v then s.setCore { c with tcmp := mapSet (BitVec.allOnes 64) c.tcmp w (BitVec.allOnes 64) } else s,
     { r with a := [s.time, v] })

/-- R408: a compare value is reached: one TIMER record is posted, or waits at its source for the core's easel, and the value
returns to all ones at posting (R297). -/
def execTimerFire (core world : Nat) (s : State) : Out :=
  let v := s.tcmp core world
  let r := deviceRec 0x05 0 world (world == 0) [s.time, v]
  let waits (p : Nat × EaselRec) : Bool :=
    p.1 == core && p.2.kind == 0x05 && p.2.world.toNat == world && p.2.a.getD 1 0 == v
  if v == BitVec.allOnes 64 || s.time.toNat < v.toNat || s.pending.any waits then notReady s
  else
    let u := s.postDevice core r
    .next (if u.pending.length == s.pending.length then (u.timerPosted core r).1 else u)

/-- R297: the oldest record that waits at its source for a core enters its easel. -/
def execDeviceRecordPost (core : Nat) (s : State) : Out :=
  match s.pending.find? fun p => p.1 == core with
  | none => notReady s
  | some p =>
    if s.isHalted core || s.easelFree core == 0 then notReady s
    else
      let u := ({ s with pending := s.pending.erase p } : State).timerPosted core p.2
      .next (u.1.putEasel core false 0 (0, 0) u.2).1

end Sys2Proof.Machine
end

