-- ==== Sys2Proof/Machine/Launch.lean ====
section
/-! DEFINITION. The LNCH instructions: launch records and their checks, gangs, cancellation, variant sets, pipes and the
registration of service groups (R319 to R326, R330 to R335, R376 to R383). -/

namespace Sys2Proof.Machine

/-! ## Fields of a launch record (R320) -/

/-- World. -/
def lrWorld (r : BitVec 1024) : Nat := bits r 261 256
/-- Address space. -/
def lrAsid (r : BitVec 1024) : Nat := bits r 274 262
/-- Graph instance. -/
def lrGinst (r : BitVec 1024) : Nat := bits r 303 288
/-- Priority class. -/
def lrPri (r : BitVec 1024) : Nat := bits r 202 200
/-- Is it a service launch? -/
def lrSvc (r : BitVec 1024) : Bool := bitAt r 207
/-- First core of a service launch. -/
def lrSvcc (r : BitVec 1024) : Nat := bits r 312 304
/-- Level of a service launch: F when set. -/
def lrSvl (r : BitVec 1024) : Bool := bitAt r 203
/-- Grid teams per dimension. -/
def lrGrid (r : BitVec 1024) : Nat × Nat × Nat := (bits r 147 128 + 1, bits r 167 148 + 1, bits r 187 168 + 1)
/-- Teams of the grid. -/
def lrTeams (r : BitVec 1024) : Nat := (lrGrid r).1 * (lrGrid r).2.1 * (lrGrid r).2.2
/-- Cluster width in cores. -/
def lrCw (r : BitVec 1024) : Nat := bits r 195 192 + 1
/-- Cluster height in cores. -/
def lrCh (r : BitVec 1024) : Nat := bits r 199 196 + 1
/-- Dependence vectors in use. -/
def lrNdep (r : BitVec 1024) : Nat := bits r 214 212
/-- Edge scope. -/
def lrEscp (r : BitVec 1024) : Nat := bits r 211 208
/-- Scoreboard address. -/
def lrScore (r : BitVec 1024) : DWord := r.extractLsb' 448 64
/-- Argument pointer. -/
def lrArgp (r : BitVec 1024) : DWord := r.extractLsb' 64 64
/-- Address of the kernel descriptor or variant set. -/
def lrKdesc (r : BitVec 1024) : DWord := BitVec.ofNat 64 (bits r 63 6 * 64)
/-- Does KDESC name a variant set? -/
def lrVar (r : BitVec 1024) : Bool := bitAt r 0
/-- Component `j` of dependence vector `k`. -/
def lrDep (r : BitVec 1024) (k j : Nat) : Int := signedOf 5 (bits r (15 * k + 5 * j + 388) (15 * k + 5 * j + 384))
/-- A dependence vector: dx, dy, dz. -/
def lrDepVec (r : BitVec 1024) (k : Nat) : Int × Int × Int := (lrDep r k 0, lrDep r k 1, lrDep r k 2)
/-- The prior launches named: queue and number. -/
def lrPriors (r : BitVec 1024) : List (Nat × Nat) :=
  (List.range 4).filterMap fun k =>
    if bitAt r (64 * k + 575) then some (bits r (64 * k + 565) (64 * k + 560), bits r (64 * k + 543) (64 * k + 512)) else none
/-- A pipe binding. -/
def lrPipe (r : BitVec 1024) (k : Nat) : DWord := r.extractLsb' (768 + 64 * k) 64
/-- The pipe bindings in use (R330). -/
def lrPipes (r : BitVec 1024) : List DWord := ((List.range 4).map (lrPipe r)).filter fun p => bitAt p 63

/-! ## Fields of a kernel descriptor (R319) -/

/-- Group width. -/
def kdGw (d : BitVec 512) : Nat := bits d 71 64
/-- Named registers. -/
def kdNreg (d : BitVec 512) : Nat := bits d 77 72
/-- Groups of a team. -/
def kdGroups (d : BitVec 512) : Nat := bits d 101 96 * bits d 107 102 * bits d 113 108
/-- `.joint`. -/
def kdJoint (d : BitVec 512) : Bool := bitAt d 82
/-- Scratchpad bytes of a team. -/
def kdSpad (d : BitVec 512) : Nat := bits d 147 128
/-- Vault bytes of a team. -/
def kdVault (d : BitVec 512) : Nat := bits d 191 160
/-- Register storage of a group (R91). -/
def regStorage (gw nreg : Nat) : Nat := gw * (4 * nreg + 128) + 1024
/-- Register storage of a team. -/
def kdStorage (d : BitVec 512) : Nat := kdGroups d * regStorage (kdGw d) (kdNreg d)
/-- Class code of a launch: KCLS, or CLSD where KCLS is 0b11 (R320). -/
def launchCls (r : BitVec 1024) (d : BitVec 512) : Nat := if bits r 205 204 == 3 then bits d 81 80 else bits r 205 204

/-! ## Well-formedness (R321, R322, R335) -/

/-- Does a precede b among the sequence numbers of a queue (R323)? -/
def seqPrecedes (a b : Nat) : Bool :=
  let d := (b + 2 ^ 32 - a % 2 ^ 32) % 2 ^ 32
  1 ≤ d && d < 2 ^ 31

/-- The number that a queue gives next. -/
def State.lqNumber (s : State) (q : Nat) : Nat := mapGet 0 s.lqNext q

/-- A cluster's shape is one that R321 lists. -/
def clusterOk (w h : Nat) : Bool :=
  (w ≤ 3 && h ≤ 4) || (w ≤ 4 && h ≤ 3) || [(2, 6), (6, 2), (1, 12), (12, 1)].contains (w, h)

/-- Is a vector within −8 to 8 and lexicographically negative in (dz, dy, dx)? -/
def depOk (v : Int × Int × Int) : Bool :=
  let small (x : Int) : Bool := decide (-8 ≤ x) && decide (x ≤ 8)
  small v.1 && small v.2.1 && small v.2.2 &&
    (v.2.2 < 0 || (v.2.2 == 0 && (v.2.1 < 0 || (v.2.1 == 0 && v.1 < 0))))

/-- The conditions of R321, R330 and R335 that the record alone decides; `member` for a record of a gang. -/
def State.recordOk (s : State) (r : BitVec 1024) (member : Bool) : Bool :=
  let reserved := bits r 447 444 == 0 && bits r 319 313 == 0 && bits r 287 275 == 0 && bits r 255 240 == 0 &&
    bits r 191 188 == 0 && bits r 5 1 == 0 &&
    (List.range 4).all fun k => bits r (64 * k + 574) (64 * k + 566) == 0 && bits r (64 * k + 559) (64 * k + 544) == 0 &&
      bits (lrPipe r k) 47 0 == 0
  let deps := lrNdep r ≤ 4 && (List.range 4).all fun k =>
    if k < lrNdep r then depOk (lrDepVec r k) else bits r (15 * k + 398) (15 * k + 384) == 0
  let size := lrTeams r ≤ 2 ^ 20 && lrTeams r % (lrCw r * lrCh r) == 0 && clusterOk (lrCw r) (lrCh r)
  let priors := (lrPriors r).all fun p => seqPrecedes p.2 (s.lqNumber p.1)
  let service := if lrSvc r then
      (bits r 205 204 == 0 || bits r 205 204 == 3) && !bitAt r 206 && lrNdep r == 0 && lrCw r == 1 && lrCh r == 1 &&
        (lrGrid r).2.1 == 1 && (lrGrid r).2.2 == 1 && (lrPipes r).isEmpty && !member
    else !lrSvl r && lrSvcc r == 0
  reserved && deps && size && priors && service && 2 ≤ lrEscp r && lrEscp r ≤ 9 && (lrArgp r).toNat % 64 == 0 &&
    (if member then ((lrPipes r).isEmpty || lrTeams r == 1) && (lrPipes r).all fun p => 6 ≤ bits p 51 48 && bits p 51 48 ≤ 13
     else (lrPipes r).isEmpty)

/-- The conditions that need the kernel descriptor. -/
def kdOk (r : BitVec 1024) (d : BitVec 512) : Bool :=
  let gw := kdGw d
  bits d 511 276 == 0 && bits d 159 148 == 0 && bits d 127 114 == 0 && bits d 95 83 == 0 && bits d 79 78 == 0 &&
    [8, 16, 32, 64].contains gw && gw ≤ Config.wmax && 1 ≤ kdNreg d && kdNreg d ≤ 32 && 1 ≤ kdGroups d && kdGroups d ≤ 32 &&
    (!kdJoint d || (gw == 64 && 4 ≤ kdGroups d)) && launchCls r d != 3 &&
    (!lrSvc r || (kdGroups d == 1 && kdSpad d == 0 && kdVault d == 0 && !kdJoint d && launchCls r d == 0))

/-- The conditions of the context header (R322). -/
def ctxOk (r : BitVec 1024) (c : BitVec 512) : Bool :=
  let lg := bits c 23 16
  bits c 383 24 == 0 && bits c 15 4 == 0 && bits c 511 504 == 0 && bits c 459 448 == 0 && bits c 390 384 == 0 &&
    (bits c 447 440 == 0 || (bits c 447 440 == 1 && lrSvc r && !lrSvl r)) && (lg == 0 || (7 ≤ lg && lg ≤ 21)) &&
    bits c 3 0 ≤ 10

/-- Could some core ever hold a team of the launch (R325)? -/
def everFits (r : BitVec 1024) (d : BitVec 512) : Bool :=
  if lrSvc r then kdStorage d ≤ 65536 && lrSvcc r + lrTeams r ≤ Config.cores
  else kdStorage d ≤ 458752 && kdSpad d ≤ 786432 && kdGroups d * kdGw d ≤ Config.maxThreads

/-- WORLD of an ASID table entry (R356). -/
def State.asidWorld (s : State) (a : Nat) : Nat := s.readPa (bits s.tctl 39 18 * 2 ^ 18 + 32 * a) 1 % 64

/-- LAUNCH_WORLD (R325, R335, R356). -/
def State.worldBad (s : State) (g : Group) (r : BitVec 1024) (q : Nat) : Bool :=
  let e := s.devWord (dev3 + 0x100 + 4 * q)
  let issuer := if lrSvc r then
      (if g.priv == .f then lrSvl r == (lrWorld r == 0) else !lrSvl r && lrWorld r == g.world.toNat)
    else g.priv == .f || lrWorld r == g.world.toNat
  !bitAt e 31 || bits e 21 16 != lrWorld r || !issuer || s.asidWorld (lrAsid r) != lrWorld r

/-- The first status that a record alone gives, in R325's order; `sbBad` is the rejection of sB itself. -/
def State.recordStatus (s : State) (g : Group) (r : BitVec 1024) (q : Nat) (sbBad member : Bool) : Option Nat :=
  if sbBad || !s.recordOk r member then some 1
  else if s.worldBad g r q then some 2
  else if s.cancelled (lrWorld r) (lrGinst r) then some 3
  else none

/-! ## Variant sets (R382, R383) -/

/-- Entries of a variant set. -/
def vsN (v : BitVec 1024) : Nat := bits v 131 128
/-- Descriptor address of an entry. -/
def vsDesc (v : BitVec 1024) (k : Nat) : DWord := v.extractLsb' (512 + 64 * k) 64
/-- Capacity of an entry. -/
def vsCap (v : BitVec 1024) (k : Nat) : Nat := bits v (32 * k + 287) (32 * k + 256)
/-- Address of the size word. -/
def vsSizeA (v : BitVec 1024) : DWord := v.extractLsb' 0 64

/-- Is a variant set malformed? -/
def vsBad (v : BitVec 1024) : Bool :=
  !(1 ≤ vsN v && vsN v ≤ 8) || bits v 255 132 != 0 || bits v 127 64 != 0 || (vsSizeA v).toNat % 4 != 0 ||
    (List.range 8).any fun k =>
      if k < vsN v then (vsDesc v k).toNat % 64 != 0 else (vsDesc v k != 0#64 || vsCap v k != 0)

/-- The entry of the smallest capacity that holds a size, the lowest on a tie. -/
def vsChoose (v : BitVec 1024) (size : Nat) : Option Nat :=
  (List.range (vsN v)).foldl (fun o k =>
    if vsCap v k < size then o
    else match o with
      | some j => if vsCap v k < vsCap v j then some k else o
      | none => some k) none

/-- The bytes of a load as a 1,024-bit number. -/
def word1024 (bs : List Byte) : BitVec 1024 := BitVec.ofNat 1024 (leNat bs)

/-! ## Retirement of launches and tokens (R328, R332) -/

/-- Are all of a started launch's teams done with (R328, R332, R380)? -/
def State.launchDone (s : State) (l : Launch) : Bool :=
  l.started.isSome && l.placed.isEmpty &&
    (s.cancelled (lrWorld l.image) (lrGinst l.image) || (l.stopped && l.queued.isEmpty) ||
      lrTeams l.image ≤ l.retired.length + l.torn.length)

/-- Is anything tagged with an instance left (R332)? -/
def State.tagged (s : State) (w n : Nat) : Bool :=
  let by_ (p : Poster) : Bool := p.world.toNat == w && p.ginst.toNat == n
  let rec_ (r : EaselRec) : Bool := r.hasPoster && r.world.toNat == w && r.ginst.toNat == n
  let grp (g : Group) : Bool := g.world.toNat == w && g.ginst.toNat == n
  s.launches.any (fun l => lrWorld l.image == w && lrGinst l.image == n) || s.groups.any grp ||
    s.easel.any (fun q => q.live && rec_ q.body) || s.pending.any (fun q => rec_ q.2) ||
    s.faultq.any (fun q => q.live && q.body.world.toNat == w && q.body.ginst.toNat == n) ||
    s.mcmds.any (fun c => by_ c.by_) || s.joints.any (fun c => by_ c.by_) || s.ccmds.any (fun c => by_ c.by_) ||
    s.ncmds.any (fun c => by_ c.by_) || s.ringq.any (fun c => by_ c.by_) ||
    s.pipes.any (fun p => p.elems.any fun e => e.world.toNat == w && e.ginst.toNat == n) || s.images.any fun i => i.groups.any grp

/-- Tokens of instances of which nothing is left expire. -/
def State.expireTokens (s : State) : State :=
  if s.tokens.isEmpty then s else { s with tokens := s.tokens.filter fun t => s.tagged t.1 t.2 }

/-- A launch whose teams are all done with retires. -/
def State.settle (s : State) (lq lseq : Nat) : State :=
  match s.launch? lq lseq with
  | none => s
  | some l =>
    if s.launchDone l then { s with launches := s.launches.filter fun k => !(k.lq == lq && k.lseq == lseq) } else s

/-! ## launch and gang (R325, R326) -/

/-- The context header of a record, then LAUNCH_FIT (R325 steps 3 and 4). -/
def loadHeader (s : State) (g : Group) (taint : Bool) (r : BitVec 1024) (ds : List (BitVec 512)) (bad : Nat → State → Out)
    (k : State → BitVec 512 → Out) : Out :=
  commandLoad s g (lrArgp r - 64#64) taint 64 64 fun u bs =>
    let c := word512 bs
    if !ctxOk r c then bad 1 u
    else if !ds.any (everFits r) then bad 4 u
    else k u c

/-- The descriptors of a variant set, one load each, checked as they are read. -/
def loadVariants (g : Group) (taint : Bool) (r : BitVec 1024) (v : BitVec 1024) (bad : Nat → State → Out)
    (k : State → List (BitVec 512) → Out) : Nat → State → List (BitVec 512) → Out
  | 0, s, ds => k s ds
  | n + 1, s, ds =>
    commandLoad s g (vsDesc v ds.length) taint 64 64 fun u bs =>
      if !kdOk r (word512 bs) then bad 1 u
      else loadVariants g taint r v bad k n u (ds ++ [word512 bs])

/-- The loads and checks of one record at an address, with its taint (R325). -/
def checkRecord (s : State) (g : Group) (a : DWord) (taint : Bool) (q : Nat) (sbBad member : Bool) (bad : Nat → State → Out)
    (k : State → BitVec 1024 → BitVec 512 → BitVec 512 → Out) : Out :=
  commandLoad s g a taint 128 128 fun u bs =>
    let r := word1024 bs
    match u.recordStatus g r q sbBad member with
    | some n => bad n u
    | none =>
      if lrVar r then
        commandLoad u g (lrKdesc r) taint 128 128 fun u1 vb =>
          let v := word1024 vb
          if vsBad v then bad 1 u1
          else loadVariants g taint r v bad (fun u2 ds =>
            loadHeader u2 g taint r ds bad fun u3 c => k u3 r (ds.headD 0) c) (vsN v) u1 []
      else
        commandLoad u g (lrKdesc r) taint 64 64 fun u1 kb =>
          let d := word512 kb
          if !kdOk r d then bad 1 u1 else loadHeader u1 g taint r [d] bad fun u2 c => k u2 r d c

/-- A record as a queue holds it. -/
def newLaunch (q n acc : Nat) (gang : Option (Nat × Nat)) (r : BitVec 1024) (d c : BitVec 512) : Launch :=
  { lq := q, lseq := n, acc := acc, image := r, kd := d, ctx := c, gang := gang, started := none, stopped := false
    queued := [], placed := [], retired := [], torn := [], fair := false
    rem := BitVec.ofNat 32 (bits r 351 320)
    warn := BitVec.ofNat 32 (bits r 383 352)
    exh := false }

/-- Accept records with consecutive numbers into a queue. -/
def State.accept (s : State) (q : Nat) (rs : List (BitVec 1024 × BitVec 512 × BitVec 512)) : State :=
  let first := s.lqNumber q
  let gang := if 1 < rs.length then some (first, rs.length) else none
  let new := (List.range rs.length).filterMap fun i =>
    (rs[i]?).map fun x => newLaunch q ((first + i) % 2 ^ 32) (s.fresh + i) gang x.1 x.2.1 x.2.2
  { s with
    launches := s.launches ++ new
    fresh := s.fresh + rs.length
    lqNext := mapSet 0 s.lqNext q ((first + rs.length) % 2 ^ 32) }

/-- The result of a launch instruction in sD. -/
def launchAnswer (s : State) (d : Sel) (v : Nat) (u : State) : Out :=
  match u.group? s.cur.core s.cur.slot with
  | some g => .next (u.putGroup (movePast s (g.setScalar d { val := BitVec.ofNat 64 v, taint := false, poison := false })))
  | none => notReady s

/-- A rejection. -/
def rejected (s : State) (d : Sel) (n : Nat) (u : State) : Out := launchAnswer s d (2 ^ 63 + n) u

/-- R325: check a record and accept it; until RDY is set it waits (R357). -/
def execLaunch (d a b : Sel) (s : State) : Out :=
  onGroup s fun g =>
    atLevel s g .s <| releasing s g <| withS s g 0 a fun x => withS s g 1 b fun y =>
      let q := bits y 5 0
      if !s.rdy || (bits y 63 6 == 0 && 16 ≤ s.lqCount q) then notReady s
      else checkRecord s g x (ssource g a).taint q (bits y 63 6 != 0) false (rejected s d) fun u r kd c =>
        launchAnswer s d (u.lqNumber q) (u.accept q [(r, kd, c)])

/-- The conditions across the members of a gang (R326, R330). -/
def gangOk (rs : List (BitVec 1024)) : Bool :=
  let r0 := rs.headD 0
  let all := rs.flatMap lrPipes
  let side (i : Nat) (dir : Bool) : List DWord := all.filter fun p => bits p 61 59 == i && bitAt p 62 == dir
  rs.all (fun r => lrWorld r == lrWorld r0 && lrGinst r == lrGinst r0 && lrNdep r == 0 && lrCw r == 1 && lrCh r == 1) &&
  (List.range 8).all fun i =>
    match side i false, side i true with
    | [], [] => true
    | [p], [c] => bits p 51 48 == bits c 51 48
    | _, _ => false

/-- The members of a gang, in record order: `n` remain. -/
def checkMembers (s0 : State) (g : Group) (a : DWord) (taint : Bool) (q : Nat) (sbBad : Bool) (d : Sel) :
    Nat → State → List (BitVec 1024 × BitVec 512 × BitVec 512) → Out
  | 0, s, rs =>
    if !gangOk (rs.map (·.1)) then rejected s0 d 1 s else launchAnswer s0 d (s.lqNumber q) (s.accept q rs)
  | n + 1, s, rs =>
    checkRecord s g (a + BitVec.ofNat 64 (128 * rs.length)) taint q sbBad true (rejected s0 d) fun u r kd c =>
      checkMembers s0 g a taint q sbBad d n u (rs ++ [(r, kd, c)])

/-- R326: check 2 to 8 records and accept them as one unit, or none of them. -/
def execGang (d a b : Sel) (s : State) : Out :=
  onGroup s fun g =>
    atLevel s g .s <| releasing s g <| withS s g 0 a fun x => withS s g 1 b fun y =>
      let n := bits y 7 0
      let q := bits y 21 16
      let sbBad := bits y 15 8 != 0 || bits y 63 22 != 0 || !(2 ≤ n && n ≤ 8)
      if !s.rdy || (!sbBad && 16 < s.lqCount q + n) then notReady s
      else checkMembers s g x (ssource g a).taint q sbBad d (if sbBad then 1 else n) s []

/-! ## cancel (R332) -/

/-- The CANCELLED record of a core (R295). -/
def cancelRec (w n k : Nat) : EaselRec := deviceRec 0x09 0 w false [BitVec.ofNat 64 n, BitVec.ofNat 64 k]

/-- What a token does when it is issued: the instance's groups freeze, their cores are told, teams not yet placed never
will be, and launches with nothing left retire. -/
def State.issueToken (s : State) (w n : Nat) : State :=
  let hit (g : Group) : Bool := g.world.toNat == w && g.ginst.toNat == n && !g.live.isEmpty
  let drop (l : Launch) : Launch :=
    if l.started.isSome && lrWorld l.image == w && lrGinst l.image == n then
      { l with queued := [], fair := false, torn := l.torn ++ l.queued.map (·.1) } else l
  let s1 := { s with
    tokens := (w, n) :: s.tokens
    groups := s.groups.map fun g => if hit g then { g with fzC := true } else g
    launches := s.launches.map drop }
  let cores := (List.range Config.cores).filter fun c => s.groups.any fun g => g.core == c && hit g
  let s2 := cores.foldl (fun u c =>
    u.postDevice c (cancelRec w n ((s.groups.filter fun g => g.core == c && hit g).length))) s1
  (s2.launches.foldl (fun u l => u.settle l.lq l.lseq) s2).expireTokens

/-- R332: cancel an instance. -/
def execCancel (a : Sel) (s : State) : Out :=
  onGroup s fun g =>
    atLevel s g .s <| withS s g 0 a fun x =>
      let bad := if g.priv == .f then bits x 63 22 != 0 else bits x 63 16 != 0
      let w := if g.priv == .f then bits x 21 16 else g.world.toNat
      let n := bits x 15 0
      if bad then raiseCohort s g (.plain .svcBad)
      else
        let s1 := s.putGroup (movePast s g)
        if s.cancelled w n then .next s1
        else if 16 ≤ (s.tokens.filter fun t => t.1 == w).length then notReady s
        else .next (s1.issueToken w n)

/-! ## vsel and svc.reg (R333, R334) -/

/-- R333: the descriptor of a variant set for a size. -/
def execVsel (d a b : Sel) (s : State) : Out :=
  onGroup s fun g =>
    atLevel s g .s <| withS s g 0 a fun x => withS s g 1 b fun y =>
      commandLoad s g x (ssource g a).taint 128 128 fun u bs =>
        let v := word1024 bs
        if vsBad v then raiseCohort u g (.plain .copyFmt)
        else launchAnswer s d (match vsChoose v y.toNat with
          | some k => (vsDesc v k).toNat
          | none => 0) u

/-- Service groups of a world on a core. -/
def State.servicesOn (s : State) (core w : Nat) : List Group :=
  s.groups.filter fun g => g.core == core && g.world.toNat == w && g.service.isSome

/-- R334: register the issuing group as a service group, or withdraw it. -/
def execSvcReg (a b : Sel) (s : State) : Out :=
  onGroup s fun g =>
    atLevel s g .s <| withS s g 0 a fun x => withS s g 1 b fun y =>
      let others := (s.servicesOn g.core g.world.toNat).filter fun h => h.slot != g.slot
      if 1 < x.toNat || 7 < y.toNat || (x == 1#64 && 4 ≤ others.length) then raiseCohort s g (.plain .svcBad)
      else .next (s.putGroup { movePast s g with service := if x == 1#64 then some y.toNat else none })

/-! ## Pipes (R330, R331) -/

/-- The pipe that a group's launch binds under a number in a direction. -/
def State.pipeFor (s : State) (g : Group) (x : DWord) (get : Bool) : Option Pipe :=
  match s.launch? g.lq.toNat g.lseq.toNat with
  | none => none
  | some l =>
    if 7 < x.toNat || !((lrPipes l.image).any fun p => bits p 61 59 == x.toNat && bitAt p 62 == get) then none
    else match l.gang with
      | some (first, _) => s.pipes.find? fun p => p.lq == l.lq && p.first == first && p.idx == x.toNat
      | none => none

/-- Replace a pipe. -/
def State.setPipe (s : State) (p : Pipe) : State :=
  { s with pipes := s.pipes.map fun q => if q.lq == p.lq && q.first == p.first && q.idx == p.idx then p else q }

/-- A pipe instruction of one action per thread: sA and, for each thread, what it consumes of its own; threads fault one by
one (R300, R331). -/
def pipeThreads (s : State) (g : Group) (a : Sel) (k : DWord → Out) : Out :=
  match consumeS s.tick 100000 g a with
  | some x => k x
  | none => .next (raiseLanes s g ((g.inMask s.cur.lanes).map fun t => (t.lane, .plain .poison)))

/-- The threads of the cohort raise APERTURE, but for those that raise POISON first (R274, R298). -/
def pipeBad (s : State) (g : Group) (poisoned : List Thread) : Out :=
  .next (raiseLanes s g ((g.inMask s.cur.lanes).map fun t =>
    (t.lane, .plain (if poisoned.any fun u => u.lane == t.lane then .poison else .aperture))))

/-- The header of a pipe's ring, its first 64 bytes (R330). -/
def Pipe.headKeys (p : Pipe) : List Nat :=
  (List.range 64).map fun i => vaultKey (vaultOff p.site (p.seg * 65536)) + i

/-- The bytes of the element that is put as number `j` from a pipe's placement on. DESIGN CHOICE (log entry 61): elements follow
the header in the order of their numbers, and around. -/
def Pipe.elemKeys (p : Pipe) (j : Nat) : List Nat :=
  (List.range 4).map fun i => vaultKey (vaultOff p.site (p.seg * 65536)) + 64 + 4 * (j % p.cap) + i

/-- What an operation on a pipe does to the bytes of its ring, which are device-defined: it reads the header, and writes it and
the elements that it puts, from number `j` to below `k` (R206, R209, R330). -/
def State.ringBytes (s : State) (g : Group) (p : Pipe) (j k : Nat) : State :=
  let ks := p.headKeys ++ (List.range (k - j)).flatMap fun i => p.elemKeys (j + i)
  let s1 := s.meetErrors (g.poster (leadOf s g).1) p.headKeys
  (s1.writeKeys ks (ks.map fun x => Config.free 8 s.tick (2 ^ 90 + x))).coverPoison ks

/-- The elements that a `pipe.get` pops until it has enough, with their numbers from `j` on, and the rest: those of a cancelled
instance are dropped when they are popped (R258). -/
def State.popLive (s : State) : Nat → Nat → List PipeElem → List (Nat × PipeElem) × List PipeElem
  | 0, _, l => ([], l)
  | _ + 1, _, [] => ([], [])
  | n + 1, j, e :: l =>
    if s.cancelled e.world.toNat e.ginst.toNat then s.popLive (n + 1) (j + 1) l
    else ((j, e) :: (s.popLive n (j + 1) l).1, (s.popLive n (j + 1) l).2)

/-- R331: append one element per thread. In an N group a poisoned word is any value, and clean (R102, R206). -/
def execPipePut (a b : Sel) (s : State) : Out :=
  onGroup s fun g =>
    withRegs s g [(b, 1)] <| releasing s g <|
      let v (t : Thread) : Val := vsource s.tick g t false b
      let run := g.inMask s.cur.lanes
      if run.any fun t => !(v t).wait.isEmpty then notReady s
      else pipeThreads s g a fun x =>
        let bad := run.filter fun t => (v t).poison && g.kcls != .n
        let ts := run.filter fun t => !((v t).poison && g.kcls != .n)
        let fs := bad.map fun t => (t.lane, FaultInfo.plain .poison)
        match s.pipeFor g x false with
        | none => pipeBad s g bad
        | some p =>
          let go (u : State) : Out :=
            let m := laneMask (ts.map (·.lane))
            .next (raiseLanes (u.putGroup (g.mapThreads fun t => if laneBit m t.lane then s.past t else t)) g fs)
          let e (t : Thread) : PipeElem :=
            { val := if (v t).poison then Config.free 32 s.tick (170000 + t.lane) else (v t).val.setWidth 32
              world := g.world, ginst := g.ginst }
          let n := p.popped + p.elems.length
          if p.closed then pipeBad s g bad
          else if p.getGone then go s
          else if p.cap < p.elems.length + ts.length then notReady s
          else go ((s.setPipe { p with elems := p.elems ++ ts.map e }).ringBytes g p n (n + ts.length))

/-- The poison that an element's bytes carry for a thread that reads them, and the state after that read (R206, R219). -/
def State.readElem (s : State) (p : Pipe) (g : Group) (lane j : Nat) : State × Bool :=
  let u := s.meetErrors (g.poster lane) (p.elemKeys j)
  (u, u.readsPoison (p.elemKeys j))

/-- R331: the oldest element for each thread. -/
def execPipeGet (d a : Sel) (s : State) : Out :=
  onGroup s fun g =>
    withRegs s g [(d, 2)] <| pipeThreads s g a fun x =>
      let run := g.inMask s.cur.lanes
      match s.pipeFor g x true with
      | none => pipeBad s g []
      | some p =>
        let (got, rest) := s.popLive run.length p.popped p.elems
        if got.length < run.length && !p.closed then notReady s
        else
          let met := (run.zip got).foldl (fun u q => (u.readElem p g q.1.lane q.2.1).1) s
          let val (t : Thread) : Val :=
            match got[rankIn run t.lane]? with
            | some (j, e) =>
              let w : Word := if p.spoilt then Config.free 32 s.tick (171000 + t.lane) else e.val
              { val := w.setWidth 128, taint := false, poison := (met.readElem p g t.lane j).2, wait := [] }
            | none => Val.const (2 ^ 32)
          let g1 := ((met.group? g.core g.slot).getD g).mapThreads fun t =>
            if laneBit s.cur.lanes t.lane then s.past (pushVal (writeDst t .w64 d (val t)) .w64 (val t)) else t
          let q := { p with elems := rest, popped := p.popped + (p.elems.length - rest.length) }
          .next ((((met.putGroup (g1.noteWrites s.cur.lanes .w64 d)).setPipe q).ringBytes g p 0 0).acquire g.core 6)

/-- R331: close a pipe. -/
def execPipeClose (a : Sel) (s : State) : Out :=
  onGroup s fun g =>
    withS s g 0 a fun x =>
      match s.pipeFor g x false with
      | none => raiseCohort s g (.plain .aperture)
      | some p => .next (((s.putGroup (movePast s g)).setPipe { p with closed := true }).ringBytes g p 0 0)

end Sys2Proof.Machine
end

