-- ==== Sys2Proof/Machine/Scheduler.lean ====
section
/-! DEFINITION. The device scheduler: starting launches, the dependence scoreboard, placing teams, gangs and service launches,
retirement, teardown and aging (R91, R92, R193, R327 to R338, R376 to R383). -/

namespace Sys2Proof.Machine

/-! ## What the scheduler reads and writes (R380, R383) -/

/-- The scheduler as it acts for a launch: an S group of its world and address space with class P. -/
def Launch.agent (l : Launch) : Poster :=
  { supervisor 0 (BitVec.ofNat 6 (lrWorld l.image)) (BitVec.ofNat 13 (lrAsid l.image)) with
    slot := 2 ^ 32, lq := l.lq, lseq := l.lseq, ginst := BitVec.ofNat 16 (lrGinst l.image) }

/-- What a read of the scheduler comes to. -/
inductive SchedRead where
  | bytes (s : State) (bs : List Byte)
  | refused (s : State)
  | wait
  deriving DecidableEq, Repr

/-- A read of `n` bytes for a launch. -/
def State.schedRead (s : State) (l : Launch) (a : DWord) (n : Nat) : SchedRead :=
  match s.spanMet l.agent a n .load with
  | (u, .fault _) => .refused u
  | (_, .wait) => .wait
  | (u0, .keys ks _) =>
    let (u, ms) := u0.engineRead l.agent ks
    if ms.any (·.poison) || s.failsGlaze ks then .refused u else .bytes u (ms.map (·.val))

/-- The kernel descriptor that variant selection gives at start; `none` when the launch retires without placing a team
(R333, R383). -/
inductive Variant where
  | chosen (s : State) (kd : BitVec 512)
  | none_ (s : State)
  | wait
  deriving DecidableEq, Repr

/-- Variant selection (R333, R383). -/
def State.selectVariant (s : State) (l : Launch) : Variant :=
  match s.schedRead l (lrKdesc l.image) 128 with
  | .wait => .wait
  | .refused u => .none_ u
  | .bytes u vb =>
    let v := word1024 vb
    if (lrKdesc l.image).toNat % 128 != 0 || vsBad v then .none_ u
    else match u.schedRead l (vsSizeA v) 4 with
      | .wait => .wait
      | .refused u1 => .none_ u1
      | .bytes u1 sb =>
        match vsChoose v (leNat sb) with
        | none => .none_ u1
        | some k =>
          match u1.schedRead l (vsDesc v k) 64 with
          | .wait => .wait
          | .refused u2 => .none_ u2
          | .bytes u2 kb => if kdOk l.image (word512 kb) then .chosen u2 (word512 kb) else .none_ u2

/-! ## The retirement scoreboard (R379, R380) -/

/-- Where bytes of a launch's area lie, the end of the sweep, or something to wait for. -/
inductive ScoreAt where
  | keys (ks : List Nat)
  | stop
  | wait
  deriving DecidableEq, Repr

/-- Where bytes of a launch's area lie (R380). -/
def State.scoreKeys (s : State) (l : Launch) (o n : Nat) (kind : AKind) : State × ScoreAt :=
  let a := lrScore l.image
  if a.toNat % 128 != 0 || (bits a 63 56 != 0 && bits a 63 56 != 0xF2) then (s, .stop)
  else match s.spanMet l.agent (a + BitVec.ofNat 64 o) n kind with
    | (u, .keys ks _) => (u, if ks.all fun k => s.clsOf k == .p then .keys ks else .stop)
    | (u, .fault _) => (u, .stop)
    | (u, .wait) => (u, .wait)

/-- A launch stops sweeping. -/
def State.stopSweep (s : State) (l : Launch) : State := s.setLaunch { l with stopped := true }

/-- The launch with a launch's numbers stops sweeping. -/
def State.endSweep (s : State) (l : Launch) : State :=
  match s.launch? l.lq l.lseq with
  | some k => s.stopSweep k
  | none => s

/-- At start: the whole area is written to zero, line by line; none while an access waits. -/
def State.zeroScore (s : State) (l : Launch) : Option State :=
  (List.range ((lrTeams l.image + 1023) / 1024)).foldl (fun o i =>
    o.bind fun u =>
      match u.launch? l.lq l.lseq with
      | some k =>
        if k.stopped then some u
        else (match u.scoreKeys k (128 * i) 128 .store with
          | (v, .keys ks) => some (v.agentWrite ks (List.replicate 128 0))
          | (v, .stop) => some (v.endSweep k)
          | (_, .wait) => none)
      | none => some u) (some s)

/-- A byte of the area as the scheduler reads it. -/
inductive ScoreByte where
  | byte (k : Nat) (b : Byte)
  | stop
  | wait
  deriving DecidableEq, Repr

/-- Read a byte of the area. -/
def State.scoreByte (s : State) (l : Launch) (o : Nat) : State × ScoreByte :=
  match s.scoreKeys l o 1 .atomic with
  | (u0, .keys [k]) =>
    let u := u0.meetErrors l.agent [k]
    (u, if u.readsPoison [k] || s.failsGlaze [k] then .stop else .byte k (u.readKey k))
  | (u, .wait) => (u, .wait)
  | (u, _) => (u, .stop)

/-- A team's retirement sets its bit; none while the access waits. -/
def State.setScore (s : State) (l : Launch) (i : Nat) : Option State :=
  if lrNdep l.image == 0 || l.stopped then some s
  else match s.scoreByte l (i / 8) with
    | (u, .byte k b) => some (u.agentWrite [k] [b ||| BitVec.ofNat 8 (2 ^ (i % 8))])
    | (u, .stop) => some (u.endSweep l)
    | (_, .wait) => none

/-! ## Release (R376, R378) -/

/-- Linear indices of a team's predecessors inside the grid. -/
def predecessors (r : BitVec 1024) (i : Nat) : List Nat :=
  let (gx, gy, gz) := lrGrid r
  (List.range (lrNdep r)).filterMap fun k =>
    let (dx, dy, dz) := lrDepVec r k
    let x : Int := ((i % gx : Nat) : Int) + dx
    let y : Int := ((i / gx % gy : Nat) : Int) + dy
    let z : Int := ((i / (gx * gy) : Nat) : Int) + dz
    if 0 ≤ x && x < gx && 0 ≤ y && y < gy && 0 ≤ z && z < gz then some (x.toNat + gx * (y.toNat + gy * z.toNat)) else none

/-- Has a team been released? -/
def Launch.released (l : Launch) (i : Nat) : Bool :=
  (l.queued.any fun t => t.1 == i) || l.placed.contains i || l.retired.contains i || l.torn.contains i

/-- May a team be released now, as far as its predecessors' bits say? A bit that a store has changed leaves its successors
to be released at any time or never (R380). -/
def State.mayRelease (s : State) (l : Launch) (i : Nat) : State × Option Bool :=
  (predecessors l.image i).foldl (fun x p =>
    match x with
    | (u, some true) =>
      (match u.scoreByte l (p / 8) with
       | (v, .byte _ b) =>
         let set := b.getLsbD (p % 8)
         (v, some (if set == l.retired.contains p then set else Config.free 1 s.tick (180000 + p) == 1#1))
       | (v, .stop) => (v, none)
       | (v, .wait) => (v, some false))
    | y => y) (s, some true)

/-- Release the teams of a started launch whose predecessors have all retired, or end its sweep. -/
def State.releaseTeams (s : State) (lq lseq : Nat) : State :=
  match s.launch? lq lseq with
  | none => s
  | some l0 =>
    (List.range (lrTeams l0.image)).foldl (fun u i =>
      match u.launch? lq lseq with
      | none => u
      | some l =>
        if l.stopped || l.released i then u
        else match u.mayRelease l i with
          | (v, some true) =>
            (match v.launch? lq lseq with
             | some k => v.setLaunch { k with queued := k.queued ++ [(i, s.time.toNat)] }
             | none => v)
          | (v, some false) => v
          | (v, none) => v.endSweep l) s

/-- R378: teams whose predecessors have all retired are released. -/
def execTeamRelease (q n : Nat) (s : State) : Out :=
  match s.launch? q n with
  | none => notReady s
  | some l =>
    if l.started.isNone || l.stopped || lrNdep l.image == 0 || s.cancelled (lrWorld l.image) (lrGinst l.image) then notReady s
    else
      let u := s.releaseTeams q n
      if u.launches == s.launches then notReady s else .next (u.settle q n).expireTokens

/-! ## Starting (R327) -/

/-- Records of a queue that have not started, in order. -/
def State.lqRecords (s : State) (q : Nat) : List Launch := s.launches.filter fun l => l.lq == q && l.started.isNone

/-- Leading records of a list whose instances are cancelled. -/
def State.deadHeads (s : State) (l : List Launch) : List Launch :=
  l.takeWhile fun x => s.cancelled (lrWorld x.image) (lrGinst x.image)

/-- Step 1: cancelled heads leave their queues. -/
def State.dropHeads (s : State) : State :=
  if s.tokens.isEmpty then s
  else
    let gone := (List.range 64).flatMap fun q => s.deadHeads (s.lqRecords q)
    ({ s with launches := s.launches.filter fun l => !gone.contains l }).expireTokens

/-- Is a prior launch satisfied? -/
def State.priorMet (s : State) (p : Nat × Nat) : Bool :=
  s.launches.all fun l => !(l.lq == p.1 && (l.lseq == p.2 || seqPrecedes l.lseq p.2))

/-- The head of a queue: a record, or a gang's. -/
def State.lqHead (s : State) (q : Nat) : List Launch :=
  match s.lqRecords q with
  | [] => []
  | l :: r =>
    match l.gang with
    | some (first, n) => (l :: r).take (n - (l.lseq + 2 ^ 32 - first) % 2 ^ 32)
    | none => [l]

/-- Step 2: eligible heads. -/
def State.eligibleHeads (s : State) : List (List Launch) :=
  if 256 ≤ (s.launches.filter fun l => l.started.isSome).length then []
  else ((List.range 64).map s.lqHead).filter fun h =>
    !h.isEmpty && h.all fun l => (lrPriors l.image).all s.priorMet

/-- Does head a start before head b (R327 step 3)? Heads are looked at in the order of their queues. -/
def headBefore (a b : List Launch) : Bool :=
  match a, b with
  | x :: _, y :: _ => lrPri y.image < lrPri x.image || (lrPri x.image == lrPri y.image && x.acc < y.acc)
  | _, _ => false

/-- The head that starts. -/
def State.startingHead (s : State) : Option (List Launch) :=
  s.eligibleHeads.foldl (fun o h => match o with
    | none => some h
    | some b => if headBefore h b then some h else some b) none

/-- Start one record: variant selection, the scoreboard, and the first release; `none` while an access waits. -/
def State.startOne (s : State) (l : Launch) : Option State :=
  let go (u : State) (kd : BitVec 512) : Option State :=
    let teams := List.range (lrTeams l.image)
    let l1 : Launch :=
      { l with kd := kd, started := some u.fresh
               queued := if lrNdep l.image == 0 then teams.map fun i => (i, u.time.toNat) else [] }
    let u1 := { u.setLaunch l1 with fresh := u.fresh + 1 }
    if lrNdep l.image == 0 then some u1
    else (u1.zeroScore l1).map fun u2 => (u2.releaseTeams l.lq l.lseq).settle l.lq l.lseq
  if !lrVar l.image then go s l.kd
  else match s.selectVariant l with
    | .chosen u kd => go u kd
    | .none_ u => some { u with launches := u.launches.filter fun k => !(k.lq == l.lq && k.lseq == l.lseq) }
    | .wait => none

/-- Start a head with all its members. -/
def State.startAll (s : State) : List Launch → Option State
  | [] => some s
  | l :: ls =>
    match s.startOne l with
    | some u => u.startAll ls
    | none => none

/-- R327: the scheduler drops cancelled heads and starts the best eligible head. -/
def execLaunchStart (s : State) : Out :=
  let s1 := s.dropHeads
  let started := match s1.startingHead with
    | some h => s1.startAll h
    | none => none
  match started with
  | some u => .next u.expireTokens
  | none => if s1.launches.length == s.launches.length then notReady s else .next s1

/-! ## Room on a core (R22, R91, R193, R329, R396) -/

/-- Resident threads of a core. -/
def State.coreThreads (s : State) (c : Nat) : Nat := ((s.groups.filter fun g => g.core == c).map (·.gw)).sum

/-- Register storage in use on a core: in the reserved partition, or outside it. -/
def State.storageUsed (s : State) (c : Nat) (reserved : Bool) : Nat :=
  ((s.groups.filter fun g => g.core == c && (g.priv != .u) == reserved).map fun g => regStorage g.gw g.nreg).sum

/-- U teams of a core. -/
def State.uTeams (s : State) (c : Nat) : List Team := s.teams.filter fun t => t.core == c && !t.svc

/-- Free group slots of a core. -/
def State.freeSlots (s : State) (c : Nat) : List Nat :=
  let used := (s.groups.filter fun g => g.core == c).map (·.slot)
  (List.range 512).filter fun n => !used.contains n

/-- The split that a core has for an allocation: with no U team resident the smallest that holds it (R329). -/
def State.splitFor (s : State) (c n : Nat) : Nat :=
  if (s.uTeams c).isEmpty then (if n ≤ 262144 then 1 else if n ≤ 524288 then 2 else 3) else (s.core c).split

/-- A base for a contiguous allocation of the core's scratchpad. -/
def State.spadBase (s : State) (c n : Nat) : Option Nat :=
  let size := 262144 * s.splitFor c n
  let used := (s.uTeams c).map fun t => (t.base, t.size)
  let free (b : Nat) : Bool := b + n ≤ size && used.all fun u => u.1 + u.2 ≤ b || b + n ≤ u.1
  (0 :: used.map fun u => u.1 + u.2).find? free

/-- Bytes of the vault above a core that a world's U groups may use (R197). -/
def State.vaultBytes (s : State) (c w : Nat) : Nat :=
  let site := s.siteOf c
  65536 * ((List.range 128).filter fun i =>
    let e := s.vat site i
    bitAt e 31 && bits e 5 0 == w && bitAt e 11 && !bitAt e 29).length

/-- Could a core take a team of a launch, but for what is resident on it (R329)? While a world's groups are saved there, none
of its teams is placed on the core (R315, log entry 96). -/
def State.usable (s : State) (l : Launch) (c : Nat) : Bool :=
  let w := lrWorld l.image
  !s.isHalted c && !(s.servicesOn c w).isEmpty && kdVault l.kd ≤ s.vaultBytes c w &&
    !s.swaps.any fun j => j.core == c && !j.done && j.world.toNat == w

/-- Does a core meet every condition of R329 for a team of a launch? A producer of a pipe needs its segment (R330). -/
def State.hosts (s : State) (l : Launch) (c : Nat) : Bool :=
  let n := kdGroups l.kd
  let ring (p : DWord) : Bool :=
    bitAt p 62 ||
      (let e := s.vat (s.siteOf c) (bits p 58 52)
       bitAt e 31 && bits e 5 0 == lrWorld l.image && bitAt e 11)
  s.usable l c && s.coreThreads c + n * kdGw l.kd ≤ Config.maxThreads && s.storageUsed c false + kdStorage l.kd ≤ 458752 &&
    n ≤ (s.freeSlots c).length && (s.uTeams c).length < 4 && (s.spadBase c (kdSpad l.kd)).isSome && (lrPipes l.image).all ring

/-- Does a core have room for a team of a service launch (R335)? -/
def State.hostsService (s : State) (l : Launch) (c : Nat) : Bool :=
  !s.isHalted c && s.coreThreads c + kdGw l.kd ≤ Config.maxThreads && s.storageUsed c true + kdStorage l.kd ≤ 65536 &&
    !(s.freeSlots c).isEmpty

/-! ## Placing one team (R92, R322, R329) -/

/-- A thread at placement (R92). -/
def newThread (lane nreg setId now : Nat) (pc : DWord) : Thread :=
  { lane := lane, pc := pc &&& ~~~3#64, v := List.replicate nreg { val := 0, taint := false, poison := false, wait := [] }
    h := List.replicate 16 { val := 0, taint := false, poison := false, wait := [] }
    srg := seedSrg 0 lane, st := .ready, setId := setId, path := [], since := now, logRec := none, logErr := none, tph := 0
    bpSkip := false }

/-- The quarter with the fewest resident threads of a core, the lowest on a tie. -/
def State.quarterFor (s : State) (c : Nat) : Nat :=
  let n (q : Nat) : Nat := ((s.groups.filter fun g => g.core == c && g.quarter == q).map (·.gw)).sum
  (List.range 4).foldl (fun b q => if n q < n b then q else b) 0

/-- A group slot for a new group of a core. Which free one is open. -/
def State.slotFor (s : State) (c : Nat) : Nat :=
  let f := s.freeSlots c
  f.getD (Config.pick s.tick f.length % f.length) 0

/-- The level of a launch's groups. -/
def Launch.level (l : Launch) : Priv := if !lrSvc l.image then .u else if lrSvl l.image then .f else .s

/-- Place group `gid` of a team. -/
def State.placeGroup (s : State) (l : Launch) (t : Team) (gid : Nat) : State :=
  let r := l.image
  let kd := l.kd
  let gw := kdGw kd
  let q := t.index * kdGroups kd + gid
  let (gx, gy, _) := lrGrid r
  let pos := t.index % (lrCw r * lrCh r)
  let stk := bits l.ctx 511 448 + q * gw * 1024 * 2 ^ bits l.ctx 3 0
  let g : Group :=
    { core := t.core, slot := s.slotFor t.core, quarter := if kdJoint kd then gid % 4 else s.quarterFor t.core, team := t.num
      priv := l.level, world := t.world, asid := BitVec.ofNat 13 (lrAsid r), kcls := t.kcls, prom := bitAt r 206
      gid := gid, tx := t.index % gx, ty := t.index / gx % gy, tz := t.index / (gx * gy), clid := t.clid
      ch := lrCh r - 1, cw := lrCw r - 1, cy := pos / lrCw r, cx := pos % lrCw r
      lseq := BitVec.ofNat 32 l.lseq, lq := BitVec.ofNat 6 l.lq, ginst := t.ginst, gw := gw, nreg := kdNreg kd
      rm := 1, srseed := 0, fflags := 0
      rcvbase := if bits l.ctx 23 16 == 0 then 0 else BitVec.ofNat 64 (bits l.ctx 447 384 + q * 2 ^ bits l.ctx 23 16)
      rcvdepth := 0, stkBase := BitVec.ofNat 44 (stk / 4096), stkSzc := BitVec.ofNat 4 (bits l.ctx 3 0), spadsz := t.size
      s := { val := lrArgp r, taint := false, poison := false } ::
        List.replicate 31 { val := 0, taint := false, poison := false }
      m := List.replicate 8 { val := 0, poison := false }, frames := [], armed := false, armDirty := []
      fzS := false, fzF := false, fzB := false, fzC := false, dead := false, pri := lrPri r, age := bitAt r 215, waited := 0
      boost := 0, service := none, seated := s.fresh, owned := []
      threads := (List.range gw).map fun i => newThread i (kdNreg kd) s.fresh s.cycle (kd.extractLsb' 0 64) }
  { s with groups := s.groups ++ [g], fresh := s.fresh + 1 }

/-- A team as it is placed. Its scratchpad reads as zero, and its lines are cleared in the background (R193). -/
def newTeam (s : State) (l : Launch) (idx c : Nat) : Team :=
  let r := l.image
  let size := kdSpad l.kd
  { num := s.fresh, core := c, lq := l.lq, lseq := l.lseq, index := idx, world := BitVec.ofNat 6 (lrWorld r)
    ginst := BitVec.ofNat 16 (lrGinst r), clid := idx / (lrCw r * lrCh r), kcls := Cls.ofCode (launchCls r l.kd)
    svc := lrSvc r, groups := kdGroups l.kd, base := (s.spadBase c size).getD 0, size := size, lines := []
    uncleared := List.range ((size + 127) / 128)
    cbs := List.replicate 16 { exp := 0, cnt := 0, ph := false, scp := 0, since := none }
    nbs := List.replicate 16 { arr := 0, tgt := 0, since := none }
    tbSince := none, cbSince := none, bto := bits r 239 216 }

/-- Forget what a stretch of a core's scratchpad held, and the soft errors in it. -/
def State.clearSpad (s : State) (c base size : Nat) : State :=
  let lo := spadKey c base
  { s.dropByteMarks lo (lo + size) with
    mem := memDrop s.mem lo (lo + size)
    poisoned := s.poisoned.filter fun h => !(lo ≤ h * 64 + 63 && h * 64 < lo + size) }

/-- Place team `idx` of a launch on a core; what its split leaves L1 bounds the lines of every world (R193). The start of its
threads is an acquire at `.dev` (R236, R251). -/
def State.placeTeam (s : State) (l : Launch) (idx c : Nat) : State :=
  let t := newTeam s l idx c
  let core := s.core c
  let s1 := if t.svc then s else (s.setCore { core with split := s.splitFor c t.size }).fitL1 c
  let s2 := { s1.clearSpad c t.base t.size with teams := s1.teams ++ [t], fresh := s.fresh + 1 }
  let s3 := (List.range t.groups).foldl (fun u gid => u.placeGroup l t gid) s2
  let s4 := s3.acquire c 6
  match s4.launch? l.lq l.lseq with
  | none => s4
  | some k =>
    s4.setLaunch { k with queued := k.queued.filter fun q => q.1 != idx, placed := k.placed ++ [idx], fair := false }

/-! ## Choosing cores (R329, R330, R335) -/

/-- The enabled core at a device site. -/
def State.coreAt (s : State) (site : Nat) : Option Nat :=
  if Config.sites ≤ site || s.unused.contains site then none
  else some ((List.range site).filter fun v => !s.unused.contains v).length

/-- Core of the launch, among those a test admits, with the fewest resident threads, the lowest on a tie. -/
def State.bestCore (s : State) (ok : Nat → Bool) : Option Nat :=
  (List.range Config.cores).foldl (fun o c =>
    if !ok c then o
    else match o with
      | some b => if s.coreThreads c < s.coreThreads b then some c else o
      | none => some c) none

/-- Sites of a rectangle, row-major: die, top-left column and row, width and height. -/
def rectSites (d x y w h : Nat) : List Nat :=
  (List.range (w * h)).map fun i => 144 * d + 12 * (y + i / w) + (x + i % w)

/-- Positions of a rectangle, by the site at its top-left. -/
def rectsOf (w h : Nat) : List (List Nat) :=
  (List.range Config.sites).filterMap fun v =>
    let d := v / 144
    let y := v % 144 / 12
    let x := v % 12
    if x + w ≤ 12 && y + h ≤ 12 then some (rectSites d x y w h) else none

/-- The cores of a rectangle that a cluster takes, if all of them qualify. -/
def State.clusterCores (s : State) (l : Launch) (ok : Nat → Bool) : Option (List Nat) :=
  ((rectsOf (lrCw l.image) (lrCh l.image)).filterMap fun r =>
    let cs := r.filterMap s.coreAt
    if cs.length == r.length && cs.all (fun c => ok c && s.hosts l c) then some cs else none).head?

/-- The sizes of rectangles, smallest area first, then fewer rows. -/
def rectSizes : List (Nat × Nat) :=
  (List.range 144).flatMap fun a => (List.range 12).filterMap fun h =>
    if (a + 1) % (h + 1) == 0 && (a + 1) / (h + 1) ≤ 12 then some ((a + 1) / (h + 1), h + 1) else none

/-- Place teams one after another, each on the first core of a list that hosts it. -/
def State.placeInto (s : State) (ok : Nat → Bool) (cs : List Nat) : List (Launch × Nat) → Option State
  | [] => some s
  | (l, i) :: r =>
    match cs.find? fun c => ok c && s.hosts l c with
    | some c => (s.placeTeam l i c).placeInto ok cs r
    | none => none

/-- The rectangle that takes a gang, tried in order. DESIGN CHOICE (log entry 90): the rectangle may contain unused sites, and
one whose top-left site holds no core ranks by that site's number (R330). -/
def State.placeGang (s : State) (ok : Nat → Bool) (ts : List (Launch × Nat)) : List (Nat × Nat) → Option State
  | [] => none
  | (w, h) :: r =>
    match ((rectsOf w h).filterMap fun sites => s.placeInto ok (sites.filterMap s.coreAt) ts).head? with
    | some u => some u
    | none => s.placeGang ok ts r

/-- Members of a gang that have started and not retired, in record order. -/
def State.gangOf (s : State) (l : Launch) : List Launch :=
  s.launches.filter fun k => k.lq == l.lq && k.gang.isSome && k.gang == l.gang && k.started.isSome

/-- The pipes of a placed gang, empty and open. A pipe whose other party retired at its start has none (R331). -/
def State.openPipes (s : State) (ms : List Launch) : State :=
  let bind (get : Bool) (i : Nat) : Option (Launch × DWord) :=
    (ms.flatMap fun l => (lrPipes l.image).map fun p => (l, p)).find? fun x => bits x.2 61 59 == i && bitAt x.2 62 == get
  let siteOf (l : Launch) : Nat :=
    match s.teams.find? fun t => t.lq == l.lq && t.lseq == l.lseq with
    | some t => s.siteOf t.core
    | none => 0
  let made := (List.range 8).filterMap fun i =>
    let mk (l : Launch) (p : DWord) (putGone getGone : Bool) : Pipe :=
      { lq := l.lq, first := (l.gang.getD (0, 0)).1, idx := i, site := siteOf l, seg := bits p 58 52
        cap := 2 ^ bits p 51 48, elems := [], popped := 0, spoilt := false, closed := putGone, putGone := putGone, getGone := getGone }
    match bind false i, bind true i with
    | some (l, p), some _ => some (mk l p false false)
    | some (l, p), none => some (mk l p false true)
    | none, some (l, p) => some (mk l p true false)
    | none, none => none
  { s with pipes := s.pipes ++ made }

/-- The unit of a launch that is placed before others: of two, the one of the lower linear indices (R329). -/
def lowerUnit (a b : List Nat × Nat) : List Nat × Nat := if b.1.headD 0 < a.1.headD 0 then b else a

/-- The next unit of a launch to be placed: the teams of the lowest cluster that is released whole, with the time from which
it has waited. -/
def Launch.nextUnit (l : Launch) : Option (List Nat × Nat) :=
  let n := lrCw l.image * lrCh l.image
  match l.queued.filterMap fun q =>
    let ts := (List.range n).map fun i => q.1 / n * n + i
    let here := l.queued.filter fun x => ts.contains x.1
    if here.length == n then some (ts, (here.map (·.2)).foldl max 0) else none with
  | [] => none
  | u :: us => some (us.foldl lowerUnit u)

/-- Is placement of a launch's teams held off (R332, R410)? -/
def State.heldOff (s : State) (l : Launch) : Bool :=
  l.started.isNone || l.exh || (s.budget (lrWorld l.image)).2.2 || s.cancelled (lrWorld l.image) (lrGinst l.image)

/-- Did a launch start before another? -/
def Launch.older (a b : Launch) : Bool :=
  match a.started, b.started with
  | some x, some y => decide (x < y)
  | _, _ => false

/-- May a launch place a team on a core, with the fairness of R329? -/
def State.admitted (s : State) (l : Launch) (c : Nat) : Bool :=
  !s.launches.any fun k => k.fair && !k.queued.isEmpty && k.older l && !(k.gang.isSome && k.gang == l.gang && k.lq == l.lq) && s.usable k c

/-- The state in which the next unit of a launch has been placed, if it fits anywhere. -/
def State.placeNext (s : State) (l : Launch) : Option State :=
  if s.heldOff l then none
  else if lrSvc l.image then
    (match l.queued.find? fun t => s.hostsService l (lrSvcc l.image + t.1) with
     | some t => some (s.placeTeam l t.1 (lrSvcc l.image + t.1))
     | none => none)
  else if l.gang.isSome then
    let ms := s.gangOf l
    if ms.head? != some l || ms.any s.heldOff || ms.all fun m => m.queued.isEmpty then none
    else
      (s.placeGang (s.admitted l) (ms.flatMap fun m => m.queued.map fun q => (m, q.1)) rectSizes).map fun u => u.openPipes ms
  else match l.nextUnit with
    | none => none
    | some (ts, _) =>
      match ts with
      | [i] => (s.bestCore fun c => s.admitted l c && s.hosts l c).map fun c => s.placeTeam l i c
      | _ =>
        (s.clusterCores l (s.admitted l)).map fun cs =>
          (ts.zip cs).foldl (fun u p => u.placeTeam l p.1 p.2) s

/-- R329: the next released team or cluster of a launch is placed, once no launch that started earlier can place one. -/
def execTeamPlacement (q n : Nat) (s : State) : Out :=
  match s.launch? q n with
  | none => notReady s
  | some l =>
    match s.placeNext l with
    | none => notReady s
    | some u => if s.launches.any fun k => k.older l && (s.placeNext k).isSome then notReady s else .next u

/-- R329: the next team of a launch has waited 100 µs. -/
def execFairnessExpiry (q n : Nat) (s : State) : Out :=
  match s.launch? q n with
  | none => notReady s
  | some l =>
    match l.nextUnit with
    | none => notReady s
    | some (_, since) =>
      if l.fair || lrSvc l.image || s.heldOff l || s.time.toNat < since + 100000 then notReady s
      else .next (s.setLaunch { l with fair := true })

/-- R193: the next line of a team's scratchpad has been cleared. -/
def execScratchpadClearDone (team : Nat) (s : State) : Out :=
  match s.team? team with
  | none => notReady s
  | some t =>
    match t.uncleared with
    | [] => notReady s
    | _ :: r => .next (s.setTeam { t with uncleared := r })

/-! ## Retirement and teardown (R332, R377) -/

/-- Is everything that a team's retirement waits for done (R377)? -/
def State.teamDone (s : State) (t : Team) : Bool :=
  (s.liveOf t.num).isEmpty &&
    !s.slog.any (fun e => (s.groupsOf t.num).any fun g => g.core == e.core && g.slot == e.slot) &&
    !s.mcmds.any (fun c => c.by_.team == t.num) && !s.joints.any (fun c => c.by_.team == t.num) &&
    !s.ccmds.any (fun c => c.by_.team == t.num && (cpRet c.hdr || cpKind c.hdr == 1)) &&
    !s.ncmds.any (fun c => c.by_.team == t.num && compRet c.comp && !c.waitsRing)

/-- A party of a team's pipes is gone: a producer's pipes are closed (R331). -/
def State.partPipes (s : State) (t : Team) : State :=
  match s.launch? t.lq t.lseq with
  | none => s
  | some l =>
    match l.gang with
    | none => s
    | some (first, _) =>
      let mine (p : Pipe) (get : Bool) : Bool :=
        p.lq == l.lq && p.first == first && (lrPipes l.image).any fun b => bits b 61 59 == p.idx && bitAt b 62 == get
      let leave (p : Pipe) : Pipe :=
        { p with closed := p.closed || mine p false, putGone := p.putGone || mine p false, getGone := p.getGone || mine p true }
      { s with pipes := (s.pipes.map leave).filter fun p => !(p.putGone && p.getGone) }

/-- Soft errors in the registers of a group slot go with the group (R92). -/
def State.dropGroupMarks (s : State) (core slot : Nat) : State :=
  s.dropMarks fun p => placeInSlot p core slot (slot + 1) != p

/-- A team leaves its core: its groups, storage and scratchpad. -/
def State.removeTeam (s : State) (t : Team) : State :=
  let gone (c n : Nat) : Bool := (s.groupsOf t.num).any fun g => g.core == c && g.slot == n
  let s1 := (s.groupsOf t.num).foldl (fun u g => u.dropGroupMarks g.core g.slot)
    ((s.partPipes t).clearSpad t.core t.base t.size)
  { s1 with
    groups := s1.groups.filter fun g => g.team != t.num
    teams := s1.teams.filter fun u => u.num != t.num
    flights := s1.flights.filter fun f => !gone f.core f.slot
    slog := s1.slog.filter fun e => !gone e.core e.slot
    tokq := s1.tokq.filter fun r => !gone r.core r.slot
    joints := s1.joints.filter fun j => j.by_.team != t.num }

/-- A team of a launch has retired, or been torn down. -/
def State.teamOver (s : State) (t : Team) (torn : Bool) : State :=
  match s.launch? t.lq t.lseq with
  | none => s
  | some l =>
    s.setLaunch { l with
      placed := l.placed.filter (· != t.index)
      retired := if torn then l.retired else l.retired ++ [t.index]
      torn := if torn then l.torn ++ [t.index] else l.torn }

/-- R377: a team retires and sets its scoreboard bit; its launch retires with its last team (R328). On a halted core
none does, and no frozen team (R381). -/
def execTeamRetire (team : Nat) (s : State) : Out :=
  match s.team? team with
  | none => notReady s
  | some t =>
    if !s.teamDone t || s.isHalted t.core || (s.groupsOf t.num).any (·.frozen) then notReady s
    else
      let s1 := (s.removeTeam t).teamOver t false
      let scored := match s1.launch? t.lq t.lseq with
        | some l => s1.setScore l t.index
        | none => some s1
      match scored with
      | some s2 => .next (s2.settle t.lq t.lseq).expireTokens
      | none => notReady s

/-- Do accesses or engine commands of a group remain (R332)? -/
def State.groupBusy (s : State) (g : Group) : Bool :=
  let mine (p : Poster) : Bool :=
    p.core == g.core && p.slot == g.slot && p.lq == g.lq.toNat && p.lseq == g.lseq.toNat && p.team == g.team
  s.inFlight g || s.mcmds.any (fun c => mine c.by_ || c.parts.any fun q => c.by_.team == g.team && q.2.1 == g.slot) ||
    s.ccmds.any (fun c => mine c.by_) || s.ncmds.any fun c => mine c.by_

/-- What a group waits for in the device goes on without it (R315, R394): 512 is no group's slot. -/
def State.orphan (s : State) (core slot : Nat) : State :=
  let job (j : SwapJob) : SwapJob := if j.core == core && j.slot == slot then { j with slot := 512 } else j
  let plan (p : ClkPlan) : Option ClkPlan :=
    if p.core == core && p.slot == slot then (if p.done then none else some { p with slot := 512 }) else some p
  { s with
    swaps := s.swaps.filterMap fun j => if (job j).slot == 512 && j.done then none else some (job j)
    plan := s.plan.bind plan }

/-- One group of a cancelled instance goes. -/
def State.tearGroup (s0 : State) (g : Group) : State :=
  let s := s0.orphan g.core g.slot
  let away := fun (c n : Nat) => c == g.core && n == g.slot
  { s.dropGroupMarks g.core g.slot with
    groups := s.groups.filter fun h => !away h.core h.slot
    slog := s.slog.filter fun e => !away e.core e.slot
    tokq := s.tokq.filter fun r => !away r.core r.slot }

/-- R332: a cancelled group is torn down; with the last of its groups its team counts as torn down. -/
def execGroupTeardown (core slot : Nat) (s : State) : Out :=
  match s.group? core slot with
  | none => notReady s
  | some g =>
    if !g.fzC || s.groupBusy g then notReady s
    else
      let s0 := s.undeliver core slot
      let s1 := (s0.tearGroup g).checkBars core slot g.team
      let s2 := match s1.team? g.team with
        | some t => if (s1.liveOf t.num).isEmpty then (s1.removeTeam t).teamOver t true else s1
        | none => s1
      .next (s2.settle g.lq.toNat g.lseq.toNat).expireTokens

/-! ## Aging (R338) -/

/-- Base class: PRI, or the class given to `svc.reg`. -/
def Group.base (g : Group) : Nat := g.service.getD g.pri

/-- Effective class: the base class and the classes risen by. -/
def Group.effClass (g : Group) : Nat := min 7 (g.base + g.boost)

/-- R338: a group that ages has held a ready cohort for another 4,096 cycles since its last issue. -/
def execAgingPromotion (core slot : Nat) (s : State) : Out :=
  match s.group? core slot with
  | none => notReady s
  | some g =>
    if g.age && g.boost < g.waited / 4096 && g.effClass < 7 then .next (s.putGroup { g with boost := g.boost + 1 })
    else notReady s

end Sys2Proof.Machine
end

