-- ==== Sys2Proof/Machine/Boot.lean ====
section
/-! DEFINITION. Power, reset, the ROM sequence and the boot-failure state (R28, R420 to R429). -/

namespace Sys2Proof.Machine

/-! ## Resets -/

/-- What a reset leaves (R421): `State.reset` but for the flash, with the bytes that it was programming or erasing open (R423), the count of steps
and the inputs to come. Main memory reads as any value until it is written, so nothing of it is kept (R430). -/
def afterReset (s : State) (time : DWord) : State :=
  { State.reset with
    tick := s.tick, cycle := s.cycle, time := time, fresh := s.fresh, inputs := s.inputs
    mem := s.busy.foldl (fun m b => memDrop m (flashKey b.1) (flashKey (b.1 + b.2))) (s.mem.filter fun c => isFlash c.1)
    flaky := s.busy ++ s.flaky }

/-- R28: the board removes power. What survives is the flash. -/
def execPowerRemoval (s : State) : Out := .next { afterReset s 0 with phase := .off }

/-- R420: RESET_N goes low. Without power, or while THERMTRIP_N is asserted, it does nothing (R28). -/
def execResetNAsserted (s : State) : Out :=
  if s.phase == .off || s.phase == .tripped then .next s else .next { s with phase := .held }

/-- R28: a die passes 105 °C and the part stops. -/
def execThermtrip (s : State) : Out :=
  if s.phase == .off || s.phase == .tripped then notReady s else .next { s with phase := .tripped }

/-! ## The boot header and the configuration record (R422) -/

/-- Bytes of the flash as the chip holds them. -/
def State.flashBytes (s : State) (o n : Nat) : List Byte := (List.range n).map fun i => s.readKey (flashKey (o + i))

/-- The boot flash is 512 MiB (R354). -/
def flashSize : Nat := 2 ^ 29

/-- The boot header. -/
structure BootHeader where
  bytes : List Byte
  svn   : Nat
  entry : Nat
  imgsz : Nat
  imgo  : Nat
  hlpo  : Nat
  cfgo  : Nat
  deriving DecidableEq, Repr

/-- The header that 512 bytes hold. -/
def BootHeader.of (bs : List Byte) : BootHeader :=
  let w (i : Nat) : Nat := leNat ((bs.drop (4 * i)).take 4)
  { bytes := bs, svn := w 7, entry := w 6, imgsz := w 5, imgo := w 4, hlpo := w 3, cfgo := w 2 }

/-- The signing public key. -/
def BootHeader.pubk (h : BootHeader) : List Byte := (h.bytes.drop 32).take 132

/-- Step 2's checks (R424). Parts of the flash that a field names lie within it (log entry 17). -/
def BootHeader.ok (h : BootHeader) : Bool :=
  leNat (h.bytes.take 4) == 0x4B474D49 && leNat ((h.bytes.drop 4).take 2) == 1 &&
    ((h.bytes.drop 296).all fun b => b == 0#8) && h.entry % 4 == 0 && h.imgo % 65536 == 0 && h.hlpo % 4096 == 0 &&
    h.cfgo % 4096 == 0 && 1 ≤ h.imgsz && h.imgsz ≤ 2 ^ 23 && h.imgo + h.imgsz ≤ flashSize &&
    h.hlpo + 4096 ≤ flashSize && h.cfgo + 256 ≤ flashSize && sha512 h.pubk == Config.rootKey

/-- Sites that a configuration record leaves unused. -/
def cfgSites (cfg : List Byte) : List Nat := (List.range 8).map fun i => leNat ((cfg.drop (8 + 2 * i)).take 2)

/-- Step 3's checks (R424). -/
def cfgOk (pubk cfg : List Byte) : Bool :=
  let sites := cfgSites cfg
  let (r, q) := pairOf ((cfg.drop 24).take 132)
  leNat (cfg.take 4) == 0x46434B47 && leNat ((cfg.drop 4).take 2) == 8 && (sites.all fun v => 0 < v && v < Config.sites) &&
    sites.eraseDups.length == 8 && ecdsaOk (pairOf pubk) (sha512 (cfg.take 24)) r q

/-- Does a site pass its self-test (R424 step 1)? The specification leaves open which do. -/
def State.siteOk (s : State) (v : Nat) : Bool := Config.free 1 s.tick (700000 + v) == 1#1

/-! ## Measurement and the handoff block (R426, R427) -/

/-- The enabled-site map, 36 bytes. -/
def enabledMap (unused : List Nat) : List Byte :=
  toBytes (((List.range Config.sites).filter fun v => !unused.contains v).foldl (fun n v => n + 2 ^ v) 0) 36

/-- The values that extend MR0 to MR15. -/
def measured (h : BootHeader) (image cfg helper : List Byte) (unused : List Nat) : List (List Byte) :=
  let pad (bs : List Byte) : List Byte := bs ++ List.replicate (64 - bs.length) 0#8
  [sha512 (h.bytes.take 164), sha512 image, sha512 (cfg.take 24), pad (enabledMap unused), sha512 helper,
   pad (toBytes Config.romVersion.toNat 4)] ++ List.replicate 10 (pad [])

/-- A register extended from zero, as 64 bytes. -/
def extended (v : List Byte) : List Byte := sha512 (List.replicate 64 0#8 ++ v)

/-- The handoff block, 1,536 bytes. `nonce` is the signature's. -/
def handoff (identity : Nat) (mrs : List (List Byte)) (unused : List Nat) (nonce : Nat) : List Byte :=
  let alias_ := Config.privateKey (hkdf512 [] (toBytes identity 66) mrs.flatten 2)
  let body := toBytes Config.romVersion.toNat 4 ++ enabledMap unused ++ List.replicate 4 0#8 ++ mrs.flatten ++
    pairBytes (publicKey alias_)
  toBytes 0x48444F46 4 ++ body ++ pairBytes (ecdsaSign identity (sha512 body) nonce) ++ pairBytes (publicKey identity) ++
    toBytes alias_ 66 ++ [0#8, 0#8]

/-! ## The first F groups (R428) -/

/-- The launch that the ROM's groups carry in `c.launch`, which no launch record gives them (log entry 18). -/
def romQueue : Nat := 63

/-- Its sequence number. -/
def romSeq : Nat := 2 ^ 32 - 1

/-- Place the F group of one core. DESIGN CHOICE (log entry 18): it belongs to no launch, and its grid coordinates and its place in
a cluster, which `c.tx`, `c.ty`, `c.tz` and `c.clu` show, are 0. -/
def State.placeFirst (s : State) (pc : DWord) (c : Nat) : State :=
  let t : Team :=
    { num := s.fresh, core := c, lq := romQueue, lseq := romSeq, index := 0, world := 0, ginst := 0, clid := 0, kcls := .p
      svc := true, groups := 1, base := 0, size := 0, lines := [], uncleared := []
      cbs := List.replicate 16 { exp := 0, cnt := 0, ph := false, scp := 0, since := none }
      nbs := List.replicate 16 { arr := 0, tgt := 0, since := none }, tbSince := none, cbSince := none, bto := 0 }
  let g : Group :=
    { core := c, slot := s.slotFor c, quarter := 0, team := t.num, priv := .f, world := 0, asid := 0, kcls := .p
      prom := false, gid := 0, tx := 0, ty := 0, tz := 0, clid := 0, ch := 0, cw := 0, cy := 0, cx := 0
      lseq := BitVec.ofNat 32 romSeq, lq := BitVec.ofNat 6 romQueue, ginst := 0, gw := 8, nreg := 32, rm := 1, srseed := 0
      fflags := 0, rcvbase := 0, rcvdepth := 0, stkBase := 0, stkSzc := 0, spadsz := 0
      s := { val := BitVec.ofNat 64 (0xF2 * 2 ^ 56), taint := false, poison := false } ::
        List.replicate 31 { val := 0, taint := false, poison := false }
      m := List.replicate 8 { val := 0, poison := false }, frames := [], armed := false, armDirty := []
      fzS := false, fzF := false, fzB := false, fzC := false, dead := false, pri := 7, age := false, waited := 0
      boost := 0, service := some 7, seated := s.fresh, owned := []
      threads := (List.range 8).map fun i => newThread i 32 (s.fresh + 1) s.cycle pc }
  { s with teams := s.teams ++ [t], groups := s.groups ++ [g], fresh := s.fresh + 2 }

/-! ## The ROM sequence (R424, R425) -/

/-- The boot-failure state with its code (R425). -/
def State.bootFails (s : State) (code : Nat) : State := { s with phase := .failed, bootstat := BitVec.ofNat 4 code }

/-- Steps 6 to 8, with the image in its copy. -/
def State.bootEnds (s : State) (h : BootHeader) (image cfg helper : List Byte) (identity : Nat) : State :=
  let unused := cfgSites cfg
  let mrs := (measured h image cfg helper unused).map extended
  let nonce := (Config.free 521 s.tick 700900).toNat % (p521n - 1) + 1
  let dies (d : Nat) : Nat := ((List.range 144).filter fun v => !unused.contains (144 * d + v)).length
  let s1 := { s with
    phase := .running, bootstat := 1, unused := unused, mrs := mrs.map fun m => BitVec.ofNat 512 (leNat m)
    copy := some (h.imgo, h.imgsz), copyMem := memFill [] (flashKey h.imgo) image
    mem := memFill s.mem (vaultKey 0) (handoff identity mrs unused nonce)
    pools := [(4 * dies 0, 0), (4 * dies 1, 0)] }
  let pc := BitVec.ofNat 64 (flashKey (h.imgo + h.entry))
  (List.range Config.cores).foldl (fun u c => u.placeFirst pc c) s1

/-- The ROM's steps in order, to the first failure (R424). A site outside the record is judged once the record is known. -/
def State.rom (s : State) : State :=
  let h := BootHeader.of (s.flashBytes 0 512)
  if !s.siteOk 0 then s.bootFails 2
  else if !h.ok then s.bootFails 3
  else
    let cfg := s.flashBytes h.cfgo 256
    let helper := s.flashBytes h.hlpo 4096
    if !cfgOk h.pubk cfg then s.bootFails 4
    else if !(List.range Config.sites).all fun v => (cfgSites cfg).contains v || s.siteOk v then s.bootFails 2
    else match Config.identity helper with
      | none => s.bootFails 5
      | some d =>
        let image := s.flashBytes h.imgo h.imgsz
        let (r, q) := pairOf ((h.bytes.drop 164).take 132)
        if !ecdsaOk (pairOf h.pubk) (sha512 (h.bytes.take 164 ++ image)) r q then s.bootFails 6
        else s.bootEnds h image cfg helper d

/-- R420: power comes on; the device resets with `c.time` at 0 and the ROM runs. -/
def execPowerOn (s : State) : Out := if s.phase == .off then .next (afterReset s 0).rom else notReady s

/-- R420: RESET_N is released; the device resets, `c.time` counts on, and the ROM runs. A part without power or tripped
ignores it (R28). -/
def execPinReset (s : State) : Out :=
  if s.phase == .off || s.phase == .tripped then .next s
  else if s.phase == .held then .next (afterReset s s.time).rom
  else notReady s

end Sys2Proof.Machine
end

