-- ==== Sys2Proof/Machine/Complex.lean ====
section
/-! DEFINITION. Complex-integer instructions (R32, R154, R155). A component is computed exactly and wrapped or clamped
once. -/

namespace Sys2Proof.Machine

/-- A complex integer: real and imaginary part. -/
structure CInt where
  re : Int
  im : Int
  deriving DecidableEq, Repr

/-- Element `i` of components of `k` bits, packed re then im (R32). -/
def celem (k : Nat) (x : DWord) (i : Nat) : CInt := { re := elem k true x (2 * i), im := elem k true x (2 * i + 1) }

/-- Components of `k` bits as one number, each fitted as SAT directs. -/
def packC (p : Option Pfx) (k : Nat) (c : CInt) : Nat := fitSat p k c.re + fitSat p k c.im * 2 ^ k

/-- The exact product. -/
def cmul (a b : CInt) : CInt := { re := a.re * b.re - a.im * b.im, im := a.re * b.im + a.im * b.re }

/-- The exact sum. -/
def cadd (a b : CInt) : CInt := { re := a.re + b.re, im := a.im + b.im }

/-- A complex instruction: destination width, sources, whether the destination's old value is the last operand. -/
def cpxIssue (s : State) (p : Option Pfx) (d : Sel) (dw : DW) (srcs : List (Sel × Bool)) (old : Bool)
    (f : List DWord → Nat) : Out :=
  vectorIssue s { p := p, d := d, dw := dw, srcs := srcs, four := none, old := old } fun _ t v =>
    { val := BitVec.ofNat 128 (f v), flags := 0#5, srg := t.srg }

/-- R154: a + b, 16 bits. -/
def execCaddCi16 (d a b : Sel) (p : Option Pfx) (s : State) : Out :=
  cpxIssue s p d .w32 [(a, false), (b, false)] false fun v =>
    packC p 16 (cadd (celem 16 (arg v 0) 0) (celem 16 (arg v 1) 0))

/-- R154: a + b, 32 bits. -/
def execCaddCi32 (d a b : Sel) (p : Option Pfx) (s : State) : Out :=
  cpxIssue s p d .w64 [(a, true), (b, true)] false fun v =>
    packC p 32 (cadd (celem 32 (arg v 0) 0) (celem 32 (arg v 1) 0))

/-- R154: a × b, 16 bits. -/
def execCmulCi16 (d a b : Sel) (p : Option Pfx) (s : State) : Out :=
  cpxIssue s p d .w32 [(a, false), (b, false)] false fun v =>
    packC p 16 (cmul (celem 16 (arg v 0) 0) (celem 16 (arg v 1) 0))

/-- R154: d + a·b, 32 bits. -/
def execCmacCi16 (d a b : Sel) (p : Option Pfx) (s : State) : Out :=
  cpxIssue s p d .w64 [(a, false), (b, false)] true fun v =>
    packC p 32 (cadd (celem 32 (arg v 2) 0) (cmul (celem 16 (arg v 0) 0) (celem 16 (arg v 1) 0)))

/-- R154: d + a0·b0 + a1·b1, 32 bits. -/
def execCmacCi8 (d a b : Sel) (p : Option Pfx) (s : State) : Out :=
  cpxIssue s p d .w64 [(a, false), (b, false)] true fun v =>
    packC p 32 (cadd (cadd (celem 32 (arg v 2) 0) (cmul (celem 8 (arg v 0) 0) (celem 8 (arg v 1) 0)))
      (cmul (celem 8 (arg v 0) 1) (celem 8 (arg v 1) 1)))

/-- The conjugate. -/
def conj (a : CInt) : CInt := { re := a.re, im := -a.im }

/-- R154: the conjugate, 16 bits. -/
def execCconjCi16 (d a : Sel) (p : Option Pfx) (s : State) : Out :=
  cpxIssue s p d .w32 [(a, false)] false fun v => packC p 16 (conj (celem 16 (arg v 0) 0))

/-- R154: the conjugate, 32 bits. -/
def execCconjCi32 (d a : Sel) (p : Option Pfx) (s : State) : Out :=
  cpxIssue s p d .w64 [(a, true)] false fun v => packC p 32 (conj (celem 32 (arg v 0) 0))

/-- R154: ar² + ai². -/
def execCmag2Ci16 (d a : Sel) (p : Option Pfx) (s : State) : Out :=
  cpxIssue s p d .w32 [(a, false)] false fun v =>
    let c := celem 16 (arg v 0) 0
    wrap 32 (c.re * c.re + c.im * c.im)

/-- `n` elements with components of `k` bits widened to ci16 words, element 0 lowest (R155). -/
def widenC (k n : Nat) (x : DWord) : Nat :=
  (List.range n).foldl (fun r i => r + packC none 16 (celem k x i) * 2 ^ (32 * i)) 0

/-- R155: two ci8 to a pair of ci16 words. -/
def execCunpkCi8 (d a : Sel) (p : Option Pfx) (s : State) : Out :=
  cpxIssue s p d .w64 [(a, false)] false fun v => widenC 8 2 (arg v 0)

/-- R155: four ci4 to a quad of ci16 words. -/
def execCunpkCi4 (d a : Sel) (p : Option Pfx) (s : State) : Out :=
  cpxIssue s p d .w128 [(a, false)] false fun v => widenC 4 4 (arg v 0)

end Sys2Proof.Machine
end

