-- ==== Sys2Proof/Machine/Counters.lean ====
section
/-! DEFINITION. The CNT instructions: event counters, error budgets, the token limit and timer setting (R411 to R419). -/

namespace Sys2Proof.Machine

/-! ## Results and operands (R411) -/

/-- Status 1: a rejected argument. -/
def badArg : DWord := BitVec.ofNat 64 (2 ^ 63 + 1)

/-- Status 5: the object is in the wrong state. -/
def badState : DWord := BitVec.ofNat 64 (2 ^ 63 + 5)

/-- The cohort moves on with a clean scalar result. -/
def scalarDone (s : State) (d : Sel) (v : DWord) : Out :=
  onGroup s fun g => .next (s.putGroup (movePast s (g.setScalar d { val := v, taint := false, poison := false })))

/-- A CNT instruction: its level, and then its operands. -/
def cntIssue (s : State) (lvl : Priv) (a b : Sel) (k : Group → DWord → DWord → Out) : Out :=
  onGroup s fun g => atLevel s g lvl <| withS s g 0 a fun x => withS s g 1 b fun y => k g x y

/-! ## Counters (R417) -/

/-- Does a selector name a counter? -/
def cntSelOk (x : DWord) : Bool :=
  bits x 63 16 == 0 && !bitAt x 3 &&
  match bits x 15 12 with
  | 0 => bits x 11 4 == 0
  | 1 => bits x 11 4 < 96 && bits x 2 0 < 4
  | 2 => bits x 11 4 < 16 && bits x 2 0 < 4
  | 3 => bits x 11 4 < 8 && bits x 2 0 < 4
  | _ => false

/-- Is a selector one of a core counter? -/
def cntIsCore (x : DWord) : Bool := bits x 15 12 == 0

/-- COUNT of a counter. -/
def State.cntValue (s : State) (core : Nat) (x : DWord) : DWord :=
  if cntIsCore x then ((s.core core).cnt.getD (bits x 2 0) 0).setWidth 64 else (s.unitCnt x.toNat).1.setWidth 64

/-- The configuration word of a counter. -/
def State.cntConfig (s : State) (core : Nat) (x : DWord) : DWord :=
  if cntIsCore x then ((s.core core).cnsel.getD (bits x 2 0) 0).setWidth 64 else (s.unitCnt x.toNat).2

/-- Set a counter and its configuration. -/
def State.setCnt (s : State) (core : Nat) (x : DWord) (c : BitVec 48) (cfg : DWord) : State :=
  if cntIsCore x then
    let r := s.core core
    s.setCore { r with cnt := r.cnt.set (bits x 2 0) c, cnsel := r.cnsel.set (bits x 2 0) (cfg.setWidth 32) }
  else { s with ucnt := mapSet (0, 0) s.ucnt x.toNat (c, cfg) }

/-- The bits of a configuration word that a level writes. -/
def cfgMask (lvl : Priv) (core : Bool) : DWord :=
  if lvl == .f then (if core then 0x3F073F else 0xFFFF073F) else 0x73F

/-- A counter instruction: the selector, and then who may use the counter. -/
def counterIssue (s : State) (lvl : Priv) (d a b : Sel) (k : Group → DWord → DWord → Out) : Out :=
  cntIssue s lvl a b fun g x y =>
    if !cntSelOk x then scalarDone s d badArg
    else
      let cfg := s.cntConfig g.core x
      let mine := bits cfg 21 16 == g.world.toNat
      if (g.priv == .s && !mine) || (g.priv == .u && !(mine && bitAt cfg 10)) then raiseCohort s g (.plain .priv)
      else k g x y

/-- R417: configure a counter. -/
def execCntCfg (d a b : Sel) (s : State) : Out :=
  counterIssue s .s d a b fun g x y =>
    let old := s.cntConfig g.core x
    let m := cfgMask g.priv (cntIsCore x)
    scalarDone (s.setCnt g.core x ((s.cntValue g.core x).setWidth 48) ((old &&& ~~~m) ||| (y &&& m))) d old

/-- R417: read a counter. -/
def execCntRd (d a : Sel) (s : State) : Out :=
  counterIssue s .u d a 0x3E fun g x _ => scalarDone s d (s.cntValue g.core x)

/-- R417: clear a counter. -/
def execCntClr (d a : Sel) (s : State) : Out :=
  counterIssue s .s d a 0x3E fun g x _ => scalarDone (s.setCnt g.core x 0 (s.cntConfig g.core x)) d (s.cntValue g.core x)

/-! ## Budgets (R412) -/

/-- A budget that a selector names. -/
inductive BudgetSel where
  | launch (l : Launch)
  | world (w : Nat)
  | bad
  | wrong
  deriving DecidableEq, Repr

/-- What a budget selector names for a group. -/
def State.budgetSel (s : State) (g : Group) (x : DWord) (write : Bool) : BudgetSel :=
  if bits x 62 54 != 0 || bits x 47 32 != 0 then .bad
  else if bitAt x 63 then
    (if bits x 53 48 != 0 || bits x 31 6 != 0 || (g.priv != .f && (write || bits x 5 0 != g.world.toNat)) then .bad
     else .world (bits x 5 0))
  else match s.launch? (bits x 53 48) (bits x 31 0) with
    | none => .wrong
    | some l =>
      if g.priv != .f && bits l.image 261 256 != g.world.toNat then .bad
      else if l.started.isNone then .wrong
      else .launch l

/-- R412: set a budget. -/
def execEbudSet (d a b : Sel) (s : State) : Out :=
  cntIssue s .s a b fun g x y =>
    let rem : Word := y.setWidth 32
    let warn : Word := y.extractLsb' 32 32
    match s.budgetSel g x true with
    | .bad => scalarDone s d badArg
    | .wrong => scalarDone s d badState
    | .launch l =>
      scalarDone (s.setLaunch { l with rem := rem, warn := warn, exh := l.exh && rem == 0#32 }) d (l.rem.setWidth 64)
    | .world w =>
      let (old, _, exh) := s.budget w
      scalarDone { s with budgets := mapSet (0, 0, false) s.budgets w (rem, warn, exh && rem == 0#32) } d (old.setWidth 64)

/-- R412: read a budget. -/
def execEbudRd (d a : Sel) (s : State) : Out :=
  cntIssue s .s a 0x3E fun g x _ =>
    let word (rem warn : Word) : DWord := BitVec.ofNat 64 (rem.toNat + at_ (bits warn 30 0) 32)
    match s.budgetSel g x false with
    | .bad => scalarDone s d badArg
    | .wrong => scalarDone s d badState
    | .launch l => scalarDone s d (word l.rem l.warn)
    | .world w => scalarDone s d (word (s.budget w).1 (s.budget w).2.1)

/-! ## Tokens and timers (R415, R416) -/

/-- Enabled cores of a die (R14). -/
def State.dieCores (s : State) (die : Nat) : Nat :=
  ((List.range 144).filter fun i => !s.unused.contains (144 * die + i)).length

/-- R415: set a die's LIMIT. -/
def execTokLim (d a b : Sel) (s : State) : Out :=
  cntIssue s .f a b fun _ x y =>
    if 1 < x.toNat then scalarDone s d badArg
    else
      let die := x.toNat
      let (lim, used) := s.pool die
      let line := (s.tokq.filter fun r => r.die == die).length
      scalarDone { s with pools := s.pools.set die (min y.toNat (4 * s.dieCores die), used) } d
        (BitVec.ofNat 64 (lim % 2 ^ 16 + at_ (used % 2 ^ 16) 16 + at_ (line % 256) 32))

/-- R416: set a world's compare value on this core. -/
def execTcmpSet (d a b : Sel) (s : State) : Out :=
  cntIssue s .s a b fun g x y =>
    if bits y 63 6 != 0 || (g.priv != .f && bits y 5 0 != g.world.toNat) then scalarDone s d badArg
    else
      let c := s.core g.core
      scalarDone (s.setCore { c with tcmp := mapSet (BitVec.allOnes 64) c.tcmp (bits y 5 0) x }) d 0

end Sys2Proof.Machine
end

