-- ==== Sys2Proof/Machine/IO.lean ====
section
/-! DEFINITION. Ingest rings and their back-pressure, the doorbells, and the storage controller's accesses and completions
(R343 to R352). -/

namespace Sys2Proof.Machine

/-! ## Flow rules (R343) -/

/-- The 512 bits of a table entry in the device window. -/
def State.dev512 (s : State) (o : Nat) : BitVec 512 :=
  BitVec.ofNat 512 ((List.range 8).foldl (fun n i => n + at_ (s.devGet (o + 8 * i)).toNat (64 * i)) 0)

/-- A flow rule of a die. -/
def State.flowRule (s : State) (die i : Nat) : BitVec 512 := s.dev512 (4 * 2 ^ 40 + 0x10000 * die + 64 * i)

/-- World of a rule. -/
def ruleWorld (r : BitVec 512) : Nat := bits r 133 128
/-- Ring header address of a rule. -/
def ruleRing (r : BitVec 512) : DWord := r.extractLsb' 192 64
/-- PFC priority of a rule. -/
def rulePrio (r : BitVec 512) : Nat := bits r 127 125

/-- Do the top `n` bits of two addresses of `w` bits agree? -/
def prefixAgrees (w n a b : Nat) : Bool := a % 2 ^ w / 2 ^ (w - n) == b % 2 ^ w / 2 ^ (w - n)

/-- Does a packet match a rule? -/
def ruleMatches (r : BitVec 512) (k : RawPacket) : Bool :=
  let w := if k.ipv6 then 128 else 32
  bitAt r 122 && bitAt r (136 + k.port % 8) && bitAt r 124 == k.ipv6 && bitAt r 123 == k.tcp && (!k.tcp || ruleWorld r == 0) &&
  prefixAgrees w (bits r 159 152) (bits r 511 384) k.sip.toNat && prefixAgrees w (bits r 151 144) (bits r 383 256) k.dip.toNat &&
  (bitAt r 135 || bits r 191 176 == k.sport.toNat) && (bitAt r 134 || bits r 175 160 == k.dport.toNat)

/-- The first rule of a die that steers a packet. -/
def State.steer (s : State) (die : Nat) (k : RawPacket) : Option Nat :=
  (List.range 1024).find? fun i => ruleMatches (s.flowRule die i) k

/-! ## Ingest rings (R344, R345) -/

/-- Keys of a ring's storage: a vault address, or a physical address below 2^40. -/
def ringKeys (a : DWord) (n : Nat) : Option (List Nat) :=
  let o := bits a 55 0
  let bad (x : Nat) : Bool := 2 ^ 33 ≤ x || 144 ≤ x / 2 ^ 24 % 256 || x / 2 ^ 23 % 2 == 1
  match bits a 63 56 with
  | 0xF2 => if bad o || bad (o + n - 1) then none else some ((List.range n).map fun i => vaultKey (o + i))
  | 0xFE => if o + n ≤ 2 ^ 40 then some ((List.range n).map fun i => mainKey (o + i)) else none
  | _ => none

/-- Is the storage of keys a world's: by the vault allocation, or by the page ownership (R345)? DESIGN CHOICE (log entry 104):
while TCTL EN is 0, and no page has an owner, main memory counts as any world's. -/
def State.ownedBy (s : State) (w : Nat) (ks : List Nat) : Bool :=
  ks.all fun k =>
    if isVault k then
      let o := k - vaultKey 0
      let e := s.vat (o / 2 ^ 32 * 144 + o / 2 ^ 24 % 256) (o % 2 ^ 23 / 65536)
      bitAt e 31 && !bitAt e 30 && !bitAt e 29 && bits e 5 0 == w
    else
      let e := s.potGet (pageOf k)
      s.slotExists (pageOf k) && (!s.en || (potState e == 1 && potWorld e == w) || (potState e == 4 && w == 0))

/-- A ring's header. -/
structure RingHdr where
  addr : DWord
  keys : List Nat
  h    : BitVec 1024
  bad  : Bool
  deriving DecidableEq, Repr

/-- Read a ring's header; one with a reserved value, or poisoned, is bad. -/
def State.ringHdr (s : State) (a : DWord) : Option RingHdr :=
  if a.toNat % 128 != 0 then none
  else match ringKeys a 128 with
    | none => none
    | some ks =>
      let h : BitVec 1024 := BitVec.ofNat 1024 (leNat (ks.map s.readKey))
      let logs := bits h 447 444
      let bad := s.readsPoison ks || bits h 1023 672 != 0 || bits h 443 64 != 0 || bits h 479 464 == 0 || bits h 452 448 < 2 ||
        20 < bits h 452 448 || logs < 8 || 14 < logs || bits h 63 0 % 2 ^ logs != 0 ||
        (ringKeys (h.extractLsb' 0 64) (2 ^ logs * 2 ^ bits h 452 448)).isNone
      some { addr := a, keys := ks, h := h, bad := bad }

/-- Write a 32-bit word of a header, by the bit it begins at. -/
def State.setHdr (s : State) (r : RingHdr) (lo v : Nat) : State :=
  s.agentWrite ((r.keys.drop (lo / 8)).take 4) (toBytes (v % 2 ^ 32) 4)

/-- Add to a counter in a header. -/
def State.bumpHdr (s : State) (r : RingHdr) (lo n : Nat) : State := s.setHdr r lo (bits r.h (lo + 31) lo + n)

/-- Is a ring full? -/
def RingHdr.full (r : RingHdr) : Bool := bits r.h 511 480 == (bits r.h 543 512 + 2 ^ bits r.h 452 448) % 2 ^ 32

/-- Is an IRQ record of a source in a core's easel? -/
def State.irqHeld (s : State) (core num : Nat) (a1 : DWord) : Bool :=
  let mine (r : EaselRec) : Bool := r.kind == 6 && r.num == num && r.a.getD 1 0 == a1
  (s.liveEasel core).any fun q => mine q.body

/-- Write a steered packet to the next slot of its ring (R345). -/
def State.ringWrite (s : State) (r : RingHdr) (world : Nat) (k : RawPacket) : State :=
  let logs := bits r.h 447 444
  let widx := bits r.h 511 480
  let slot : DWord := r.h.extractLsb' 0 64 + BitVec.ofNat 64 (2 ^ logs * (widx % 2 ^ bits r.h 452 448))
  match ringKeys slot (2 ^ logs) with
  | none => s.bumpHdr r 640 1
  | some ks =>
    let used := ks.take (32 + k.data.length)
    if !s.ownedBy world ks || !s.ownedBy world r.keys then s.bumpHdr r 640 1
    else
      let front := toBytes (widx + 1) 8 ++ toBytes k.data.length 4 ++ toBytes k.sport.toNat 2 ++ toBytes (k.port % 8) 1 ++
        toBytes k.ipv6.toNat 1 ++ toBytes k.sip.toNat 16
      let s1 := (s.agentWrite used (front ++ k.data)).setHdr r 480 (widx + 1)
      let core := bits r.h 461 453
      if bitAt r.h 462 && core < Config.cores && !s1.irqHeld core 0 r.addr then
        s1.postDevice core (deviceRec 0x06 0 world false [BitVec.ofNat 64 (k.port % 8), r.addr])
      else s1

/-! ## Back-pressure (R346) -/

/-- Packets of a die held for a ring, oldest first. -/
def State.heldFor (s : State) (die : Nat) (ring : DWord) : List Held := s.held.filter fun h => h.die == die && h.ring == ring

/-- Packets held for a ring, on either die. -/
def State.heldBack (s : State) (ring : DWord) : List Held := s.held.filter fun h => h.ring == ring

/-- A ring's claim. -/
def State.pauseOf (s : State) (ring : DWord) : Option Pause := s.pauses.find? fun p => p.ring == ring

/-- Replace or drop a ring's claim. -/
def State.setPause (s : State) (ring : DWord) (o : Option Pause) : State :=
  { s with pauses := o.toList ++ s.pauses.filter fun p => p.ring != ring }

/-- Has a ring's budget run out? -/
def State.pauseSpent (s : State) (ring : DWord) : Bool :=
  match s.pauseOf ring with
  | some p => p.spent
  | none => false

/-- Is a priority of a port paused by some ring? -/
def State.xoff (s : State) (port prio : Nat) : Bool := s.pauses.any fun p => p.on && p.claims.contains (port, prio)

/-- A ring withdraws its claim; PAUSED counts the microseconds of the assertion. -/
def State.withdraw (s : State) (ring : DWord) (spent : Bool) : State :=
  match s.pauseOf ring with
  | none => s
  | some p =>
    let ran := if p.on then s.time.toNat - p.start else 0
    let s1 := s.setPause ring (some { p with on := false, claims := [], used := p.used + ran, spent := spent || p.spent })
    match s.ringHdr ring with
    | some r => if p.on then s1.bumpHdr r 544 (ran / 1000) else s1
    | none => s1

/-- A ring's claim on a pause with one more port and priority, from a time on. -/
def Pause.join (p : Pause) (now : Nat) (c : Nat × Nat) : Pause :=
  { p with on := true, start := if p.on then p.start else now, claims := if p.claims.contains c then p.claims else c :: p.claims }

/-- A ring's first or further claim. -/
def claimPause (o : Option Pause) (ring : DWord) (now : Nat) (c : Nat × Nat) : Pause :=
  match o with
  | some p => p.join now c
  | none => { ring := ring, claims := [c], start := now, used := 0, on := true, spent := false }

/-- Hold a packet, asserting PFC on its port; one that the port's buffer has no room for is dropped and counted. -/
def State.hold (s : State) (die rule : Nat) (r : RingHdr) (prio : Nat) (k : RawPacket) : State :=
  let port := k.port % 8
  let inBuf := s.held.filter fun h => h.pkt.port % 8 == port && rulePrio (s.flowRule h.die h.rule) == prio
  if 262144 < (inBuf.map fun h => h.pkt.data.length).sum + k.data.length then s.bumpHdr r 576 1
  else
    let h : Held := { id := s.fresh, die := die, rule := rule, ring := r.addr, pkt := k }
    let s1 := { s with held := s.held ++ [h], fresh := s.fresh + 1 }
    let s2 := s1.setPause r.addr (some (claimPause (s.pauseOf r.addr) r.addr s.time.toNat (port, prio)))
    if s.xoff port prio then s2 else s2.countPort port (ruleWorld (s.flowRule die rule)) 0x3C

/-- A steered packet meets its ring (R345). -/
def State.ingest (s : State) (die rule : Nat) (k : RawPacket) : State :=
  let f := s.flowRule die rule
  match s.ringHdr (ruleRing f) with
  | none => s
  | some r =>
    if r.bad then s.bumpHdr r 640 1
    else if 2 ^ bits r.h 447 444 < k.data.length + 32 then s.bumpHdr r 608 1
    else if r.full || !(s.heldFor die r.addr).isEmpty then
      (if !bitAt r.h 463 || s.pauseSpent r.addr then s.bumpHdr r 576 1 else s.hold die rule r (rulePrio f) k)
    else
      (if (s.heldBack r.addr).isEmpty then s.setPause r.addr none else s).ringWrite r (ruleWorld f) k

/-- R343: a packet that is not of the transport arrives. -/
def execIngestPacket (k : RawPacket) (s : State) : Out :=
  let port := k.port % 8
  let die := port / 4
  if !k.good then .next ((s.countPort port 64 0x37).countPort port 64 0x3F)
  else match s.steer die k with
    | none => .next ((s.countPort port 64 0x37).countPort port 64 0x39)
    | some i =>
      let w := ruleWorld (s.flowRule die i)
      .next ((((s.countPort port w 0x37).countPort port w 0x3B)).ingest die i k)

/-- R345, R346: a slot is free for the oldest packet that a ring holds back. -/
def execIngestHeldWrite (id : Nat) (s : State) : Out :=
  match s.held.find? fun h => h.id == id with
  | none => notReady s
  | some h =>
    if (s.heldFor h.die h.ring).head? != some h then notReady s
    else match s.ringHdr h.ring with
      | none => notReady s
      | some r =>
        if r.full && !r.bad then notReady s
        else
          let s1 := { s with held := s.held.filter (·.id != id) }
          let s2 := if r.bad then s1.bumpHdr r 640 1 else s1.ringWrite r (ruleWorld (s.flowRule h.die h.rule)) h.pkt
          let s3 := if (s2.heldBack h.ring).isEmpty then s2.withdraw h.ring false else s2
          let room := match s3.ringHdr h.ring with
            | some q => !q.full
            | none => false
          .next (if (s3.heldBack h.ring).isEmpty && room then s3.setPause h.ring none else s3)

/-- R346: a ring's pause budget has run out: its claim goes, and what it holds back is dropped and counted. -/
def execPauseBudgetExpiry (die rule : Nat) (s : State) : Out :=
  let ring := ruleRing (s.flowRule die rule)
  match s.pauseOf ring, s.ringHdr ring with
  | some p, some r =>
    if !p.on || p.used + (s.time.toNat - p.start) < 1000 * bits r.h 479 464 then notReady s
    else
      let n := (s.heldBack ring).length
      let s1 := { s with held := s.held.filter fun h => h.ring != ring }
      .next ((s1.withdraw ring true).bumpHdr r 576 n)
  | _, _ => notReady s

/-- R346: while a priority is paused its XOFF frame is sent again. -/
def execXoffRefresh (port prio : Nat) (s : State) : Out :=
  if s.xoff port prio then .next (s.countPort port 64 0x3C) else notReady s

/-! ## Storage (R348 to R350) -/

/-- R349: the oldest doorbell store of a queue pair reaches the SSD. -/
def execDoorbellWrite (id : Nat) (s : State) : Out :=
  match s.bells.find? fun b => b.id == id with
  | none => notReady s
  | some b =>
    if (s.bells.find? fun c => c.port == b.port && c.qid == b.qid) != some b then notReady s
    else .next { s with bells := s.bells.filter (·.id != id), rung := b :: s.rung }

/-- Offset of a queue pair's entry (R348). -/
def nvmeOff (port qid : Nat) : Nat := dev3 + 0x4000 + 64 * (64 * port + qid - 1)

/-- Is it an I/O queue pair of the table? -/
def nvmeOk (port qid : Nat) : Bool := port < 4 && 1 ≤ qid && qid ≤ 64

/-- Who the storage controller acts as for a queue pair. -/
def nvmePoster (e : BitVec 512) : Poster := supervisor 0 (e.extractLsb' 269 6) (e.extractLsb' 275 13)

/-- Post the IRQ record of a queue pair. -/
def State.nvmeIrq (s : State) (e : BitVec 512) (port : Nat) (a1 : DWord) : State :=
  let core := bits e 268 260
  if core < Config.cores then s.postDevice core (deviceRec 0x06 1 (bits e 274 269) false [BitVec.ofNat 64 port, a1]) else s

/-- A failure on a queue's own memory: V is cleared and an IRQ record says so (R348). -/
def State.nvmeFail (s : State) (e : BitVec 512) (port qid : Nat) : State :=
  let o := nvmeOff port qid + 32
  (s.devSet o (s.devGet o &&& ~~~4#64)).nvmeIrq e port (BitVec.ofNat 64 (2 ^ 63 + qid))

/-- The windows that the storage controller may name (R348). -/
def State.nvmeSpan (s : State) (e : BitVec 512) (a : DWord) (n : Nat) (kind : AKind) : Span :=
  if bits a 63 56 ≤ 1 || bits a 63 56 == 0xF2 then s.span (nvmePoster e) a n kind
  else .fault { code := .aperture, acc := kind.acc, addr := a, addr2 := 0 }

/-- Does the doorbell block of a queue pair translate? -/
def State.bellOk (s : State) (e : BitVec 512) : Bool :=
  match s.nvmeSpan e (e.extractLsb' 320 64) 8 .load with
  | .fault _ => false
  | _ => true

/-- Does an access lie in a queue pair's own queues? -/
def inQueues (e : BitVec 512) (a : DWord) : Bool :=
  let within (lo n : Nat) : Bool := lo ≤ a.toNat && a.toNat < lo + n
  within (bits e 511 448) (64 * (bits e 319 304 + 1)) || within (bits e 447 384) (16 * (bits e 303 288 + 1))

/-- Where an SSD's access for its admin queue leads. DESIGN CHOICE (log entry 93): F owns the queue (R347) and no entry
describes it, so the access is F's, in world 0, by a physical or a vault address. -/
def State.adminSpan (s : State) (a : DWord) (n : Nat) (kind : AKind) : Span :=
  if bits a 63 56 == 0xFE || bits a 63 56 == 0xF2 then s.span { supervisor 0 0 0 with priv := .f } a n kind
  else .fault { code := .aperture, acc := kind.acc, addr := a, addr2 := 0 }

/-- R347: the SSD of a port reads or writes device memory for its admin queue. -/
def State.adminAccess (s : State) (wr : Bool) (addr : BitVec 64) (len : Nat) (data : List (BitVec 8)) : Out :=
  match s.adminSpan addr (if wr then data.length else len) (if wr then .store else .load) with
  | .fault _ => .next s
  | .wait => notReady s
  | .keys ks _ => .next (if wr then s.agentWrite ks data else s.meetErrors (supervisor 0 0 0) ks)

/-- R348: the SSD reads or writes device memory for a queue pair. A refused access is answered with Completer Abort, which
changes nothing here; one to the queues themselves clears V. -/
def execSsdDataAccess (port qid : Nat) (wr : Bool) (addr : BitVec 64) (len : Nat) (data : List (BitVec 8)) (s : State) : Out :=
  let e := s.dev512 (nvmeOff port qid)
  if port < 4 && qid == 0 then s.adminAccess wr addr len data
  else if !nvmeOk port qid || !bitAt e 258 then .next s
  else if !s.bellOk e then .next (s.nvmeFail e port qid)
  else match s.nvmeSpan e addr (if wr then data.length else len) (if wr then .store else .load) with
    | .fault _ => .next (if inQueues e addr then s.nvmeFail e port qid else s)
    | .wait => notReady s
    | .keys ks _ =>
      let u := s.walksFor (nvmePoster e) addr (if wr then data.length else len) (if wr then .store else .load)
      .next (if wr then u.agentWrite ks data else u.meetErrors (nvmePoster e) ks)

/-- R350: the SSD writes a completion entry, and an IRQ record is posted when none of the queue pair is in the easel, be it of a
completion or of a failure (R348). -/
def execNvmeCompletion (port qid slot : Nat) (entry : BitVec 128) (s : State) : Out :=
  let e := s.dev512 (nvmeOff port qid)
  if !nvmeOk port qid || !bitAt e 258 then .next s
  else
    let a : DWord := e.extractLsb' 384 64 + BitVec.ofNat 64 (16 * (slot % (bits e 303 288 + 1)))
    if !s.bellOk e then .next (s.nvmeFail e port qid)
    else match s.nvmeSpan e a 16 .store with
      | .fault _ => .next (s.nvmeFail e port qid)
      | .wait => notReady s
      | .keys ks _ =>
        let s1 := (s.walksFor (nvmePoster e) a 16 .store).agentWrite ks (toBytes entry.toNat 16)
        let mine (r : EaselRec) : Bool :=
          r.kind == 6 && r.num == 1 && r.a.getD 0 0 == BitVec.ofNat 64 port && bits (r.a.getD 1 0) 62 0 == qid
        let core := bits e 268 260
        let held := (s1.liveEasel core).any fun q => mine q.body
        .next (if bitAt e 259 && !held then s1.nvmeIrq e port (BitVec.ofNat 64 qid) else s1)

end Sys2Proof.Machine
end

