-- ==== Sys2Proof/Machine/Scalar.lean ====
section
/-! DEFINITION. Scalar integer instructions and moves between lanes and scalars (R133 to R137). -/

namespace Sys2Proof.Machine

/-- A scalar result with the taint and poison of what it read (R135). -/
def scalarVal (x : Nat) (srcs : List Val64) : Val64 :=
  { val := BitVec.ofNat 64 x, taint := srcs.any (·.taint), poison := srcs.any (·.poison) }

/-- A scalar instruction of two sources: once for the cohort, 64 bits, no saturation (R133). -/
def scalar2 (s : State) (d a b : Sel) (f : Nat → Nat → Nat) : Out :=
  scalarIssue s fun g =>
    let x := ssource g a
    let y := ssource g b
    g.setScalar d (scalarVal (f x.val.toNat y.val.toNat) [x, y])

/-- A scalar instruction of one source. -/
def scalar1 (s : State) (d a : Sel) (f : Nat → Nat) : Out :=
  scalarIssue s fun g =>
    let x := ssource g a
    g.setScalar d (scalarVal (f x.val.toNat) [x])

/-- Signed reading of 64 bits. -/
def s64 (x : Nat) : Int := signedOf 64 x

/-- 1 for true. -/
def bit1 (b : Bool) : Nat := if b then 1 else 0

/-- R133. -/
def execSadd (d a b : Sel) (s : State) : Out := scalar2 s d a b fun x y => wrap 64 (x + y : Int)
/-- R133. -/
def execSsub (d a b : Sel) (s : State) : Out := scalar2 s d a b fun x y => wrap 64 ((x : Int) - y)
/-- R133. -/
def execSmul (d a b : Sel) (s : State) : Out := scalar2 s d a b fun x y => wrap 64 (x * y : Int)
/-- R133: the high half, signed. -/
def execSmulhi (d a b : Sel) (s : State) : Out := scalar2 s d a b fun x y => wrap 64 ((s64 x * s64 y).shiftRight 64)
/-- R133, R31. -/
def execSdiv (d a b : Sel) (s : State) : Out := scalar2 s d a b fun x y => wrap 64 (quotI (s64 x) (s64 y))
/-- R133, R31. -/
def execSdivN (d a b : Sel) (s : State) : Out := scalar2 s d a b fun x y => wrap 64 (quotN 64 x y)
/-- R133, R31. -/
def execSrem (d a b : Sel) (s : State) : Out := scalar2 s d a b fun x y => wrap 64 (remI (s64 x) (s64 y))
/-- R133, R31. -/
def execSremN (d a b : Sel) (s : State) : Out := scalar2 s d a b fun x y => wrap 64 (remI x y)
/-- R133. -/
def execSmin (d a b : Sel) (s : State) : Out := scalar2 s d a b fun x y => wrap 64 (min (s64 x) (s64 y))
/-- R133. -/
def execSminN (d a b : Sel) (s : State) : Out := scalar2 s d a b fun x y => min x y
/-- R133. -/
def execSmax (d a b : Sel) (s : State) : Out := scalar2 s d a b fun x y => wrap 64 (max (s64 x) (s64 y))
/-- R133. -/
def execSmaxN (d a b : Sel) (s : State) : Out := scalar2 s d a b fun x y => max x y
/-- R133. -/
def execSand (d a b : Sel) (s : State) : Out := scalar2 s d a b fun x y => x &&& y
/-- R133. -/
def execSor (d a b : Sel) (s : State) : Out := scalar2 s d a b fun x y => x ||| y
/-- R133. -/
def execSxor (d a b : Sel) (s : State) : Out := scalar2 s d a b fun x y => x ^^^ y
/-- R133, R123. -/
def execSshl (d a b : Sel) (s : State) : Out := scalar2 s d a b fun x y => shl 64 x (y % 256)
/-- R133, R123. -/
def execSshr (d a b : Sel) (s : State) : Out := scalar2 s d a b fun x y => shr 64 x (y % 256)
/-- R133, R123. -/
def execSsra (d a b : Sel) (s : State) : Out := scalar2 s d a b fun x y => sra 64 x (y % 256)
/-- R133. -/
def execSclz (d a : Sel) (s : State) : Out := scalar1 s d a fun x => clz 64 x
/-- R133. -/
def execSpopc (d a : Sel) (s : State) : Out := scalar1 s d a fun x => popc 64 x
/-- R133. -/
def execSmov (d a : Sel) (s : State) : Out := scalar1 s d a fun x => x

/-- R133, R135: a if the old sD is not 0, else b; the condition is read too. -/
def execSsel (d a b : Sel) (s : State) : Out :=
  scalarIssue s fun g =>
    let c := ssource g d
    let x := ssource g a
    let y := ssource g b
    g.setScalar d (scalarVal (if c.val == 0#64 then y.val.toNat else x.val.toNat) [c, x, y])

/-- R133. -/
def execScmpEq (d a b : Sel) (s : State) : Out := scalar2 s d a b fun x y => bit1 (x == y)
/-- R133. -/
def execScmpNe (d a b : Sel) (s : State) : Out := scalar2 s d a b fun x y => bit1 (x != y)
/-- R133. -/
def execScmpLt (d a b : Sel) (s : State) : Out := scalar2 s d a b fun x y => bit1 (s64 x < s64 y)
/-- R133. -/
def execScmpLe (d a b : Sel) (s : State) : Out := scalar2 s d a b fun x y => bit1 (s64 x ≤ s64 y)
/-- R133. -/
def execScmpLtN (d a b : Sel) (s : State) : Out := scalar2 s d a b fun x y => bit1 (x < y)
/-- R133. -/
def execScmpLeN (d a b : Sel) (s : State) : Out := scalar2 s d a b fun x y => bit1 (x ≤ y)

/-- A scalar instruction with an immediate: the literal in full, or IMM8 sign-extended (R134). -/
def scalarImm (s : State) (d a : Sel) (i : Imm8) (lit : Option Imm) (f : Nat → Nat → Nat) : Out :=
  scalar1 s d a fun x => f x (kbits i lit).toNat

/-- R134. -/
def execSaddImm (d a : Sel) (i : Imm8) (lit : Option Imm) (s : State) : Out :=
  scalarImm s d a i lit fun x k => wrap 64 (x + k : Int)
/-- R134. -/
def execSmulImm (d a : Sel) (i : Imm8) (lit : Option Imm) (s : State) : Out :=
  scalarImm s d a i lit fun x k => wrap 64 (x * k : Int)
/-- R134. -/
def execSandImm (d a : Sel) (i : Imm8) (lit : Option Imm) (s : State) : Out := scalarImm s d a i lit fun x k => x &&& k
/-- R134. -/
def execSorImm (d a : Sel) (i : Imm8) (lit : Option Imm) (s : State) : Out := scalarImm s d a i lit fun x k => x ||| k
/-- R134. -/
def execSxorImm (d a : Sel) (i : Imm8) (lit : Option Imm) (s : State) : Out := scalarImm s d a i lit fun x k => x ^^^ k
/-- R134: the shifts read IMM8 unsigned, and bits 7..0 of a literal. -/
def execSshlImm (d a : Sel) (i : Imm8) (lit : Option Imm) (s : State) : Out := scalar1 s d a fun x => shl 64 x (kshift i lit)
/-- R134. -/
def execSshrImm (d a : Sel) (i : Imm8) (lit : Option Imm) (s : State) : Out := scalar1 s d a fun x => shr 64 x (kshift i lit)
/-- R134. -/
def execSsraImm (d a : Sel) (i : Imm8) (lit : Option Imm) (s : State) : Out := scalar1 s d a fun x => sra 64 x (kshift i lit)

/-- R134: the sign-extended immediate; it reads no source. -/
def execSmovi (d : Sel) (i : Imm8) (s : State) : Out :=
  scalarIssue s fun g => g.setScalar d (scalarVal (kbits i none).toNat [])

/-- R134: the literal. -/
def execSlit (d : Sel) (k : Imm) (s : State) : Out := scalarIssue s fun g => g.setScalar d (scalarVal k.toNat [])

/-- R136: one lane's register or history entry into a scalar; 0 for a lane that does not exist or has exited. -/
def execSRd (d a b : Sel) (s : State) : Out :=
  onGroup s fun g =>
    withRegs s g [(a, 1)] <|
      let j := ssource g b
      match g.thread? j.val.toNat with
      | some t =>
        if t.st == .exited then
          .next (s.putGroup (movePast s (g.setScalar d { val := 0, taint := j.taint, poison := j.poison })))
        else
          let v := vsource s.tick (g.seenBy s.cur.lanes) t (decide (0x20 ≤ a.toNat)) a
          if v.wait.isEmpty then
            .next (s.putGroup (movePast s (g.setScalar d
              { val := v.val.setWidth 64, taint := v.taint || j.taint, poison := v.poison || j.poison })))
          else notReady s
      | none => .next (s.putGroup (movePast s (g.setScalar d { val := 0, taint := j.taint, poison := j.poison })))

/-- R137: a scalar's low word into one lane's register; nothing for a lane that does not exist or has exited. A register that a
command still owns for the cohort becomes any value (R124, R273). -/
def execSWr (d a b : Sel) (s : State) : Out :=
  onGroup s fun g =>
    withRegs s g [(d, 1)] <|
      let x := ssource g a
      let j := ssource g b
      match g.thread? j.val.toNat with
      | some t =>
        if t.st == .exited then .next (s.putGroup (movePast s g))
        else if (readReg s.tick g t d.toNat).wait.isEmpty then
          let w : Word := if g.owesReg s.cur.lanes d.toNat t.lane then Config.free 32 s.tick (t.lane * 64 + d.toNat)
            else x.val.setWidth 32
          let v : Val := { val := w.setWidth 128, taint := x.taint || j.taint,
                           poison := x.poison || j.poison, wait := [] }
          .next (s.putGroup (movePast s ((g.setThread t.lane fun u => writeDst u .w32 d v).dirtyFrom s.cur.lanes t.lane .w32 d)))
        else notReady s
      | none => .next (s.putGroup (movePast s g))

end Sys2Proof.Machine
end

