-- ==== Sys2Proof/Machine/Special.lean ====
section
/-! DEFINITION. The special functions (R148, R149). The exact value is enclosed between two fixed-point numbers; the results
that R149's bound allows are the encodings between its ends, and which of them an implementation gives is a fixed function
of the input bits (`Config.vsfu`, log entry 4). -/

namespace Sys2Proof.Machine

/-! ## Fixed-point series -/

/-- Fraction bits of the fixed-point numbers. -/
def fxP : Nat := 512

/-- One as a fixed-point number. -/
def fxOne : Nat := 2 ^ fxP

/-- Terms `x^k / k!` added up, the first at `k - 1` being `t`. -/
def expSeries (x : Nat) : Nat → Nat → Nat → Nat → Nat
  | 0, _, _, acc => acc
  | n + 1, k, t, acc => expSeries x n (k + 1) (t * x / (fxOne * k)) (acc + t)

/-- The exponential of a number below 1; low by less than 2^8 units. -/
def expFx (x : Nat) : Nat := expSeries x 130 1 fxOne 0

/-- Terms `x^k / k!` added with the signs of sine and of cosine. -/
def trigSeries (x : Int) : Nat → Nat → Int → Int × Int → Int × Int
  | 0, _, _, a => a
  | n + 1, k, t, (s, c) =>
    let a := match k % 4 with
      | 0 => (s, c + t)
      | 1 => (s + t, c)
      | 2 => (s, c - t)
      | _ => (s - t, c)
    trigSeries x n (k + 1) (t * x / (((fxOne * (k + 1) : Nat)) : Int)) a

/-- Terms `z^(2k+1) / (2k+1)` added up; `t` is `z^(2k+1)`. -/
def atanhSeries (z2 : Nat) : Nat → Nat → Nat → Nat → Nat
  | 0, _, _, acc => acc
  | n + 1, k, t, acc => atanhSeries z2 n (k + 1) (t * z2 / fxOne) (acc + t / (2 * k + 1))

/-- The inverse hyperbolic tangent of a fraction of at most 1/3. -/
def atanhFx (num den : Nat) : Nat :=
  let z := num * fxOne / den
  atanhSeries (z * z / fxOne) 180 0 z 0

/-- The natural logarithm of 2. -/
def ln2Fx : Nat := 2 * atanhFx 1 3

/-- Alternating terms `1 / (d^(2k+1) (2k+1))`; `t` is `1 / d^(2k+1)`. -/
def atanSeries (d2 : Nat) : Nat → Nat → Int → Int → Int
  | 0, _, _, acc => acc
  | n + 1, k, t, acc =>
    let term := t / ((2 * k + 1 : Nat) : Int)
    atanSeries d2 n (k + 1) (t / (d2 : Int)) (if k % 2 == 0 then acc + term else acc - term)

/-- Half of pi, by Machin's formula. -/
def halfPiFx : Int :=
  2 * (4 * atanSeries 25 130 0 ((fxOne / 5 : Nat) : Int) 0 - atanSeries (239 * 239) 40 0 ((fxOne / 239 : Nat) : Int) 0)

/-! ## Enclosures -/

/-- The exact value lies strictly between `lo · 2^e` and `hi · 2^e`. -/
structure Encl where
  lo : Int
  hi : Int
  e  : Int
  deriving DecidableEq, Repr

/-- 1 / (m · 2^e). -/
def recipEncl (m : Nat) (e : Int) : Encl :=
  let k := bitLen m + 100
  let q := 2 ^ k / m
  { lo := (q : Int), hi := (q : Int) + 1, e := -e - (k : Int) }

/-- 1 / √(m · 2^e). -/
def rsqrtEncl (m : Nat) (e : Int) : Encl :=
  let n := if e % 2 == 0 then m else 2 * m
  let x := if e % 2 == 0 then e else e - 1
  let k := bitLen n + 100
  let r := isqrt (2 ^ (2 * k) / n) 0 (k + 1)
  { lo := (r : Int), hi := (r : Int) + 1, e := -(x / 2) - (k : Int) }

/-- 2^(x · 2^e), for an exponent below 2^12. -/
def exp2Encl (x : Int) (e : Int) : Encl :=
  if x < 0 && 12 < (bitLen x.natAbs : Int) + e then { lo := 0, hi := 1, e := -2000 }
  else
    let p : Int := (fxP : Int)
    let a : Int := if -p ≤ e then x * 2 ^ (e + p).toNat else x / 2 ^ (-p - e).toNat
    let one : Int := (fxOne : Int)
    let v : Int := (expFx ((a % one).toNat * ln2Fx / fxOne) : Int)
    { lo := max one (v - 2 ^ 16), hi := min (2 * one) (v + 2 ^ 16), e := a / one - p }

/-- log2 (m · 2^e). -/
def log2Encl (m : Nat) (e : Int) : Encl :=
  let b := bitLen m - 1
  let l := 2 * atanhFx (m - 2 ^ b) (m + 2 ^ b)
  let v : Int := (e + (b : Int)) * (fxOne : Int) + ((l * fxOne / ln2Fx : Nat) : Int)
  { lo := v - 2 ^ 16, hi := v + 2 ^ 16, e := -(fxP : Int) }

/-- A number just below `m · 2^e`, by less than one part in 2^128. -/
def justBelow (m : Nat) (e : Int) : Encl :=
  { lo := (m * 2 ^ 128 : Nat) - (m : Int), hi := (m * 2 ^ 128 : Nat), e := e - 128 }

/-- tanh (m · 2^e). -/
def tanhEncl (m : Nat) (e : Int) : Encl :=
  let top := (bitLen m : Int) + e
  if top ≤ -64 then justBelow m e
  else if 6 < top then { lo := 2 ^ 180 - 1, hi := 2 ^ 180, e := -180 }
  else
    let a := m * 2 ^ (e + (fxP : Int)).toNat
    let t := 2 * a * fxOne / ln2Fx
    let q := expFx ((fxOne - t % fxOne) * ln2Fx / fxOne) / 2 ^ (t / fxOne + 1)
    let y : Int := (((fxOne - q) * fxOne / (fxOne + q) : Nat) : Int)
    { lo := y - 2 ^ 40, hi := min (fxOne : Int) (y + 2 ^ 40), e := -(fxP : Int) }

/-- sin (m · 2^e), or its cosine. -/
def sinEncl (cos : Bool) (m : Nat) (e : Int) : Encl :=
  if (bitLen m : Int) + e ≤ -64 then
    (if cos then { lo := 2 ^ 120 - 1, hi := 2 ^ 120, e := -120 } else justBelow m e)
  else
    let a : Int := ((m * 2 ^ (e + (fxP : Int)).toNat : Nat) : Int)
    let k := a / halfPiFx
    let (s, c) := trigSeries (a - k * halfPiFx) 130 0 (fxOne : Int) (0, 0)
    let v := match (k % 4).toNat, cos with
      | 0, false => s
      | 1, false => c
      | 2, false => -s
      | _, false => -c
      | 0, true => c
      | 1, true => -s
      | 2, true => -c
      | _, true => s
    let slack := 2 ^ 20 * (k + 1)
    { lo := max (-(fxOne : Int)) (v - slack), hi := min (fxOne : Int) (v + slack), e := -(fxP : Int) }

/-! ## The results that a bound allows (R149) -/

/-- Exponent of a format's last place at a magnitude. -/
def ulpExp (f : FF) (m : Nat) (e : Int) : Int :=
  if m == 0 then f.qmin else max ((bitLen m : Int) - 1 + e - (f.frac : Int)) f.qmin

/-- The encoding of a magnitude rounded down or up: encodings are ordered as their values are. -/
def magOrd (f : FF) (up : Bool) (m : Nat) (e : Int) : Int :=
  if m == 0 then 0
  else
    let q := ulpExp f m e
    let n : Nat :=
      if q ≤ e then m * 2 ^ (e - q).toNat
      else if up then (m + 2 ^ (q - e).toNat - 1) / 2 ^ (q - e).toNat
      else m / 2 ^ (q - e).toNat
    (q - f.qmin) * (2 ^ f.frac : Nat) + (n : Int)

/-- The signed encoding next to `x · 2^e`, at or below it, or at or above it. -/
def signedOrd (f : FF) (up : Bool) (x : Int) (e : Int) : Int :=
  if 0 ≤ x then magOrd f up x.toNat e else -(magOrd f (!up) x.natAbs e)

/-- A bound of R149. -/
inductive Tol where
  | faithful | twoUlp | within (k : Nat)
  deriving DecidableEq, Repr

/-- The numbers that lie within `2^u` of every number of an enclosure. -/
def Encl.near (x : Encl) (u : Int) : Encl :=
  let e := min x.e u
  let w : Int := 2 ^ (u - e).toNat
  { lo := x.hi * 2 ^ (x.e - e).toNat - w, hi := x.lo * 2 ^ (x.e - e).toNat + w, e := e }

/-- The results that a bound allows, as signed encodings: the two next to the exact value (where an encoding lies inside the
enclosure, which is next to it on one side or the other, that one), or those no further from it than the bound. -/
def Encl.allowed (f : FF) (t : Tol) (x : Encl) : Int × Int :=
  let inside (y : Encl) : Int × Int := (signedOrd f true y.lo y.e, signedOrd f false y.hi y.e)
  match t with
  | .faithful =>
    let a := signedOrd f false x.lo x.e + 1
    let b := signedOrd f true x.hi x.e - 1
    (min a b, max a b)
  | .twoUlp =>
    let m := if 0 < x.lo || x.hi < 0 then min x.lo.natAbs x.hi.natAbs else 0
    inside (x.near (ulpExp f m x.e + 1))
  | .within k => inside (x.near (-(k : Int)))

/-- One of the encodings between two signed ones; of a range that holds zero both zeros. -/
def pickOrd (f : FF) (op : Nat) (x : Nat) (lo hi : Int) : Nat :=
  let a := if lo ≤ 0 then lo - 1 else lo
  let b := if hi < 0 then hi - 1 else hi
  let fmt := match f with
    | .f64 => 1 | .f16 => 2 | .bf16 => 3 | _ => 0
  let r : Int := a + ((Config.vsfu op fmt (BitVec.ofNat 64 x) % ((b - a).toNat + 1) : Nat) : Int)
  if r < 0 then f.signBit true + (-r - 1).toNat else r.toNat

/-- An inexact result: one that the bound allows, no larger than `cap`, with NX, and UF or OF as the exact value has them
(R43, R45), which a number strictly between the ends of the enclosure tells; `neg` when its sign is still to be changed. -/
def vsfuInexact (f : FF) (mode : RMode) (neg : Bool) (op x : Nat) (t : Tol) (cap : Nat) (y : Encl) : Nat × BitVec 5 :=
  let (lo, hi) := y.allowed f t
  let mid := y.lo + y.hi
  let flags := (roundTo f mode false (decide (mid < 0) != neg) mid.natAbs (y.e - 1)).2
  (pickOrd f op x (max (min lo (f.maxMag : Int)) (-(cap : Int))) (min hi (cap : Int)), fNX ||| flags)

/-- Change the sign of a result. -/
def flipIf (f : FF) (s : Bool) (r : Nat × BitVec 5) : Nat × BitVec 5 := if s then (f.flip r.1, r.2) else r

/-- The exponent of a power of two. -/
def powerOfTwo (m : Nat) (e : Int) : Option Int :=
  if m != 0 && 2 ^ (bitLen m - 1) == m then some ((bitLen m : Int) - 1 + e) else none

/-- Bounds that differ by format: two ulps for f32 and f64, faithful for the packed types' elements. -/
def tolOf (f : FF) : Tol :=
  match f with
  | .f32 | .f64 => .twoUlp
  | _ => .faithful

/-- An exact result, if it fits the format without rounding. -/
def exactly (f : FF) (s : Bool) (m : Nat) (e : Int) : Option Nat :=
  let r := roundTo f .rne false s m e
  if r.2 == 0#5 then some r.1 else none

/-! ## The functions (R148) -/

/-- 1 / a. DESIGN CHOICE (log entry 4): of the two neighbours, the one for −a is the negative of the one for a. -/
def fRcp (f : FF) (mode : RMode) (a : Nat) : Nat × BitVec 5 :=
  match nanOf f [a], f.read a with
  | some r, _ => r
  | none, .nan _ => (f.nan, 0#5)
  | none, .inf s => (f.signBit s, 0#5)
  | none, .fin s m e =>
    if m == 0 then (f.signBit s + f.inf, fDZ)
    else match (powerOfTwo m e).bind fun k => exactly f s 1 (-k) with
      | some r => (r, 0#5)
      | none => flipIf f s (vsfuInexact f mode s 0 (f.mag a) .faithful f.inf (recipEncl m e))

/-- 1 / √a. -/
def fRsq (f : FF) (mode : RMode) (a : Nat) : Nat × BitVec 5 :=
  match nanOf f [a], f.read a with
  | some r, _ => r
  | none, .nan _ => (f.nan, 0#5)
  | none, .inf s => if s then invalid f else (0, 0#5)
  | none, .fin s m e =>
    if m == 0 then (f.signBit s + f.inf, fDZ)
    else if s then invalid f
    else match (powerOfTwo m e).bind fun k => if k % 2 == 0 then exactly f false 1 (-(k / 2)) else none with
      | some r => (r, 0#5)
      | none => vsfuInexact f mode false 1 a .faithful f.maxMag (rsqrtEncl m e)

/-- 2^a. -/
def fEx2 (f : FF) (mode : RMode) (a : Nat) : Nat × BitVec 5 :=
  match nanOf f [a], f.read a with
  | some r, _ => r
  | none, .nan _ => (f.nan, 0#5)
  | none, .inf s => (if s then 0 else f.inf, 0#5)
  | none, .fin s m e =>
    let x : Int := if s then -(m : Int) else (m : Int)
    let lim : Int := f.qmax + (f.frac : Int) + 1
    let big := !s && decide (if 0 ≤ e then lim ≤ x * 2 ^ (min e 64).toNat else lim * 2 ^ (-e).toNat ≤ x)
    let whole := m == 0 || 0 ≤ e || m % 2 ^ (min (-e) 2000).toNat == 0
    let n : Int := if 0 ≤ e then x * 2 ^ (min e 64).toNat else x / 2 ^ (-e).toNat
    if big then (f.inf, fOF ||| fNX)
    else match if whole && decide (-2000 < n) then exactly f false 1 n else none with
      | some r => (r, 0#5)
      | none => vsfuInexact f mode false 2 a (tolOf f) f.maxMag (exp2Encl x e)

/-- log2 a. -/
def fLg2 (f : FF) (mode : RMode) (a : Nat) : Nat × BitVec 5 :=
  match nanOf f [a], f.read a with
  | some r, _ => r
  | none, .nan _ => (f.nan, 0#5)
  | none, .inf s => if s then invalid f else (f.inf, 0#5)
  | none, .fin s m e =>
    if m == 0 then (f.signBit true + f.inf, fDZ)
    else if s then invalid f
    else match (powerOfTwo m e).bind fun k => exactly f (decide (k < 0)) k.natAbs 0 with
      | some r => (r, 0#5)
      | none => vsfuInexact f mode false 3 a (tolOf f) f.maxMag (log2Encl m e)

/-- Is a magnitude above the range in which R149 bounds `fsin` and `fcos`? -/
def beyondTrig (f : FF) (m : Nat) (e : Int) : Bool :=
  let above (k : Int) : Bool :=
    if k ≤ e then 2 ^ 0 < m * 2 ^ (min (e - k) 64).toNat else 2 ^ (k - e).toNat < m
  match f with
  | .f32 => above 16
  | .f64 => above 40
  | _ => false

/-- Sine or cosine of a finite magnitude that is not 0. -/
def trigOf (f : FF) (mode : RMode) (neg : Bool) (op : Nat) (cos : Bool) (x m : Nat) (e : Int) : Nat × BitVec 5 :=
  let one := (roundTo f .rne false false 1 0).1
  if beyondTrig f m e then (pickOrd f op x (-(one : Int)) (one : Int), fNX)
  else
    let t : Tol := match f with
      | .f32 => .within 21
      | .f64 => .within 50
      | _ => .faithful
    vsfuInexact f mode neg op x t f.maxMag (sinEncl cos m e)

/-- sin a. -/
def fSin (f : FF) (mode : RMode) (a : Nat) : Nat × BitVec 5 :=
  match nanOf f [a], f.read a with
  | some r, _ => r
  | none, .nan _ => (f.nan, 0#5)
  | none, .inf _ => invalid f
  | none, .fin s m e => if m == 0 then (a, 0#5) else flipIf f s (trigOf f mode s 4 false (f.mag a) m e)

/-- cos a. -/
def fCos (f : FF) (mode : RMode) (a : Nat) : Nat × BitVec 5 :=
  match nanOf f [a], f.read a with
  | some r, _ => r
  | none, .nan _ => (f.nan, 0#5)
  | none, .inf _ => invalid f
  | none, .fin _ m e => if m == 0 then ((roundTo f .rne false false 1 0).1, 0#5) else trigOf f mode false 5 true (f.mag a) m e

/-- tanh a. -/
def fTanh (f : FF) (mode : RMode) (a : Nat) : Nat × BitVec 5 :=
  match nanOf f [a], f.read a with
  | some r, _ => r
  | none, .nan _ => (f.nan, 0#5)
  | none, .inf s => (f.signBit s + (roundTo f .rne false false 1 0).1, 0#5)
  | none, .fin s m e =>
    if m == 0 then (a, 0#5) else flipIf f s (vsfuInexact f mode s 6 (f.mag a) (tolOf f) f.maxMag (tanhEncl m e))

/-! ## The instructions -/

/-- A special function on each element. -/
def specialIssue (s : State) (p : Option Pfx) (d a : Sel) (t : FTy) (op : FF → RMode → Nat → Nat × BitVec 5) : Out :=
  fpIssue s p d t [a] false fun m f x => op f m (nthArg x 0)

/-- R148: 1 / a. -/
def execFrcp (d a : Sel) (t : FTy) (p : Option Pfx) (s : State) : Out := specialIssue s p d a t fRcp
/-- R148: 1 / √a. -/
def execFrsq (d a : Sel) (t : FTy) (p : Option Pfx) (s : State) : Out := specialIssue s p d a t fRsq
/-- R148: 2^a. -/
def execFex2 (d a : Sel) (t : FTy) (p : Option Pfx) (s : State) : Out := specialIssue s p d a t fEx2
/-- R148: log2 a. -/
def execFlg2 (d a : Sel) (t : FTy) (p : Option Pfx) (s : State) : Out := specialIssue s p d a t fLg2
/-- R148: sin a. -/
def execFsin (d a : Sel) (t : FTy) (p : Option Pfx) (s : State) : Out := specialIssue s p d a t fSin
/-- R148: cos a. -/
def execFcos (d a : Sel) (t : FTy) (p : Option Pfx) (s : State) : Out := specialIssue s p d a t fCos
/-- R148: tanh a. -/
def execFtanh (d a : Sel) (t : FTy) (p : Option Pfx) (s : State) : Out := specialIssue s p d a t fTanh

end Sys2Proof.Machine
end

