-- ==== Sys2Proof/Machine/Swap.lean ====
section
/-! DEFINITION. Swapping a partition to shadow storage and back (R275, R285, R293, R314 to R318). -/

namespace Sys2Proof.Machine

/-! ## swapout (R315) -/

/-- The world that a swap instruction names, or SVC_BAD: other bits of sA, or S naming another world. -/
def swapWorld (g : Group) (x : DWord) : Option Nat :=
  if bits x 63 6 != 0 || (g.priv == .s && bits x 5 0 != g.world.toNat) then none else some (bits x 5 0)

/-- U groups of a world on a core. -/
def State.partition (s : State) (core w : Nat) : List Group :=
  s.groups.filter fun g => g.core == core && g.priv == .u && g.world.toNat == w

/-- Is an easel record one that a group of a list posted? -/
def EaselSlot.ofGroups (q : EaselSlot) (gs : List Group) : Bool :=
  q.body.hasPoster && gs.any fun g =>
    g.slot % 512 == q.body.gslot && g.world == q.body.world && g.ginst == q.body.ginst && g.seated ≤ q.seq

/-- Is a fault record one that a group of a list posted? -/
def FaultSlot.ofGroups (q : FaultSlot) (gs : List Group) : Bool :=
  gs.any fun g => g.slot % 512 == q.body.gslot && g.world == q.body.world && g.ginst == q.body.ginst && g.seated ≤ q.seq

/-- Live records of a core that groups posted. -/
def State.easelOf (s : State) (core : Nat) (gs : List Group) : List EaselSlot :=
  s.easel.filter fun q => q.core == core && q.live && q.ofGroups gs

/-- Live fault records of a core that groups posted. -/
def State.faultsOf (s : State) (core : Nat) (gs : List Group) : List FaultSlot :=
  s.faultq.filter fun q => q.core == core && q.live && q.ofGroups gs

/-- Teams of a list of groups. -/
def State.teamsOf (s : State) (gs : List Group) : List Team := s.teams.filter fun t => gs.any fun g => g.team == t.num

/-- Bytes of the image: the header, registers and scratchpads, and what the device adds for the rest, which is open. -/
def State.imageSize (s : State) (gs : List Group) : Nat :=
  64 + (gs.map fun g => regStorage g.gw g.nreg).sum + ((s.teamsOf gs).map (·.size)).sum +
    (Config.free 19 s.tick 190000).toNat

/-- The saved context of a core's site. -/
def State.image? (s : State) (core : Nat) : Option Image := s.images.find? fun i => i.core == core

/-- R315 step 1. Groups that have ended, of which their team keeps something, are none that the world has on the core. -/
def State.swapRefused (s : State) (core w : Nat) : Bool :=
  let gs := s.partition core w
  (s.image? core).isSome || gs.all (fun g => 512 ≤ g.slot) || (s.easelOf core gs).any (·.delivered.isSome) ||
    (s.faultsOf core gs).any (·.delivered.isSome) || 65536 * s.shadowLen (s.siteOf core) < s.imageSize gs

/-- R315: save a world's U groups of the core. The cohort freezes them, and goes on once their image is saved. -/
def execSwapout (a : Sel) (s : State) : Out :=
  onGroup s fun g =>
    atLevel s g .s <| withS s g 0 a fun x =>
      match swapWorld g x with
      | none => raiseCohort s g (.plain .svcBad)
      | some w =>
        match s.swaps.find? fun j => j.core == g.core && j.slot == g.slot && j.world.toNat == w with
        | some j =>
          if j.done then .next ({ s with swaps := s.swaps.erase j }.putGroup (movePast s g)) else notReady s
        | none =>
          if s.swaps.any fun j => j.core == g.core && !j.done then notReady s
          else if s.swapRefused g.core w then raiseCohort s g (.plain .swapState)
          else
            let job : SwapJob :=
              { core := g.core, slot := g.slot, world := BitVec.ofNat 6 w, byF := g.priv == .f,
                size := s.imageSize (s.partition g.core w), done := false }
            let fr (h : Group) : Group :=
              if h.core == g.core && h.priv == .u && h.world.toNat == w then
                (if g.priv == .f then { h with fzF := true } else { h with fzS := true })
              else h
            .next { s with groups := s.groups.map fr, swaps := s.swaps ++ [job] }

/-- Must the swap-out wait for a network command that the engine has taken (R293)? -/
def NCmd.landsHere (c : NCmd) : Bool :=
  let win := bits (netLocal c.desc) 63 56
  c.taken && (win == 0xF0 || win == 0xF1 || bits c.comp 63 62 == 1)

/-- Has everything that the swap-out waits for ended (R217, R275, R285, R293)? -/
def State.drained (s : State) (gs : List Group) : Bool :=
  let mine (p : Poster) : Bool := gs.any fun g => g.core == p.core && g.team == p.team
  !gs.any s.inFlight && !s.mcmds.any (fun c => mine c.by_ && c.running) && !s.ccmds.any (fun c => mine c.by_ && c.flying) &&
    !s.ncmds.any fun c => mine c.by_ && c.landsHere

/-- The save of a context reads everything that its groups hold, and their scratchpads (R103, R206). -/
def State.meetContext (s : State) (core w : Nat) : State :=
  let gs := s.partition core w
  let here (k : Nat) : Bool := (s.teamsOf gs).any fun t => spadKey core t.base ≤ k && k < spadKey core (t.base + t.size)
  let hurt := s.errs.filterMap fun m => match m.place with
    | .byte k => if here k then some k else none
    | _ => none
  let s1 := match gs with
    | g :: _ => s.meetErrors (g.poster 0) hurt
    | [] => s
  gs.foldl (fun u g => u.meetRegs (g.poster 0) fun e => placeInSlot e core g.slot (g.slot + 1) != e) s1

/-- The header of an image (R314). -/
def Image.header (i : Image) : Nat :=
  i.world.toNat + at_ i.saverF.toNat 8 + at_ (i.groups.filter fun g => g.slot < 512).length 48 + at_ i.split 64 +
    at_ (i.size % 2 ^ 32) 96 + at_ i.tsave 128 + at_ 1 511

/-- The first byte reserved for a context at a core's site. -/
def State.shadowKey (s : State) (core : Nat) : Nat :=
  vaultKey (vaultOff (s.siteOf core) (65536 * (128 - s.shadowLen (s.siteOf core))))

/-- The image is written to shadow storage. Its bytes beyond the header are device-defined, and no access of any group, engine
or agent reaches them (R314); the model holds the image itself. -/
def State.storeImage (s : State) (i : Image) : State :=
  { s with images := i :: s.images, mem := memFill s.mem (s.shadowKey i.core) (toBytes i.header 64) }

/-- R315 steps 4 and 5: the image is written and the groups' storage released. -/
def execSwapoutDrainDone (core : Nat) (s0 : State) : Out :=
  match s0.swaps.find? fun j => j.core == core && !j.done with
  | none => notReady s0
  | some j =>
    if !s0.drained (s0.partition core j.world.toNat) then notReady s0
    else
      let s := s0.meetContext core j.world.toNat
      let gs := s.partition core j.world.toNat
      let mine (p : Poster) : Bool := gs.any fun g => g.core == p.core && g.team == p.team
      let logged (e : LogEnt) : Bool := e.core == core && gs.any fun g => g.slot == e.slot
      let teams := s.teamsOf gs
      let inTeam (k : Nat) : Bool := teams.any fun t => spadKey core t.base ≤ k && k < spadKey core (t.base + t.size)
      let waitM := s.mcmds.filter fun c => mine c.by_
      let waitN (c : NCmd) : Bool := mine c.by_ && !c.taken
      let img : Image :=
        { core := core, size := j.size, world := j.world, saverF := j.byF, split := (s.core core).split, tsave := s.time.toNat, groups := gs
          teams := teams
          spads := s.mem.filter fun c => inTeam c.1
          poison := s.poisoned.filter fun h => inTeam (64 * h)
          mcmds := waitM.map fun c => { c with drawn := false }
          joints := s.joints.filter fun c => mine c.by_
          ccmds := s.ccmds.filter fun c => mine c.by_
          ncmds := s.ncmds.filter waitN
          slog := s.slog.filter logged
          easel := s.easelOf core gs
          faultq := s.faultsOf core gs }
      let tokens := ((waitM.filter (·.drawn)).map fun c => c.parts.length).sum
      let s1 := teams.foldl (fun u t => u.clearSpad core t.base t.size) s
      let s2 := { s1.storeImage img with
        groups := s1.groups.filter fun g => !gs.contains g
        teams := s1.teams.filter fun t => !teams.contains t
        mcmds := s1.mcmds.filter fun c => !mine c.by_
        joints := s1.joints.filter fun c => !mine c.by_
        ccmds := s1.ccmds.filter fun c => !mine c.by_
        ncmds := s1.ncmds.filter fun c => !waitN c
        slog := s1.slog.filter fun e => !logged e
        tokq := s1.tokq.filter fun r => !(r.core == core && gs.any fun g => g.slot == r.slot)
        easel := s1.easel.map fun q => if img.easel.contains q then { q with live := false } else q
        faultq := s1.faultq.map fun q => if img.faultq.contains q then { q with live := false } else q
        l1 := s1.l1.filter fun l => !(l.core == core && l.world == j.world)
        swaps := s1.swaps.filterMap fun k => if k != j then some k else if j.slot == 512 then none else some { j with done := true } }
      .next (s2.returnTokens (s.dieOf core) tokens)

/-! ## swapin (R316) -/

/-- The core with the split that an image was saved with, where no U team is resident; L1 keeps what that leaves it (R193). -/
def State.withSplit (s : State) (core n : Nat) : State :=
  if (s.uTeams core).isEmpty then
    let c := s.core core
    (s.setCore { c with split := n }).fitL1 core
  else s

/-- Where the saved teams go in the core's scratchpad, which must have the split they were saved with. -/
def State.fixedBases (s : State) (core n : Nat) (ts : List Team) : Option (List Nat) :=
  if (s.core core).split != n then none
  else
    (ts.foldl (fun (o : Option (List (Nat × Nat) × List Nat)) t =>
      match o with
      | none => none
      | some (used, bs) =>
        let free (b : Nat) : Bool := b + t.size ≤ 262144 * n && used.all fun u => u.1 + u.2 ≤ b || b + t.size ≤ u.1
        match (0 :: used.map fun u => u.1 + u.2).find? free with
        | some b => some ((b, t.size) :: used, bs ++ [b])
        | none => none) (some ((s.uTeams core).map fun t => (t.base, t.size), []))).map (·.2)

/-- Can the core take an image back (R316)? -/
def State.takesBack (s : State) (core : Nat) (i : Image) : Bool :=
  s.storageUsed core false + (i.groups.map fun g => regStorage g.gw g.nreg).sum ≤ 458752 &&
    s.coreThreads core + (i.groups.map (·.gw)).sum ≤ Config.maxThreads &&
    (s.uTeams core).length + i.teams.length ≤ 4 && (i.groups.filter fun g => g.slot < 512).length ≤ (s.freeSlots core).length &&
    i.easel.length ≤ s.easelFree core && !(s.servicesOn core i.world.toNat).isEmpty

/-- A slot after its renumbering. -/
def renumber (m : List (Nat × Nat)) (n : Nat) : Nat :=
  match m.find? fun p => p.1 == n with
  | some p => p.2
  | none => n

/-- A poster's group under its new slot. -/
def Poster.moved (p : Poster) (m : List (Nat × Nat)) : Poster := { p with slot := renumber m p.slot }

/-- A thread with its records under their new slots. -/
def Thread.moved (t : Thread) (em fm : List (Nat × Nat)) : Thread :=
  { t with
    logRec := t.logRec.map (renumber fm)
    st := match t.st with
      | .parkedFault n => .parkedFault (renumber fm n)
      | .parkedEasel n b => .parkedEasel (renumber em n) b
      | x => x }

/-- A clock moved by the time spent in the image. -/
def laterClock (d : Nat) (o : Option Nat) : Option Nat := o.map (· + d)

/-- A team back on its core, its clocks moved by the time it was away (R406). -/
def Team.moved (t : Team) (base d : Nat) : Team :=
  { t with
    base := base
    tbSince := laterClock d t.tbSince
    cbSince := laterClock d t.cbSince
    cbs := t.cbs.map fun b => { b with since := laterClock d b.since }
    nbs := t.nbs.map fun b => { b with since := laterClock d b.since } }

/-- Groups take new slots one by one; one that had ended holds none (R294). -/
def State.slotsFor (s : State) (core : Nat) : List Group → List (Nat × Nat)
  | [] => []
  | g :: gs =>
    let n := if g.slot < 512 then s.slotFor core else g.slot
    (g.slot, n) :: ({ s with groups := { g with slot := n } :: s.groups } : State).slotsFor core gs

/-- Records enter the easel as the device's, in saved order. -/
def State.restoreEasel (s : State) (core : Nat) (gm : List (Nat × Nat)) : List EaselSlot → State × List (Nat × Nat)
  | [] => (s, [])
  | q :: qs =>
    let (u, n) := s.putEasel core false q.batch q.owner { q.body with gslot := renumber gm q.body.gslot }
    let mark (x : EaselSlot) : EaselSlot := if x.core == core && x.slot == n then { x with answered := q.answered } else x
    let u1 := { u with easel := u.easel.map mark }
    let (v, m) := u1.restoreEasel core gm qs
    (v, (q.slot, n) :: m)

/-- Fault records enter the queue, in saved order. -/
def State.restoreFaults (s : State) (core : Nat) (gm : List (Nat × Nat)) : List FaultSlot → State × List (Nat × Nat)
  | [] => (s, [])
  | q :: qs =>
    let n := s.freeFaultSlot core
    let (v, m) := (s.postFault core { q.body with gslot := renumber gm q.body.gslot }).restoreFaults core gm qs
    (v, (q.slot, n) :: m)

/-- Insert a saved easel record by age. -/
def insertEasel (x : EaselSlot) : List EaselSlot → List EaselSlot
  | [] => [x]
  | y :: ys => if x.seq < y.seq then x :: y :: ys else y :: insertEasel x ys

/-- Insert a saved fault record by age. -/
def insertFault (x : FaultSlot) : List FaultSlot → List FaultSlot
  | [] => [x]
  | y :: ys => if x.seq < y.seq then x :: y :: ys else y :: insertFault x ys

/-- A copy command of an image back on its core: keys of its team's scratchpad move with it. -/
def CCmd.moved (c : CCmd) (gm : List (Nat × Nat)) (key : Nat → Nat) : CCmd :=
  { c with by_ := c.by_.moved gm, dirty := c.dirty.map key }

/-- A record that waits at its source for a group that takes a new slot, which no resident group has (R316). -/
def State.movedRec (s : State) (core : Nat) (i : Image) (gm : List (Nat × Nat)) (q : Nat × EaselRec) : Nat × EaselRec :=
  let r := q.2
  let ours := i.groups.any fun g => g.slot == r.gslot && g.world == r.world && g.ginst == r.ginst
  if q.1 == core && r.hasPoster && ours && (s.group? core r.gslot).isNone then
    (q.1, { r with gslot := renumber gm r.gslot })
  else q

/-- The image goes back to its core; a solo command runs on the array of the quarter that its group then has, and the parts of a
joint one stay on four arrays (R261). Commands and records that did not wait in the image follow their group to its new
slot. The saved entries join their queues also beyond the capacities of R257 (log entry 99). -/
def State.restore (s : State) (core : Nat) (i : Image) (bases : List Nat) : State :=
  let gm := s.slotsFor core i.groups
  let (s1, em) := s.restoreEasel core gm (i.easel.foldl (fun a x => insertEasel x a) [])
  let (s2, fm) := s1.restoreFaults core gm (i.faultq.foldl (fun a x => insertFault x a) [])
  let joint (g : Group) : Bool := match s.launch? g.lq.toNat g.lseq.toNat with
    | some l => kdJoint l.kd
    | none => false
  let back (k : Nat) (g : Group) : Group :=
    { (g.mapThreads fun t => t.moved em fm) with
      slot := renumber gm g.slot, seated := s.fresh
      quarter := if joint g then g.gid % 4 else (Config.free 2 s.tick (191000 + k)).toNat
      fzC := g.fzC || s.cancelled g.world.toNat g.ginst.toNat }
  let groups := (List.range i.groups.length).filterMap fun k => (i.groups[k]?).map (back k)
  let d := s.time.toNat - i.tsave
  let pairs := i.teams.zip bases
  let moveKey (k : Nat) : Nat :=
    match pairs.find? fun p => spadKey core p.1.base ≤ k && k < spadKey core (p.1.base + p.1.size) with
    | some p => k + p.2 - p.1.base
    | none => k
  let quarter (slot qi : Nat) : Nat := ((groups.find? fun g => g.slot == slot).map (·.quarter)).getD qi
  let parts (joint : Bool) (l : List (Nat × Nat × Nat × Nat)) : List (Nat × Nat × Nat × Nat) :=
    l.map fun q => (if joint then q.1 else quarter (renumber gm q.2.1) q.1, renumber gm q.2.1, q.2.2)
  let ours (p : Poster) : Bool := p.core == core && i.teams.any fun t => t.num == p.team
  let s3 := pairs.foldl (fun u p => u.clearSpad core p.2 p.1.size) s2
  { s3 with
    groups := s3.groups ++ groups
    teams := s3.teams ++ pairs.map fun p => p.1.moved p.2 d
    mem := memSet (i.spads.foldl (fun m c => memSet m (moveKey c.1) c.2) s3.mem) (s.shadowKey core + 63) 0
    poisoned := (i.poison.map fun h => moveKey (64 * h) / 64) ++ s3.poisoned
    mcmds := s3.mcmds ++ i.mcmds.map fun c =>
      { c with by_ := c.by_.moved gm, parts := parts (1 < c.parts.length) c.parts, dirty := c.dirty.map moveKey }
    joints := s3.joints ++ i.joints.map fun c => { c with by_ := c.by_.moved gm, parts := parts true c.parts }
    ccmds := s3.ccmds ++ i.ccmds.map fun c => c.moved gm moveKey
    ncmds := (s3.ncmds.map fun c => if ours c.by_ then { c with by_ := c.by_.moved gm } else c) ++
      i.ncmds.map fun c => { c with by_ := c.by_.moved gm }
    ringq := s3.ringq.map fun c => if ours c.by_ then { c with by_ := c.by_.moved gm } else c
    pending := s3.pending.map (s3.movedRec core i gm)
    slog := s3.slog ++ i.slog.map fun e => { e with slot := renumber gm e.slot }
    images := s3.images.filter fun x => x.core != core
    l1 := s3.l1.filter fun l => !(l.core == core && l.world == i.world) }

/-- R316: restore the image of a world to the executing core; its groups stay frozen. -/
def execSwapin (a : Sel) (s : State) : Out :=
  onGroup s fun g =>
    atLevel s g .s <| withS s g 0 a fun x =>
      match swapWorld g x with
      | none => raiseCohort s g (.plain .svcBad)
      | some w =>
        let refuse := raiseCohort s g (.plain .swapState)
        match s.image? g.core with
        | none => refuse
        | some i =>
          let s1 := (s.putGroup (movePast s g)).withSplit g.core i.split
          if i.world.toNat != w || !s1.takesBack g.core i then refuse
          else match s1.fixedBases g.core i.split i.teams with
            | none => refuse
            | some bases => .next (s1.restore g.core i bases)

end Sys2Proof.Machine
end

