-- ==== Sys2Proof/Machine/Tables.lean ====
section
/-! DEFINITION. Translation and ownership tables, keys, hotness lists, snapshots and clock plans: `tlb.inv`, `tlb.probe`, the TBL
instructions, and patrol (R206, R207, R366 to R375, R387 to R394). -/

namespace Sys2Proof.Machine

/-! ## tlb.inv and tlb.probe (R368) -/

/-- What `tlb.inv` selects: TLB entries and walks, and the worlds whose L1 lines go. -/
structure InvSel where
  entry : Tlb → Bool
  walk  : Walk → Bool
  world : BitVec 6 → Bool

/-- The selection that sA names, or none for SVC_BAD. -/
def State.invSel (s : State) (g : Group) (x : DWord) : Option InvSel :=
  let asid : BitVec 13 := x.extractLsb' 48 13
  let own (w : Nat) : Bool := g.priv == .f || w == g.world.toNat
  let w := s.asidWorld asid.toNat
  let ofAsid (o : Option (BitVec 13)) : Bool := o == some asid
  match bits x 63 62 with
  | 0 =>
    let v := bits x 43 0
    let sup := bitAt x 61
    if bits x 47 44 != 0 || !own w then none
    else some
      { entry := fun t => t.world.toNat == w && (t.asid.isNone || (t.sup == sup && t.vpn ≤ v && v < t.vpn + t.pages && ofAsid t.asid))
        walk := fun t => t.world.toNat == w && t.sup == sup && t.vpn == v && t.asid == asid
        world := fun u => u.toNat == w }
  | 1 =>
    if bits x 47 44 != 0 || !own w then none
    else some
      { entry := fun t => t.world.toNat == w && t.asid == some asid
        walk := fun t => t.world.toNat == w && t.asid == asid
        world := fun u => u.toNat == w }
  | 2 =>
    if bits x 61 6 != 0 || !own (bits x 5 0) then none
    else some
      { entry := fun t => t.world.toNat == bits x 5 0, walk := fun t => t.world.toNat == bits x 5 0
        world := fun u => u.toNat == bits x 5 0 }
  | _ =>
    if bits x 47 44 != 0 || g.priv != .f then none
    else some { entry := fun _ => true, walk := fun _ => true, world := fun _ => true }

/-- Is a core in the scope of an instruction of a core: 3 `.core`, 5 `.die`, else `.dev`? -/
def State.inScope (s : State) (core scope c : Nat) : Bool :=
  if scope == 3 then c == core else if scope == 5 then s.dieOf c == s.dieOf core else true

/-- R368: remove translations and L1 lines; walks they match start again. It waits for the stores of the whole group. -/
def execTlbInv (sc a : Sel) (s : State) : Out :=
  onGroup s fun g =>
    atLevel s g .s <| withS s g 0 a fun x =>
      match s.invSel g x with
      | none => raiseCohort s g (.plain .svcBad)
      | some q =>
        if !s.rdy || g.threads.any (fun t => s.logPending g t.lane) then notReady s
        else
          let here (c : Nat) : Bool := s.inScope g.core sc.toNat c
          let s1 := s.putGroup (movePast s g)
          .next { s1 with
            tlbs := s1.tlbs.filter fun t => !(here t.core && q.entry t)
            walks := s1.walks.filter fun w => !(here w.core && q.walk w)
            l1 := s1.l1.filter fun l => !(here l.core && q.world l.world) }

/-- What a probe of an address comes to. -/
inductive Probe where
  | word (v : DWord)
  | miss (sup : Bool) (vpn : Nat)
  deriving DecidableEq, Repr

/-- The result word of a probe that fails with a code. -/
def probeCode (n : Nat) : Probe := .word (BitVec.ofNat 64 (at_ n 56))

/-- Probe an address of a translated window. -/
def State.probePage (s : State) (p : Poster) (sup : Bool) (vpn : Nat) : Probe :=
  match s.translate p sup vpn .load with
  | .miss => .miss sup vpn
  | .fault c => probeCode c.code
  | .page ppn =>
    match s.tlbFor p sup vpn with
    | none => .miss sup vpn
    | some t =>
      .word (BitVec.ofNat 64 (at_ t.r.toNat 4 + at_ t.w.toNat 5 + at_ t.x.toNat 6 + at_ t.u.toNat 7 +
        at_ (s.frameCls (ppn / 1024)).code 8 + at_ t.sz 10 + at_ t.ppn 12))

/-- Probe an address (R368). The queue window and the windows that are not translated give 0xFF. -/
def State.probe (s : State) (p : Poster) (a : DWord) : Probe :=
  let off := bits a 55 0
  match bits a 63 56 with
  | 0x00 => s.probePage p false (off / 4096)
  | 0x01 => if 2 ^ 56 - 2 ^ 24 ≤ off then probeCode 0xFF else s.probePage p true (off / 4096)
  | 0xF0 | 0xF1 | 0xF2 | 0xFE => probeCode 0xFF
  | 0xF4 =>
    match s.group? p.core p.slot with
    | none => probeCode FaultCode.aperture.code
    | some g =>
      let size := 1024 * 2 ^ g.stkSzc.toNat
      let back := g.stkBase.toNat * 4096 + p.lane * size + off
      if size ≤ off || 2 ^ 56 ≤ back then probeCode FaultCode.aperture.code else s.probePage p false (back / 4096)
  | _ => probeCode FaultCode.aperture.code

/-- The walks that the cohort's probes lack. -/
def State.probeMisses (s : State) (g : Group) (a : Sel) : List (Poster × Plan) :=
  (g.inMask s.cur.lanes).filterMap fun t =>
    let v := vsource s.tick g t true a
    if v.poison || !v.wait.isEmpty then none
    else match s.probe (g.poster t.lane) (v.val.setWidth 64) with
      | .miss sup n => some (g.poster t.lane, .walk sup [n])
      | .word _ => none

/-- R368: how each thread's address translates. -/
def execTlbProbe (d a : Sel) (s : State) : Out :=
  onGroup s fun g0 => withRegs s g0 [(d, 2), (a, 2)] <|
    let misses := if g0.priv == .u then [] else s.probeMisses g0 a
    if g0.priv != .u && !s.rdy then notReady s
    else if !misses.isEmpty then startWalks s .load misses
    else supIssue s [(d, 2), (a, 2)] (fun _ _ => Val.const 0) (fun g t => [vsource s.tick g t true a]) (fun _ t => t)
      (fun u g t _ vs =>
        let v := vs.headD (Val.const 0)
        let w : DWord := match s.probe (g.poster t.lane) (v.val.setWidth 64) with
          | .word x => x
          | .miss _ _ => Config.free 64 s.tick (195000 + t.lane)
        let r : Val := { val := w.setWidth 128, taint := v.taint, poison := false, wait := [] }
        let u1 := u.mapLanes g.core g.slot (1#64 <<< t.lane) fun x => pushVal (writeDst x .w64 d r) .w64 r
        match u1.group? g.core g.slot with
        | some h => .ok (u1.putGroup (h.dirtyRegs t.lane .w64 d))
        | none => .ok u1) fun u => u.dropWalks (g0.poster 0)

/-! ## The mould of the TBL instructions (R369) -/

/-- A TBL instruction: its level and operands, then a release at `.dev`. `rdy` for those that wait for RDY (R357). -/
def tblIssue (s : State) (lvl : Priv) (rdy : Bool) (a b : Sel) (k : Group → DWord → DWord → Out) : Out :=
  onGroup s fun g =>
    atLevel s g lvl <| withS s g 0 a fun x => withS s g 1 b fun y =>
      if rdy && !s.rdy then notReady s else releasing s g (k g x y)

/-- The result in sD, and an acquire at `.dev`. -/
def tblAnswer (s : State) (d : Sel) (v : Nat) (u : State) : Out :=
  match u.group? s.cur.core s.cur.slot with
  | some g =>
    .next ((u.putGroup (movePast s (g.setScalar d { val := BitVec.ofNat 64 v, taint := false, poison := false }))).acquire g.core 6)
  | none => notReady s

/-- The result word of a failure with a count. -/
def tblStatus (n count : Nat) : Nat := 2 ^ 63 + at_ count 16 + n

/-! ## Pages and frames (R370 to R372) -/

/-- Does a state of a page glaze it: owned, shared-read-only or firmware (R355)? -/
def glazes (st : Nat) : Bool := st == 1 || st == 2 || st == 4

/-- Count a page of a state out of its world, or into it. -/
def State.countPage (s : State) (st w : Nat) (inn : Bool) : State :=
  let step (n : Nat) : Nat := if inn then n + 1 else n - 1
  if glazes st then s.setGlz w (step (s.glz w)) else if st == 3 then s.setMetaPages w (step (s.metaPages w)) else s

/-- A page is freed: no core translates to it any more, its lines are gone, and snapshots lose what it bound (R370, R390). -/
def State.freePage (s : State) (page : Nat) : State :=
  let inPage (k : Nat) : Bool := isMain k && pageOf k == page
  let lines (n : Snap) : List Nat := n.pages.flatMap fun p => (List.range 32).map fun l => p.1 * 32 + l
  let snap (n : Snap) : Snap :=
    if (n.pages.any fun p => p.2 == page) || n.bits.contains page then
      { n with lost := lines n ++ n.lost, pages := n.pages.filter fun p => p.2 != page }
    else if n.pages.any fun p => p.1 == page then
      let ls := (List.range 32).map fun l => page * 32 + l
      { n with lost := ls.filter (fun l => !n.kept.contains l) ++ n.lost, kept := ls ++ n.kept }
    else n
  let s1 := s.potSet page (BitVec.ofNat 16 (at_ 1 12))
  { s1 with
    tlbs := s1.tlbs.filter fun t => !(t.ppn ≤ page && page < t.ppn + t.pages)
    l1 := s1.l1.filter fun l => !inPage (128 * l.line)
    seen := s1.seen.filter fun k => !inPage k
    raw := s1.raw.filter fun p => p != page
    snaps := s1.snaps.map snap }

/-- TLB entries that cover a page go (R370). -/
def State.shootdown (s : State) (page : Nat) : State :=
  { s with tlbs := s.tlbs.filter fun t => !(t.ppn ≤ page && page < t.ppn + t.pages) }

/-- The outcome of `pot.set` for a page and its new entry: the state after it, or a status (R370). -/
def State.potChange (s : State) (page : Nat) (e : BitVec 16) : Except Nat State :=
  let old := s.potGet page
  let a := potState old
  let b := potState e
  let w := potWorld old
  let same := potWorld e == w
  let keepNs : BitVec 16 := BitVec.ofNat 16 (at_ b 13 + at_ (bits old 12 12) 12 + potWorld e)
  if b == 0 && potWorld e == 0 then
    if a == 0 then .ok s
    else if a == 3 then
      (if 8 * (s.metaPages w - 1) < s.glz w then .error 4 else .ok ((s.countPage 3 w false).freePage page))
    else if glazes a then .ok ((s.countPage a w false).freePage page)
    else .error 5
  else if a == 1 && b == 2 && same then .ok ((s.potSet page keepNs).shootdown page)
  else if a == 2 && b == 1 && same then .ok (s.potSet page keepNs)
  else .error 5

/-- R370: change a page's entry. -/
def execPotSet (d a b : Sel) (s : State) : Out :=
  tblIssue s .f true a b fun _ x y =>
    let page := bits x 39 12
    if bits x 63 40 != 0 || bits y 63 16 != 0 || bits y 11 6 != 0 then tblAnswer s d (tblStatus 1 0) s
    else if !s.slotExists page then tblAnswer s d (tblStatus 6 0) s
    else match s.potChange page (y.setWidth 16) with
      | .ok u => tblAnswer s d 0 u
      | .error n => tblAnswer s d (tblStatus n 0) s

/-- R370: read a page's entry. -/
def execPotGet (d a : Sel) (s : State) : Out :=
  tblIssue s .f true a 0x3E fun _ x _ =>
    let page := bits x 39 12
    if bits x 63 40 != 0 then tblAnswer s d (tblStatus 1 0) s
    else if !s.slotExists page then tblAnswer s d (tblStatus 6 0) s
    else tblAnswer s d (s.potGet page).toNat s

/-- Bytes, poison and errors of a page are written anew as zero (R371). -/
def State.scrub (s : State) (page : Nat) : State :=
  let lo := mainKey (page * 4096)
  { s with
    mem := memDrop s.mem lo (lo + 4096)
    poisoned := s.poisoned.filter fun h => !(lo ≤ h * 64 && h * 64 < lo + 4096)
    seen := s.seen.filter fun k => !(lo ≤ k && k < lo + 4096)
    raw := s.raw.filter fun p => p != page
    errs := s.errs.filter fun m => match m.place with
      | .byte k => !(lo ≤ k && k < lo + 4096)
      | _ => true }

/-- `gesso` over pages in ascending order: the state, how many were assigned, and the status that ended it (R371). -/
def State.gessoPages (s : State) (st w : Nat) : List Nat → Nat → State × Nat × Option Nat
  | [], n => (s, n, none)
  | p :: ps, n =>
    if !s.slotExists p then (s, n, some 6)
    else if potState (s.potGet p) != 0 then (s, n, some 5)
    else if glazes st && 8 * s.metaPages w < s.glz w + 1 then (s, n, some 4)
    else
      ((((s.scrub p).potSet p (BitVec.ofNat 16 (at_ st 13 + w))).countPage st w true).countLine (mainKey (4096 * p)) 0x33 32).gessoPages st w ps (n + 1)

/-- R371: scrub and assign pages, once their stack is trained (R430). -/
def execGesso (d a b : Sel) (s : State) : Out :=
  tblIssue s .f true a b fun _ x y =>
    let p0 := bits x 39 12
    let n := bits x 63 54 + 1
    let w := bits y 5 0
    let st := bits y 10 8
    if bits x 53 40 != 0 || bits x 11 0 != 0 || bits y 63 11 != 0 || bits y 7 6 != 0 || st == 0 || 4 < st ||
        (st == 4 && w != 0) || p0 / 1024 != (p0 + n - 1) / 1024 then
      tblAnswer s d (tblStatus 1 0) s
    else if s.kstate w != 1 then tblAnswer s d (tblStatus 3 0) s
    else if !s.trainedPage p0 then notReady s
    else
      let (u, k, err) := s.gessoPages st w ((List.range n).map (p0 + ·)) 0
      tblAnswer s d (match err with
        | some e => tblStatus e k
        | none => at_ k 16) u

/-- R372: set a frame's class. -/
def execFrameCls (d a b : Sel) (s : State) : Out :=
  tblIssue s .f true a b fun _ x y =>
    let f := bits x 17 0
    let pages := (List.range 576).map (1024 * f + ·)
    if bits x 63 18 != 0 || bits y 63 2 != 0 || bits y 1 0 == 3 then tblAnswer s d (tblStatus 1 0) s
    else if pages.any fun p => potState (s.potGet p) != 0 then tblAnswer s d (tblStatus 2 0) s
    else
      let u := pages.foldl State.freePage s
      tblAnswer s d 0 (u.setDevWord (dev3 + 0x100000 + 4 * f) (BitVec.ofNat 32 (bits y 1 0)))

/-! ## Keys (R373) -/

/-- R373: draw or retire a memory key, or load a fabric domain key. -/
def execKeyNew (d a b : Sel) (s : State) : Out :=
  tblIssue s .f false a b fun g x y =>
    let w := bits x 5 0
    let fail (n : Nat) : Out := tblAnswer s d (tblStatus n 0) s
    if bits x 61 6 != 0 || y.toNat % 32 != 0 then fail 1
    else match bits x 63 62 with
      | 0 => if s.kstate w == 1 || s.glz w != 0 || s.metaPages w != 0 then fail 2 else tblAnswer s d 0 (s.setKstate w 1)
      | 1 => if s.kstate w == 1 then tblAnswer s d 0 (s.retireKey w) else fail 5
      | 2 =>
        if s.domState w == 1 || s.domState w == 2 then fail 2
        else commandLoad s g y (ssource g b).taint 32 32 fun u _ =>
          let o := domOff w
          let epoch := bits (u.devGet (o + 8)) 39 32 + 1
          tblAnswer s d 0 ((u.devSet (o + 8) (setBits (u.devGet (o + 8)) 39 32 epoch)).devSet (o + 40) 0)
      | _ => fail 1

/-! ## Hotness (R374, R375) -/

/-- What a controller has counted. -/
def hotOf (l : List HotCtl) (n : Nat) : HotCtl :=
  (l.find? fun c => c.n == n).getD { n := n, sketch := [], cand := [], pub := [], last := 0 }

/-- What a controller of the device has counted. -/
def State.hotCtl (s : State) (n : Nat) : HotCtl := hotOf s.hot n

/-- Replace what a controller has counted. -/
def hotPut (l : List HotCtl) (c : HotCtl) : List HotCtl := c :: l.filter fun x => x.n != c.n

/-- Replace what a controller of the device has counted. -/
def State.setHot (s : State) (c : HotCtl) : State := { s with hot := hotPut s.hot c }

/-- The candidate of least estimate, of the highest page number among equals. -/
def leastHot : List (Nat × Nat) → Option (Nat × Nat)
  | [] => none
  | e :: r => match leastHot r with
    | none => some e
    | some m => if e.2 < m.2 || (e.2 == m.2 && m.1 < e.1) then some e else some m

/-- A request for a page of a world is counted (R374). -/
def HotCtl.count (c : HotCtl) (w p : Nat) : HotCtl :=
  let at_ (r : Nat) : Nat := 4096 * r + Config.hotHash r p % 4096
  let sketch := (List.range 4).foldl (fun m r => mapSet 0 m (at_ r) (mapGet 0 m (at_ r) + 1)) c.sketch
  let est := ((List.range 4).map fun r => mapGet 0 sketch (at_ r)).min?.getD 0
  let l := mapGet [] c.cand w
  let l1 := if l.any fun e => e.1 == p then l.map fun e => if e.1 == p then (p, est) else e
    else if l.length < 64 then (p, est) :: l
    else match leastHot l with
      | some m => if m.2 < est then (p, est) :: l.erase m else l
      | none => l
  { c with sketch := sketch, cand := mapSet [] c.cand w l1 }

/-- Requests that L2 slices send to the memory controllers in a step. Which they are depends on what L2 holds and fetches and
is open, but for the pages that a controller serves, metadata excepted (R203, R374, log entry 94). -/
def State.hotRequests (s : State) : State :=
  let hot := (List.range 16).foldl (fun u n =>
    if !bitAt (s.devGet (dev3 + 0x800 + 8 * n)) 8 then u
    else (List.range (Config.free 8 s.tick (200000 + n)).toNat).foldl (fun v i =>
      let x := (Config.free 24 s.tick (210000 + 256 * n + i)).toNat
      let page := 1024 * (32768 * (n / 2) + x % 32768) + 2 * (x / 32768) + n % 2
      if s.slotExists page && potState (s.potGet page) != 3 then hotPut v ((hotOf v n).count (potWorld (s.potGet page)) page) else v) u) s.hot
  { s with hot := hot }

/-- R374: a controller's interval ends: its candidates are published, and sketch and candidates cleared. -/
def execHotnessIntervalEnd (n : Nat) (s : State) : Out :=
  let ctl := s.devGet (dev3 + 0x800 + 8 * n)
  let c := s.hotCtl n
  if 16 ≤ n || s.phase != .running || s.time.toNat < c.last + 64000 * 2 ^ bits ctl 3 0 then notReady s
  else .next (s.setHot { c with sketch := [], cand := [], pub := c.cand, last := s.time.toNat })

/-- Insert an entry into a list as it is read: descending EST, then ascending PPN. -/
def insertHot (e : Nat × Nat) : List (Nat × Nat) → List (Nat × Nat)
  | [] => [e]
  | f :: r => if f.1 < e.1 || (f.1 == e.1 && e.2 < f.2) then e :: f :: r else f :: insertHot e r

/-- The published list of a controller for a world: EST and PPN. For S a page that has come to belong to another world since is
left out (R375, log entry 94). -/
def State.hotList (s : State) (n w : Nat) (all : Bool) : List (Nat × Nat) :=
  let mine (p : Nat) : Bool := all || potState (s.potGet p) == 0 || potWorld (s.potGet p) == w
  ((mapGet [] (s.hotCtl n).pub w).filter fun e => mine e.1).foldl (fun l e => insertHot (min e.2 (2 ^ 24 - 1), e.1) l) []

/-- The stores of `hot.rd`, one by one: the state after them, or what stops them. -/
def storeHot (s : State) (p : Poster) (a : DWord) : List (Nat × Nat) → Except Plan State
  | [] => .ok s
  | e :: r =>
    match s.planWhere .store a 8 (s.resolve p a 8 .store) with
    | .go w => storeHot (s.writeAt p (toBytes (at_ e.2 12 + at_ e.1 40) 8) w) p (a + 8#64) r
    | pl => .error pl

/-- R375: copy a published list to memory. Its stores never enter the side log; a fault parks the cohort and the
instruction starts again. -/
def execHotRd (d a b : Sel) (s : State) : Out :=
  tblIssue s .s true a b fun g x y =>
    let w := if g.priv == .f then bits y 13 8 else g.world.toNat
    if bits y 63 14 != 0 || bits y 7 4 != 0 || (g.priv != .f && bits y 13 8 != 0) then tblAnswer s d (tblStatus 1 0) s
    else
      let l := s.hotList (bits y 3 0) w (g.priv == .f)
      let p := g.poster (leadOf s g).1
      let bad := (List.range l.length).find? fun i => 1 < bits (x + BitVec.ofNat 64 (8 * i)) 63 56
      match bad with
      | some i =>
        raiseCohort s g { code := .aperture, acc := 2, addr := x + BitVec.ofNat 64 (8 * i), addr2 := 0 }
      | none =>
        match storeHot s p x l with
        | .ok u => tblAnswer s d l.length u
        | .error (.fault i) => .next ((raiseMask s g s.cur.lanes { i with acc := 2 } s.cur.words).dropWalks p)
        | .error (.walk sup v) => startWalks s .store [(p, .walk sup v)]
        | .error _ => notReady s

/-! ## Varnish (R387 to R391) -/

/-- Pages of a region list: the virtual page addresses in order. -/
def regionPages (bs : List Byte) (n : Nat) : List DWord :=
  (List.range n).flatMap fun j =>
    let e : DWord := BitVec.ofNat 64 (leNat ((bs.drop (8 * j)).take 8))
    (List.range (bits e 11 0 + 1)).map fun i => BitVec.ofNat 64 (bits e 63 12 * 4096 + 4096 * i)

/-- A page of a snapshot for its issuer: the physical page, or what keeps it from being bound. -/
inductive SnapPage where
  | page (n : Nat)
  | bad
  | wait
  deriving DecidableEq, Repr

/-- Translate a page with R and W to one that the world owns (R389). -/
def State.snapPage (s : State) (p : Poster) (a : DWord) : SnapPage :=
  if 1 < bits a 63 56 then .bad
  else match s.resolveNow p a 1 .atomic with
    | .keys (k :: _) _ _ _ =>
      if !isMain k then .bad
      else
        let e := s.potGet (pageOf k)
        if (potState e == 1 && potWorld e == p.world.toNat) || (potState e == 4 && p.world == 0#6) then .page (pageOf k) else .bad
    | .wait => .wait
    | .walk _ _ => .wait
    | _ => .bad

/-- The walks for pages have been made, as far as their windows are translated (R362). -/
def State.walkPages (s : State) (p : Poster) (as : List DWord) : State :=
  as.foldl (fun u a => if 1 < bits a 63 56 then u else u.walksFor p a 1 .atomic) s

/-- Translate pages in order. -/
def State.snapPages (s : State) (p : Poster) : List DWord → Option (Except Unit (List Nat))
  | [] => some (.ok [])
  | a :: r =>
    match s.snapPage p a with
    | .bad => some (.error ())
    | .wait => none
    | .page n =>
      match s.snapPages p r with
      | some (.ok l) => some (.ok (n :: l))
      | x => x

/-- Stretches of bitmap bytes by page: page, first byte and end. -/
def bitStretch (pages : List Nat) (boff n : Nat) : List (Nat × Nat × Nat) :=
  (List.range pages.length).filterMap fun i =>
    (pages[i]?).map fun p => (p, if i == 0 then boff else 0, min 4096 (boff + n - 4096 * i))

/-- Do two lists of stretches share a byte? -/
def stretchesMeet (a b : List (Nat × Nat × Nat)) : Bool :=
  a.any fun x => b.any fun y => x.1 == y.1 && x.2.1 < y.2.2 && y.2.1 < x.2.2

/-- The stretches that a snapshot binds. -/
def Snap.stretches (n : Snap) : List (Nat × Nat × Nat) :=
  (n.pages.flatMap fun p => [(p.1, 0, 4096), (p.2, 0, 4096)]) ++ bitStretch n.bits n.boff (4 * n.pages.length)

/-- Does any stretch of a list meet a later one? -/
def anyMeet : List (Nat × Nat × Nat) → Bool
  | [] => false
  | x :: r => stretchesMeet [x] r || anyMeet r

/-- Handles that no snapshot holds. -/
def State.freeHandles (s : State) : List Nat := (List.range 16).filter fun n => !s.snaps.any fun x => x.handle == n

/-- Bind and activate a snapshot: the handle, or the status (R389 steps 3 to 5); nothing while a page waits. -/
def State.varnish (s : State) (p : Poster) (d : BitVec 512) (bs : List Byte) : Option (State × Except Nat Nat) :=
  let regions := regionPages bs (bits d 7 0 + 1)
  let n := regions.length
  let area : DWord := d.extractLsb' 64 64
  let bmap : DWord := d.extractLsb' 128 64
  let nb := (bmap.toNat % 4096 + 4 * n + 4095) / 4096
  let areas := (List.range n).map fun i => area + BitVec.ofNat 64 (4096 * i)
  let maps := (List.range nb).map fun i => BitVec.ofNat 64 (bmap.toNat / 4096 * 4096 + 4096 * i)
  let v := s.walkPages p (regions ++ areas ++ maps)
  if s.kstate p.world.toNat != 1 then some (s, .error 3)
  else if bits d 511 192 != 0 || bits d 11 8 != 0 || bmap.toNat % 128 != 0 || area.toNat % 4096 != 0 then some (s, .error 1)
  else match s.snapPages p regions, s.snapPages p areas, s.snapPages p maps with
    | some (.error _), _, _ => some (v, .error 1)
    | _, some (.error _), _ => some (v, .error 1)
    | _, _, some (.error _) => some (v, .error 1)
    | some (.ok rs), some (.ok as), some (.ok ms) =>
      let boff := bmap.toNat % 4096
      let free := s.freeHandles
      let h := free.getD (Config.pick s.tick free.length % free.length) 0
      let new : Snap := { handle := h, world := p.world, pages := rs.zip as, bits := ms, boff := boff, kept := [], lost := [] }
      if (as ++ ms).any fun q => s.frameCls (q / 1024) != .p then some (v, .error 1)
      else if anyMeet new.stretches || s.snaps.any fun x => stretchesMeet x.stretches new.stretches then some (v, .error 5)
      else if free.isEmpty then some (v, .error 2)
      else
        let ks := (List.range (4 * n)).map fun i => mainKey (ms.getD ((boff + i) / 4096) 0 * 4096 + (boff + i) % 4096)
        let u := v.agentWrite ks (List.replicate (4 * n) 0)
        some ({ u with snaps := new :: u.snaps }, .ok h)
    | _, _, _ => none

/-- R389: begin a snapshot. -/
def execVarnishBegin (d a : Sel) (s : State) : Out :=
  tblIssue s .s false a 0x3E fun g x _ =>
    commandLoad s g x (ssource g a).taint 64 64 fun u db =>
      let desc := word512 db
      commandLoad u g (BitVec.ofNat 64 (bits desc 63 12 * 4096)) (ssource g a).taint (8 * (bits desc 7 0 + 1)) 8 fun v bs =>
        match v.varnish (g.poster (leadOf s g).1) desc bs with
        | none => notReady s
        | some (w, .error n) => tblAnswer s d (tblStatus n 0) w
        | some (w, .ok h) => tblAnswer s d h w

/-- The area's bytes of the lines that a snapshot has not preserved. -/
def Snap.clearKeys (n : Snap) : List Nat :=
  n.pages.flatMap fun p => ((List.range 32).filter fun l => !n.kept.contains (p.1 * 32 + l)).flatMap fun l =>
    (List.range 128).map fun i => mainKey (p.2 * 4096 + 128 * l + i)

/-- R391: end a snapshot. Area reads return the stored bytes from then on; of lines that were not preserved a drain still under
way, a copy that was posted before, reads any value. -/
def execVarnishEnd (d a : Sel) (s : State) : Out :=
  tblIssue s .s false a 0x3E fun g x _ =>
    match s.snaps.find? fun n => n.handle == bits x 3 0 && n.world == g.world with
    | none => tblAnswer s d (tblStatus 1 0) s
    | some n =>
      if bits x 63 4 != 0 then tblAnswer s d (tblStatus 1 0) s
      else tblAnswer s d 0 { s with
          snaps := s.snaps.filter fun m => m.handle != n.handle
          ccmds := s.ccmds.map fun c => { c with dirty := n.clearKeys ++ c.dirty } }

/-! ## Clock plans (R392 to R394) -/

/-- The clocks of a combination, in quarters of a kHz: ACLK, FCLK, MCLK and the fixed ones (R393). -/
def planClocks (st : Int) (m : Nat) : List Nat :=
  let a := (400 + st).toNat
  [4 * 3500 * a, 4 * 2625 * a, 4 * (if m == 0 then 1600000 else if m == 1 then 1575000 else 1625000), 400000, 625000, 4000000]

/-- The bands in use, LO and HI in kHz. -/
def State.bands (s : State) : List (Nat × Nat) :=
  (List.range (bits (s.devGet (dev3 + 0x8100)) 4 0)).map fun k =>
    let b := s.devGet (dev3 + 0x8000 + 8 * k)
    (bits b 31 0, bits b 63 32)

/-- Does a combination clear the table? -/
def planClears (bs : List (Nat × Nat)) (st : Int) (m : Nat) : Bool :=
  (planClocks st m).all fun f => (List.range 8).all fun n =>
    bs.all fun b => !(4 * b.1 ≤ (n + 1) * f && (n + 1) * f ≤ 4 * b.2)

/-- The steps in the order of the search. -/
def planSteps : List Int := 0 :: (List.range 8).flatMap fun i => [((i + 1 : Nat) : Int), -((i + 1 : Nat) : Int)]

/-- The first combination that clears. -/
def planSearch (bs : List (Nat × Nat)) : Option (Int × Nat) :=
  (planSteps.flatMap fun st => [(st, 0), (st, 1), (st, 2)]).find? fun c => planClears bs c.1 c.2

/-- R394: find a plan; the cohort that issued it goes on once the clocks have been set. A plan that is done and whose core has
halted since has nobody to go on (R184). -/
def execClkPlan (d : Sel) (s : State) : Out :=
  tblIssue s .f false 0x3E 0x3E fun g _ _ =>
    match s.plan.filter fun p => !(p.done && s.isHalted p.core) with
    | some p =>
      if p.core == g.core && p.slot == g.slot && p.done && p.lanes &&& s.cur.lanes == p.lanes then
        let v : State := { s with cur := { s.cur with lanes := p.lanes } }
        tblAnswer v d (p.st.toNat + at_ p.m 8) { v with plan := none }
      else notReady s
    | none =>
      let nb := bits (s.devGet (dev3 + 0x8100)) 4 0
      if 16 < nb || s.bands.any (fun b => b.2 < b.1) then tblAnswer s d (tblStatus 1 0) s
      else match planSearch s.bands with
        | none => tblAnswer s d (tblStatus 5 0) s
        | some (st, m) =>
          .next { s with plan := some { core := g.core, slot := g.slot, lanes := s.cur.lanes, st := BitVec.ofInt 5 st, m := m, used := nb != 0
                                        done := false } }

/-- R394: at a quiesce point the PLLs relock; SSC follows the table as it was searched. -/
def execClockRelock (s : State) : Out :=
  match s.plan with
  | none => notReady s
  | some p =>
    if p.done then notReady s
    else
      let v := s.devGet (dev3 + 0x8100)
      let v1 := setBits (setBits (setBits v 24 24 (if p.used then 0 else 1)) 17 16 p.m) 12 8 p.st.toNat
      .next { s.devSet (dev3 + 0x8100) v1 with plan := if p.slot == 512 then none else some { p with done := true } }

/-! ## Soft errors and patrol (R103, R206, R207) -/

/-- Can the check of a class make that of an error: in a register file (R103)? -/
def regGrade (c : Cls) (g : ErrGrade) : Bool :=
  match c, g with
  | .p, .missed => false
  | .d, .corrected => false
  | .n, .missed => true
  | .n, _ => false
  | _, _ => true

/-- Can the check of a class of memory make that of an error (R206)? -/
def memGrade (c : Cls) (g : ErrGrade) : Bool :=
  match c, g with
  | .p, _ => true
  | .d, .corrected => false
  | .d, _ => true
  | .n, g => g == .missed

/-- A pipe of whose ring a byte has been altered: the element there is any value (R206, R331). -/
def Pipe.altered (p : Pipe) (tick k : Nat) : Pipe :=
  let hit (j : Nat) (e : PipeElem) : PipeElem :=
    if (p.elemKeys (p.popped + j)).contains k then { e with val := Config.free 32 tick (173000 + j) } else e
  { p with elems := (p.elems.zip (List.range p.elems.length)).map fun q => hit q.2 q.1 }

/-- An error in a byte of storage: one that is missed alters it; the others wait for the read that meets them. -/
def State.hitByte (s : State) (k : Nat) (g : ErrGrade) (v : DWord) : State :=
  let mark : ErrMark := { place := .byte k, grade := g }
  let marked : State := { s with errs := mark :: s.errs.filter fun m => m.place != .byte k }
  let altered (u : State) : State := { u with
    mem := memSet u.mem k (memGet u.mem k ^^^ v.setWidth 8)
    pipes := u.pipes.map fun p => p.altered u.tick k }
  if isMain k && s.unsettled (pageOf k) then { s with seen := s.seen.filter fun j => j / 128 != k / 128 }
  else match g with
    | .missed => altered (if isMain k then marked else s)
    | _ => marked

/-- An error waits at a place for the read that meets it. -/
def State.mark (s : State) (place : ErrPlace) (g : ErrGrade) : State :=
  { s with errs := { place := place, grade := g } :: s.errs.filter fun m => m.place != place || !m.off.isEmpty }

/-- An error in a place of a group that holds values: detected ones set poison, missed ones alter the value. `f` changes the
place and sets its poison. -/
def State.hitGroup (s : State) (core slot : Nat) (g : ErrGrade) (place : ErrPlace)
    (f : (DWord → DWord) → Bool → Group → Group) (v : DWord) : State :=
  let on (u : State) (k : Group → Group) : State :=
    { u with groups := u.groups.map fun x => if x.core == core && x.slot == slot then k x else x }
  match g with
  | .corrected => s.mark place g
  | .detected => on (s.mark place g) (f id true)
  | .missed => on s (f (fun x => x ^^^ v) false)

/-- Change threads of a group by lane. -/
def onLanes (m : DWord) (k : Thread → Thread) (g : Group) : Group :=
  g.mapThreads fun t => if laneBit m t.lane then k t else t

/-- Change a named register. -/
def alterReg (n : Nat) (f : DWord → DWord) (p : Bool) (t : Thread) : Thread :=
  match t.v[n]? with
  | some r => { t with v := t.v.set n { r with val := (f (r.val.setWidth 64)).setWidth 32, poison := r.poison || p } }
  | none => t

/-- Change a history entry. -/
def alterHist (n : Nat) (f : DWord → DWord) (p : Bool) (t : Thread) : Thread :=
  match t.h[n]? with
  | some r => { t with h := t.h.set n { r with val := f r.val, poison := r.poison || p } }
  | none => t

/-- Change a scalar. -/
def alterScalar (n : Nat) (f : DWord → DWord) (p : Bool) (g : Group) : Group :=
  match g.s[n]? with
  | some r => { g with s := g.s.set n { r with val := f r.val, poison := r.poison || p } }
  | none => g

/-- Change a mask. -/
def alterMask (n : Nat) (f : DWord → DWord) (p : Bool) (g : Group) : Group :=
  match g.m[n]? with
  | some r => { g with m := g.m.set n { r with val := f r.val, poison := r.poison || p } }
  | none => g

/-- Change word `w` of a reconvergence frame in hardware. -/
def alterFrame (i w : Nat) (f : DWord → DWord) (g : Group) : Group :=
  match g.frames[i]? with
  | some r =>
    let x : BitVec 256 := BitVec.ofNat 256 r.image
    let y : BitVec 256 := (((f ((x.extractLsb' (32 * w) 32).setWidth 64)).setWidth 32).setWidth 256 : BitVec 256) <<< (32 * w)
    let rest : BitVec 256 := x &&& ~~~((0xFFFFFFFF : BitVec 256) <<< (32 * w))
    { g with frames := g.frames.set i (Frame.ofImage g.gw (rest ||| y).toNat) }
  | none => g

/-- The control registers of a group that are struck, by number (R108): those that instructions write, and the group's place in
its grid. What identifies a group, and the sizes it was placed with, are the scheduler's (log entry 91). -/
def ctlWords : List Nat := [0x002, 0x003, 0x004, 0x005, 0x020, 0x021, 0x022, 0x030, 0x032]

/-- Change such a control register. -/
def alterCtl (n : Nat) (f : DWord → DWord) (g : Group) : Group :=
  let low (x : Nat) : Nat := (f (BitVec.ofNat 64 x)).toNat % 2 ^ 32
  match n with
  | 0x002 => { g with gid := low g.gid }
  | 0x003 => { g with tx := low g.tx }
  | 0x004 => { g with ty := low g.ty }
  | 0x005 => { g with tz := low g.tz }
  | 0x020 => { g with rm := (f (g.rm.setWidth 64)).setWidth 3 }
  | 0x021 => { g with srseed := (f (g.srseed.setWidth 64)).setWidth 32 }
  | 0x022 => { g with fflags := (f (g.fflags.setWidth 64)).setWidth 5 }
  | 0x030 => { g with rcvbase := f g.rcvbase }
  | 0x032 =>
    let v := f (BitVec.ofNat 64 (g.stkSzc.toNat + at_ g.stkBase.toNat 12))
    { g with stkBase := v.extractLsb' 12 44, stkSzc := v.setWidth 4 }
  | _ => g

/-- The bits of an error in one word of a doubleword. -/
def inHalf (hi : Bool) (v : DWord) : DWord := if hi then v <<< 32 else v &&& 0xFFFFFFFF#64

/-- An error in the base of a block of lanes: one that is missed makes each lane's word any value (R104). -/
def State.hitBase (s : State) (x : Group) (b : Nat) (g : ErrGrade) (place : ErrPlace)
    (f : (DWord → DWord) → Bool → Thread → Thread) (hi : Bool) : State :=
  let any (t : Thread) (v : DWord) : DWord :=
    let o : DWord := Config.free 64 s.tick (190000 + t.lane)
    if hi then (o <<< 32) ||| (v &&& 0xFFFFFFFF#64) else (v &&& ~~~0xFFFFFFFF#64) ||| (o &&& 0xFFFFFFFF#64)
  s.hitGroup x.core x.slot g place (fun _ p => onLanes (blockLanes b) fun t => f (if p then id else any t) p t) 0

/-- A word without a poison bit of its own: the error that is only detected leaves it with any value (log entry 91). -/
def State.hitPlain (s : State) (x : Group) (g : ErrGrade) (place : ErrPlace) (f : (DWord → DWord) → Group → Group) (v : DWord) :
    State :=
  let any : DWord := Config.free 64 s.tick 191000
  s.hitGroup x.core x.slot g place (fun k p => f (if p then fun _ => any else k)) v

/-- An error in a line held in a cache: of an L1 or an instruction cache a wrong parity, or altered bytes (R196). -/
def badWord (bad : List Nat) (bytes : List Byte) (key : Nat) (g : ErrGrade) (v : DWord) : List Nat × List Byte :=
  let o := key % 128
  match g with
  | .missed => (bad, bytes.set o ((bytes.getD o 0) ^^^ v.setWidth 8))
  | _ => ((o / 4) :: bad, bytes)

/-- An error in a line that the DRAM cache layer, or L2, holds: it costs the owning atelier alone. What the layer cannot correct
makes it fetch a clean line again, for one corrected error; a dirty line is written to its frame poisoned, in an N frame with
any bytes (R202, R206). What it misses fails the line's glaze check when the line is read (R201). -/
def State.hitLayer (s : State) (k : Nat) (dirty : Bool) (g : ErrGrade) (v : DWord) : State :=
  let w := potWorld (s.potGet (pageOf k))
  let line := (List.range 128).map (k / 128 * 128 + ·)
  match g, dirty with
  | .missed, _ => s.hitByte k .missed v
  | .corrected, _ => (s.chargeWorld w 1).countLine k 0x30 1
  | .detected, false => (s.chargeWorld w 1).countLine k 0x30 1
  | .detected, true =>
    if s.clsOf k != .n && s.isPoisoned k then s
    else
    let u := match s.clsOf k with
      | .n => { s with mem := line.foldl (fun m i => memSet m i (Config.free 8 s.tick (192000 + i % 128))) s.mem }
      | _ => s.markPoison [k / 128 * 2, k / 128 * 2 + 1]
    (u.chargeWorld w 16).countLine k 0x31 1

/-- R103, R196, R202, R206: a soft error strikes. What its check makes of it must be something that the check can make. `m0` is a
constant and holds nothing that an error could alter (R100). -/
def execSoftError (place : ErrPlace) (g : ErrGrade) (v : BitVec 64) (s : State) : Out :=
  let at_ (core slot : Nat) (ok : Group → Bool) (k : Group → State) : Out :=
    match s.group? core slot with
    | none => notReady s
    | some x => if ok x && regGrade x.kcls g then .next (k x) else notReady s
  let inThread (core slot lane : Nat) (f : (DWord → DWord) → Bool → Thread → Thread) (bits : DWord) : Out :=
    at_ core slot (fun x => (x.thread? lane).isSome) fun _ =>
      s.hitGroup core slot g place (fun k p => onLanes (1#64 <<< lane) (f k p)) bits
  match place with
  | .byte k => if isFlash k || !memGrade (s.clsOf k) g then notReady s else .next (s.hitByte k g v)
  | .reg c n l r => inThread c n l (alterReg r) v
  | .hist c n l r hi => inThread c n l (alterHist r) (inHalf hi v)
  | .base c n b r => at_ c n (fun x => b < (x.gw + 15) / 16) fun x => s.hitBase x b g place (alterReg r) false
  | .hbase c n b r hi => at_ c n (fun x => b < (x.gw + 15) / 16) fun x => s.hitBase x b g place (alterHist r) hi
  | .scal c n r hi => at_ c n (fun _ => r < 32) fun _ => s.hitGroup c n g place (alterScalar r) (inHalf hi v)
  | .mask c n r hi => at_ c n (fun _ => 0 < r && r < 8) fun _ => s.hitGroup c n g place (alterMask r) (inHalf hi v)
  | .frame c n i w => at_ c n (fun x => i < x.frames.length && w < 8) fun x => s.hitPlain x g place (alterFrame i w) v
  | .ctl c n r hi => at_ c n (fun _ => ctlWords.contains r) fun x => s.hitPlain x g place (alterCtl r) (inHalf hi v)
  | .l1 c k =>
    let hit (l : L1Line) : Bool := l.core == c && l.line == k / 128
    let strike (l : L1Line) : L1Line :=
      if hit l then { l with bad := (badWord l.bad l.bytes k g v).1, bytes := (badWord l.bad l.bytes k g v).2 } else l
    if s.l1.any hit then .next { s with l1 := s.l1.map strike } else notReady s
  | .ic c k =>
    let hit (l : ICLine) : Bool := l.core == c && l.line == k / 128 && l.full
    let strike (l : ICLine) : ICLine :=
      if hit l then { l with bad := (badWord l.bad l.bytes k g v).1, bytes := (badWord l.bad l.bytes k g v).2 } else l
    if s.icache.any hit then .next { s with icache := s.icache.map strike } else notReady s
  | .layer k dirty =>
    if !isMain k || s.unsettled (pageOf k) then notReady s else .next (s.hitLayer k dirty g v)

/-- R207: a controller patrols a line of a P frame or a P vault segment: errors are charged to the owning atelier. -/
def execPatrol (line : Nat) (s : State) : Out :=
  let k := 128 * line
  if !(isMain k || isVault k) || s.clsOf k != .p then notReady s else .next ((s.meetScrub [k]).countLine k 0x32 1)

end Sys2Proof.Machine
end

