-- ==== Sys2Proof/Machine/Dispatch.lean ====
section
/-! DEFINITION. The meaning of every instruction and device step: one arm for each constructor. -/

namespace Sys2Proof.Machine

def exec (i : Instr) (s : State) : Host.Outcome State Fault Refusal :=
  match i with
  | .add d a b w p => Sys2Proof.Machine.execAdd d a b w p s
  | .sub d a b w p => Sys2Proof.Machine.execSub d a b w p s
  | .mul d a b w p => Sys2Proof.Machine.execMul d a b w p s
  | .mulhi d a b w p => Sys2Proof.Machine.execMulhi d a b w p s
  | .mulhn d a b w p => Sys2Proof.Machine.execMulhn d a b w p s
  | .divI d a b w p => Sys2Proof.Machine.execDivI d a b w p s
  | .divN d a b w p => Sys2Proof.Machine.execDivN d a b w p s
  | .remI d a b w p => Sys2Proof.Machine.execRemI d a b w p s
  | .remN d a b w p => Sys2Proof.Machine.execRemN d a b w p s
  | .minI d a b w p => Sys2Proof.Machine.execMinI d a b w p s
  | .minN d a b w p => Sys2Proof.Machine.execMinN d a b w p s
  | .maxI d a b w p => Sys2Proof.Machine.execMaxI d a b w p s
  | .maxN d a b w p => Sys2Proof.Machine.execMaxN d a b w p s
  | .and d a b w p => Sys2Proof.Machine.execAnd d a b w p s
  | .or d a b w p => Sys2Proof.Machine.execOr d a b w p s
  | .xor d a b w p => Sys2Proof.Machine.execXor d a b w p s
  | .andn d a b w p => Sys2Proof.Machine.execAndn d a b w p s
  | .orn d a b w p => Sys2Proof.Machine.execOrn d a b w p s
  | .shl d a b w p => Sys2Proof.Machine.execShl d a b w p s
  | .shr d a b w p => Sys2Proof.Machine.execShr d a b w p s
  | .sra d a b w p => Sys2Proof.Machine.execSra d a b w p s
  | .rol d a b w p => Sys2Proof.Machine.execRol d a b w p s
  | .addc d a b w p => Sys2Proof.Machine.execAddc d a b w p s
  | .subc d a b w p => Sys2Proof.Machine.execSubc d a b w p s
  | .mad d a b w p => Sys2Proof.Machine.execMad d a b w p s
  | .bfxI d a b p => Sys2Proof.Machine.execBfxI d a b p s
  | .bfxN d a b p => Sys2Proof.Machine.execBfxN d a b p s
  | .bfi d a b p => Sys2Proof.Machine.execBfi d a b p s
  | .sel d a b p => Sys2Proof.Machine.execSel d a b p s
  | .selB64 d a b p => Sys2Proof.Machine.execSelB64 d a b p s
  | .bsel d a b p => Sys2Proof.Machine.execBsel d a b p s
  | .abs d a w p => Sys2Proof.Machine.execAbs d a w p s
  | .neg d a w p => Sys2Proof.Machine.execNeg d a w p s
  | .clz d a w p => Sys2Proof.Machine.execClz d a w p s
  | .ctz d a w p => Sys2Proof.Machine.execCtz d a w p s
  | .popc d a w p => Sys2Proof.Machine.execPopc d a w p s
  | .brev d a w p => Sys2Proof.Machine.execBrev d a w p s
  | .mov d a w p => Sys2Proof.Machine.execMov d a w p s
  | .extI d a p => Sys2Proof.Machine.execExtI d a p s
  | .extN d a p => Sys2Proof.Machine.execExtN d a p s
  | .lea d a b p => Sys2Proof.Machine.execLea d a b p s
  | .dot4Ii d a b p => Sys2Proof.Machine.execDot4Ii d a b p s
  | .dot4Nn d a b p => Sys2Proof.Machine.execDot4Nn d a b p s
  | .dot4In d a b p => Sys2Proof.Machine.execDot4In d a b p s
  | .dot8Ii d a b p => Sys2Proof.Machine.execDot8Ii d a b p s
  | .dot8Nn d a b p => Sys2Proof.Machine.execDot8Nn d a b p s
  | .dot8In d a b p => Sys2Proof.Machine.execDot8In d a b p s
  | .addImm d a imm lit p => Sys2Proof.Machine.execAddImm d a imm lit p s
  | .add64Imm d a imm lit p => Sys2Proof.Machine.execAdd64Imm d a imm lit p s
  | .mulImm d a imm lit p => Sys2Proof.Machine.execMulImm d a imm lit p s
  | .andImm d a imm lit p => Sys2Proof.Machine.execAndImm d a imm lit p s
  | .orImm d a imm lit p => Sys2Proof.Machine.execOrImm d a imm lit p s
  | .xorImm d a imm lit p => Sys2Proof.Machine.execXorImm d a imm lit p s
  | .shlImm d a imm lit p => Sys2Proof.Machine.execShlImm d a imm lit p s
  | .shrImm d a imm lit p => Sys2Proof.Machine.execShrImm d a imm lit p s
  | .sraImm d a imm lit p => Sys2Proof.Machine.execSraImm d a imm lit p s
  | .minIImm d a imm lit p => Sys2Proof.Machine.execMinIImm d a imm lit p s
  | .maxIImm d a imm lit p => Sys2Proof.Machine.execMaxIImm d a imm lit p s
  | .moviB32 d imm p => Sys2Proof.Machine.execMoviB32 d imm p s
  | .moviB64 d imm p => Sys2Proof.Machine.execMoviB64 d imm p s
  | .leaImm d a imm lit p => Sys2Proof.Machine.execLeaImm d a imm lit p s
  | .litB32 d k p => Sys2Proof.Machine.execLitB32 d k p s
  | .litB64 d k p => Sys2Proof.Machine.execLitB64 d k p s
  | .fadd d a b t p => Sys2Proof.Machine.execFadd d a b t p s
  | .fsub d a b t p => Sys2Proof.Machine.execFsub d a b t p s
  | .fmul d a b t p => Sys2Proof.Machine.execFmul d a b t p s
  | .fma d a b t p => Sys2Proof.Machine.execFma d a b t p s
  | .fnma d a b t p => Sys2Proof.Machine.execFnma d a b t p s
  | .fmin d a b t p => Sys2Proof.Machine.execFmin d a b t p s
  | .fmax d a b t p => Sys2Proof.Machine.execFmax d a b t p s
  | .fminm d a b t p => Sys2Proof.Machine.execFminm d a b t p s
  | .fmaxm d a b t p => Sys2Proof.Machine.execFmaxm d a b t p s
  | .fdiv d a b t p => Sys2Proof.Machine.execFdiv d a b t p s
  | .fsqrt d a t p => Sys2Proof.Machine.execFsqrt d a t p s
  | .fabs d a t p => Sys2Proof.Machine.execFabs d a t p s
  | .fneg d a t p => Sys2Proof.Machine.execFneg d a t p s
  | .fsgn d a b t p => Sys2Proof.Machine.execFsgn d a b t p s
  | .fclass d a t p => Sys2Proof.Machine.execFclass d a t p s
  | .fscale d a b t p => Sys2Proof.Machine.execFscale d a b t p s
  | .frcp d a t p => Sys2Proof.Machine.execFrcp d a t p s
  | .frsq d a t p => Sys2Proof.Machine.execFrsq d a t p s
  | .fex2 d a t p => Sys2Proof.Machine.execFex2 d a t p s
  | .flg2 d a t p => Sys2Proof.Machine.execFlg2 d a t p s
  | .fsin d a t p => Sys2Proof.Machine.execFsin d a t p s
  | .fcos d a t p => Sys2Proof.Machine.execFcos d a t p s
  | .ftanh d a t p => Sys2Proof.Machine.execFtanh d a t p s
  | .fcvt d a n sz t p => Sys2Proof.Machine.execFcvt d a n sz t p s
  | .fround d a t p => Sys2Proof.Machine.execFround d a t p s
  | .fsplitBf16 d a p => Sys2Proof.Machine.execFsplitBf16 d a p s
  | .fpack d a e p => Sys2Proof.Machine.execFpack d a e p s
  | .funpk d a e p => Sys2Proof.Machine.execFunpk d a e p s
  | .caddCi16 d a b p => Sys2Proof.Machine.execCaddCi16 d a b p s
  | .caddCi32 d a b p => Sys2Proof.Machine.execCaddCi32 d a b p s
  | .cmulCi16 d a b p => Sys2Proof.Machine.execCmulCi16 d a b p s
  | .cmacCi16 d a b p => Sys2Proof.Machine.execCmacCi16 d a b p s
  | .cmacCi8 d a b p => Sys2Proof.Machine.execCmacCi8 d a b p s
  | .cconjCi16 d a p => Sys2Proof.Machine.execCconjCi16 d a p s
  | .cconjCi32 d a p => Sys2Proof.Machine.execCconjCi32 d a p s
  | .cmag2Ci16 d a p => Sys2Proof.Machine.execCmag2Ci16 d a p s
  | .cunpkCi8 d a p => Sys2Proof.Machine.execCunpkCi8 d a p s
  | .cunpkCi4 d a p => Sys2Proof.Machine.execCunpkCi4 d a p s
  | .cmp d a b t c p => Sys2Proof.Machine.execCmp d a b t c p s
  | .fcmp d a b t c p => Sys2Proof.Machine.execFcmp d a b t c p s
  | .xlPick d a b k p => Sys2Proof.Machine.execXlPick d a b k p s
  | .xlSwap d a b k p => Sys2Proof.Machine.execXlSwap d a b k p s
  | .xlFwd d a b k p => Sys2Proof.Machine.execXlFwd d a b k p s
  | .xlBack d a b k p => Sys2Proof.Machine.execXlBack d a b k p s
  | .red d a o => Sys2Proof.Machine.execRed d a o s
  | .scan d a o => Sys2Proof.Machine.execScan d a o s
  | .mand d a b => Sys2Proof.Machine.execMand d a b s
  | .mor d a b => Sys2Proof.Machine.execMor d a b s
  | .mxor d a b => Sys2Proof.Machine.execMxor d a b s
  | .mnot d a => Sys2Proof.Machine.execMnot d a s
  | .mmov d a => Sys2Proof.Machine.execMmov d a s
  | .mpop d a => Sys2Proof.Machine.execMpop d a s
  | .mfirst d a => Sys2Proof.Machine.execMfirst d a s
  | .mset d a => Sys2Proof.Machine.execMset d a s
  | .mget d a => Sys2Proof.Machine.execMget d a s
  | .voteAny d a => Sys2Proof.Machine.execVoteAny d a s
  | .voteAll d a => Sys2Proof.Machine.execVoteAll d a s
  | .ballot d a => Sys2Proof.Machine.execBallot d a s
  | .matchLanes d a => Sys2Proof.Machine.execMatchLanes d a s
  | .popm d a => Sys2Proof.Machine.execPopm d a s
  | .sadd d a b => Sys2Proof.Machine.execSadd d a b s
  | .ssub d a b => Sys2Proof.Machine.execSsub d a b s
  | .smul d a b => Sys2Proof.Machine.execSmul d a b s
  | .smulhi d a b => Sys2Proof.Machine.execSmulhi d a b s
  | .sdiv d a b => Sys2Proof.Machine.execSdiv d a b s
  | .sdivN d a b => Sys2Proof.Machine.execSdivN d a b s
  | .srem d a b => Sys2Proof.Machine.execSrem d a b s
  | .sremN d a b => Sys2Proof.Machine.execSremN d a b s
  | .smin d a b => Sys2Proof.Machine.execSmin d a b s
  | .sminN d a b => Sys2Proof.Machine.execSminN d a b s
  | .smax d a b => Sys2Proof.Machine.execSmax d a b s
  | .smaxN d a b => Sys2Proof.Machine.execSmaxN d a b s
  | .sand d a b => Sys2Proof.Machine.execSand d a b s
  | .sor d a b => Sys2Proof.Machine.execSor d a b s
  | .sxor d a b => Sys2Proof.Machine.execSxor d a b s
  | .sshl d a b => Sys2Proof.Machine.execSshl d a b s
  | .sshr d a b => Sys2Proof.Machine.execSshr d a b s
  | .ssra d a b => Sys2Proof.Machine.execSsra d a b s
  | .sclz d a => Sys2Proof.Machine.execSclz d a s
  | .spopc d a => Sys2Proof.Machine.execSpopc d a s
  | .smov d a => Sys2Proof.Machine.execSmov d a s
  | .ssel d a b => Sys2Proof.Machine.execSsel d a b s
  | .scmpEq d a b => Sys2Proof.Machine.execScmpEq d a b s
  | .scmpNe d a b => Sys2Proof.Machine.execScmpNe d a b s
  | .scmpLt d a b => Sys2Proof.Machine.execScmpLt d a b s
  | .scmpLe d a b => Sys2Proof.Machine.execScmpLe d a b s
  | .scmpLtN d a b => Sys2Proof.Machine.execScmpLtN d a b s
  | .scmpLeN d a b => Sys2Proof.Machine.execScmpLeN d a b s
  | .saddImm d a imm lit => Sys2Proof.Machine.execSaddImm d a imm lit s
  | .smulImm d a imm lit => Sys2Proof.Machine.execSmulImm d a imm lit s
  | .sandImm d a imm lit => Sys2Proof.Machine.execSandImm d a imm lit s
  | .sorImm d a imm lit => Sys2Proof.Machine.execSorImm d a imm lit s
  | .sxorImm d a imm lit => Sys2Proof.Machine.execSxorImm d a imm lit s
  | .sshlImm d a imm lit => Sys2Proof.Machine.execSshlImm d a imm lit s
  | .sshrImm d a imm lit => Sys2Proof.Machine.execSshrImm d a imm lit s
  | .ssraImm d a imm lit => Sys2Proof.Machine.execSsraImm d a imm lit s
  | .smovi d imm => Sys2Proof.Machine.execSmovi d imm s
  | .slit d k => Sys2Proof.Machine.execSlit d k s
  | .csrr d c => Sys2Proof.Machine.execCsrr d c s
  | .csrw d c => Sys2Proof.Machine.execCsrw d c s
  | .csrs d c => Sys2Proof.Machine.execCsrs d c s
  | .csrc d c => Sys2Proof.Machine.execCsrc d c s
  | .sRd d a b => Sys2Proof.Machine.execSRd d a b s
  | .sWr d a b => Sys2Proof.Machine.execSWr d a b s
  | .srseedWrite f d => Sys2Proof.Machine.execSrseedWrite f d s
  | .rmWrite f d => Sys2Proof.Machine.execRmWrite f d s
  | .fflagsWrite f d => Sys2Proof.Machine.execFflagsWrite f d s
  | .rcvbaseWrite f d => Sys2Proof.Machine.execRcvbaseWrite f d s
  | .bpcWrite f d => Sys2Proof.Machine.execBpcWrite f d s
  | .bra o lit => Sys2Proof.Machine.execBra o lit s
  | .brz c o lit => Sys2Proof.Machine.execBrz c o lit s
  | .brnz c o lit => Sys2Proof.Machine.execBrnz c o lit s
  | .bsz c o lit => Sys2Proof.Machine.execBsz c o lit s
  | .bsnz c o lit => Sys2Proof.Machine.execBsnz c o lit s
  | .call c o lit => Sys2Proof.Machine.execCall c o lit s
  | .ret c => Sys2Proof.Machine.execRet c s
  | .jmp c => Sys2Proof.Machine.execJmp c s
  | .exit => Sys2Proof.Machine.execExit s
  | .nop => Sys2Proof.Machine.execNop s
  | .yield => Sys2Proof.Machine.execYield s
  | .sleep c => Sys2Proof.Machine.execSleep c s
  | .rcvPush o lit => Sys2Proof.Machine.execRcvPush o lit s
  | .rcvWait => Sys2Proof.Machine.execRcvWait s
  | .rcvPop => Sys2Proof.Machine.execRcvPop s
  | .rcvDrop => Sys2Proof.Machine.execRcvDrop s
  | .barTeam => Sys2Proof.Machine.execBarTeam s
  | .barClu => Sys2Proof.Machine.execBarClu s
  | .barNamed a n => Sys2Proof.Machine.execBarNamed a n s
  | .barArrive a n => Sys2Proof.Machine.execBarArrive a n s
  | .cbInit a n => Sys2Proof.Machine.execCbInit a n s
  | .cbArrive n => Sys2Proof.Machine.execCbArrive n s
  | .cbWait n => Sys2Proof.Machine.execCbWait n s
  | .cbTest d n => Sys2Proof.Machine.execCbTest d n s
  | .ecall n => Sys2Proof.Machine.execEcall n s
  | .ebreak n => Sys2Proof.Machine.execEbreak n s
  | .wcall n => Sys2Proof.Machine.execWcall n s
  | .trap n => Sys2Proof.Machine.execTrap n s
  | .wfe => Sys2Proof.Machine.execWfe s
  | .fenceI => Sys2Proof.Machine.execFenceI s
  | .halt => Sys2Proof.Machine.execHalt s
  | .ld d a sz o q t lit p => Sys2Proof.Machine.execLd d a sz o q t lit p s
  | .st d a sz o q t lit p => Sys2Proof.Machine.execSt d a sz o q t lit p s
  | .ldx d a sz o q t off k x p => Sys2Proof.Machine.execLdx d a sz o q t off k x p s
  | .stx d a sz o q t off k x p => Sys2Proof.Machine.execStx d a sz o q t off k x p s
  | .loadDataArrival id => Sys2Proof.Machine.execLoadDataArrival id s
  | .atomAdd d a r q w => Sys2Proof.Machine.execAtomAdd d a r q w s
  | .atomSub d a r q w => Sys2Proof.Machine.execAtomSub d a r q w s
  | .atomMinI d a r q w => Sys2Proof.Machine.execAtomMinI d a r q w s
  | .atomMaxI d a r q w => Sys2Proof.Machine.execAtomMaxI d a r q w s
  | .atomMinN d a r q w => Sys2Proof.Machine.execAtomMinN d a r q w s
  | .atomMaxN d a r q w => Sys2Proof.Machine.execAtomMaxN d a r q w s
  | .atomAnd d a r q w => Sys2Proof.Machine.execAtomAnd d a r q w s
  | .atomOr d a r q w => Sys2Proof.Machine.execAtomOr d a r q w s
  | .atomXor d a r q w => Sys2Proof.Machine.execAtomXor d a r q w s
  | .atomXchg d a r q w => Sys2Proof.Machine.execAtomXchg d a r q w s
  | .atomCas d a r q w => Sys2Proof.Machine.execAtomCas d a r q w s
  | .atomIncw d a r q w => Sys2Proof.Machine.execAtomIncw d a r q w s
  | .atomDecw d a r q w => Sys2Proof.Machine.execAtomDecw d a r q w s
  | .atomAddF d a r q w => Sys2Proof.Machine.execAtomAddF d a r q w s
  | .atomXchgA16 d a r q => Sys2Proof.Machine.execAtomXchgA16 d a r q s
  | .atomCasA16 d a r q => Sys2Proof.Machine.execAtomCasA16 d a r q s
  | .memoryReduction d a o r q w => Sys2Proof.Machine.execMemoryReduction d a o r q w s
  | .pf l a lit => Sys2Proof.Machine.execPf l a lit s
  | .ipf a lit => Sys2Proof.Machine.execIpf a lit s
  | .phaseBegin q => Sys2Proof.Machine.execPhaseBegin q s
  | .phaseEnd q => Sys2Proof.Machine.execPhaseEnd q s
  | .phase q => Sys2Proof.Machine.execPhase q s
  | .fence q => Sys2Proof.Machine.execFence q s
  | .cwb a q lit => Sys2Proof.Machine.execCwb a q lit s
  | .cinv a q lit => Sys2Proof.Machine.execCinv a q lit s
  | .spClr a lit => Sys2Proof.Machine.execSpClr a lit s
  | .spSet a lit => Sys2Proof.Machine.execSpSet a lit s
  | .spTest d a lit => Sys2Proof.Machine.execSpTest d a lit s
  | .push q a b => Sys2Proof.Machine.execPush q a b s
  | .pop d q => Sys2Proof.Machine.execPop d q s
  | .mrdy => Sys2Proof.Machine.execMrdy s
  | .mma cmd => Sys2Proof.Machine.execMma cmd s
  | .mmaJ cmd => Sys2Proof.Machine.execMmaJ cmd s
  | .mmaStart id => Sys2Proof.Machine.execMmaStart id s
  | .mmaComplete id => Sys2Proof.Machine.execMmaComplete id s
  | .cp cmd => Sys2Proof.Machine.execCp cmd s
  | .cpMx cmd => Sys2Proof.Machine.execCpMx cmd s
  | .cpGx cmd => Sys2Proof.Machine.execCpGx cmd s
  | .copyEnterFlight id => Sys2Proof.Machine.execCopyEnterFlight id s
  | .copyRowLanding id row => Sys2Proof.Machine.execCopyRowLanding id row s
  | .copyComplete id => Sys2Proof.Machine.execCopyComplete id s
  | .copyFail id row => Sys2Proof.Machine.execCopyFail id row s
  | .followOnAppend id => Sys2Proof.Machine.execFollowOnAppend id s
  | .netPut a b => Sys2Proof.Machine.execNetPut a b s
  | .netGet a b => Sys2Proof.Machine.execNetGet a b s
  | .netSend a b => Sys2Proof.Machine.execNetSend a b s
  | .netRecv a b => Sys2Proof.Machine.execNetRecv a b s
  | .netRed a b => Sys2Proof.Machine.execNetRed a b s
  | .netFence b => Sys2Proof.Machine.execNetFence b s
  | .netCommandStart id => Sys2Proof.Machine.execNetCommandStart id s
  | .netPacketReceive k => Sys2Proof.Machine.execNetPacketReceive k s
  | .packetRetransmit id => Sys2Proof.Machine.execPacketRetransmit id s
  | .netLocalCompletion id => Sys2Proof.Machine.execNetLocalCompletion id s
  | .completionRingSpace id => Sys2Proof.Machine.execCompletionRingSpace id s
  | .launch d a b => Sys2Proof.Machine.execLaunch d a b s
  | .gang d a b => Sys2Proof.Machine.execGang d a b s
  | .cancel a => Sys2Proof.Machine.execCancel a s
  | .vsel d a b => Sys2Proof.Machine.execVsel d a b s
  | .pipePut a b => Sys2Proof.Machine.execPipePut a b s
  | .pipeGet d a => Sys2Proof.Machine.execPipeGet d a s
  | .pipeClose a => Sys2Proof.Machine.execPipeClose a s
  | .svcReg a b => Sys2Proof.Machine.execSvcReg a b s
  | .launchStart => Sys2Proof.Machine.execLaunchStart s
  | .teamRelease q n => Sys2Proof.Machine.execTeamRelease q n s
  | .teamPlacement q n => Sys2Proof.Machine.execTeamPlacement q n s
  | .fairnessExpiry q n => Sys2Proof.Machine.execFairnessExpiry q n s
  | .teamRetire team => Sys2Proof.Machine.execTeamRetire team s
  | .groupTeardown core slot => Sys2Proof.Machine.execGroupTeardown core slot s
  | .agingPromotion core slot => Sys2Proof.Machine.execAgingPromotion core slot s
  | .srep a b => Sys2Proof.Machine.execSrep a b s
  | .sdone a => Sys2Proof.Machine.execSdone a s
  | .freeze a => Sys2Proof.Machine.execFreeze a s
  | .thaw a => Sys2Proof.Machine.execThaw a s
  | .swapout a => Sys2Proof.Machine.execSwapout a s
  | .swapoutDrainDone core => Sys2Proof.Machine.execSwapoutDrainDone core s
  | .swapin a => Sys2Proof.Machine.execSwapin a s
  | .fltDone a => Sys2Proof.Machine.execFltDone a s
  | .logReplayRecord core slot lane => Sys2Proof.Machine.execLogReplayRecord core slot lane s
  | .tlbInv sz a => Sys2Proof.Machine.execTlbInv sz a s
  | .tlbProbe d a => Sys2Proof.Machine.execTlbProbe d a s
  | .bld d a b z => Sys2Proof.Machine.execBld d a b z s
  | .bst d a b z => Sys2Proof.Machine.execBst d a b z s
  | .potSet d a b => Sys2Proof.Machine.execPotSet d a b s
  | .potGet d a => Sys2Proof.Machine.execPotGet d a s
  | .frameCls d a b => Sys2Proof.Machine.execFrameCls d a b s
  | .gesso d a b => Sys2Proof.Machine.execGesso d a b s
  | .keyNew d a b => Sys2Proof.Machine.execKeyNew d a b s
  | .hotRd d a b => Sys2Proof.Machine.execHotRd d a b s
  | .varnishBegin d a => Sys2Proof.Machine.execVarnishBegin d a s
  | .varnishEnd d a => Sys2Proof.Machine.execVarnishEnd d a s
  | .clkPlan d => Sys2Proof.Machine.execClkPlan d s
  | .clockRelock => Sys2Proof.Machine.execClockRelock s
  | .cntCfg d a b => Sys2Proof.Machine.execCntCfg d a b s
  | .cntRd d a => Sys2Proof.Machine.execCntRd d a s
  | .cntClr d a => Sys2Proof.Machine.execCntClr d a s
  | .ebudSet d a b => Sys2Proof.Machine.execEbudSet d a b s
  | .ebudRd d a => Sys2Proof.Machine.execEbudRd d a s
  | .tokLim d a b => Sys2Proof.Machine.execTokLim d a b s
  | .tcmpSet d a b => Sys2Proof.Machine.execTcmpSet d a b s
  | .icacheFill core line => Sys2Proof.Machine.execIcacheFill core line s
  | .breakpointMatch core slot lane => Sys2Proof.Machine.execBreakpointMatch core slot lane s
  | .sleepExpiry core slot lane => Sys2Proof.Machine.execSleepExpiry core slot lane s
  | .wfeWake core slot lane => Sys2Proof.Machine.execWfeWake core slot lane s
  | .ecallRetry core slot lane => Sys2Proof.Machine.execEcallRetry core slot lane s
  | .timerFire core world => Sys2Proof.Machine.execTimerFire core world s
  | .deviceRecordPost core => Sys2Proof.Machine.execDeviceRecordPost core s
  | .barTimeout team kind n => Sys2Proof.Machine.execBarTimeout team kind n s
  | .patrol line => Sys2Proof.Machine.execPatrol line s
  | .hotnessIntervalEnd n => Sys2Proof.Machine.execHotnessIntervalEnd n s
  | .ingestPacket k => Sys2Proof.Machine.execIngestPacket k s
  | .ingestHeldWrite id => Sys2Proof.Machine.execIngestHeldWrite id s
  | .pauseBudgetExpiry die rule => Sys2Proof.Machine.execPauseBudgetExpiry die rule s
  | .xoffRefresh port prio => Sys2Proof.Machine.execXoffRefresh port prio s
  | .doorbellWrite id => Sys2Proof.Machine.execDoorbellWrite id s
  | .ssdDataAccess port qid wr addr len data => Sys2Proof.Machine.execSsdDataAccess port qid wr addr len data s
  | .nvmeCompletion port qid slot entry => Sys2Proof.Machine.execNvmeCompletion port qid slot entry s
  | .domainStateWrite world v => Sys2Proof.Machine.execDomainStateWrite world v s
  | .domainDrained world => Sys2Proof.Machine.execDomainDrained world s
  | .tctlWrite v => Sys2Proof.Machine.execTctlWrite v s
  | .potInitialisationDone => Sys2Proof.Machine.execPotInitialisationDone s
  | .worldTableReserveWrite world v => Sys2Proof.Machine.execWorldTableReserveWrite world v s
  | .wayGlazingDone world => Sys2Proof.Machine.execWayGlazingDone world s
  | .vaultAllocationWrite site seg v => Sys2Proof.Machine.execVaultAllocationWrite site seg v s
  | .segmentZeroingDone site seg => Sys2Proof.Machine.execSegmentZeroingDone site seg s
  | .flashProgram o data => Sys2Proof.Machine.execFlashProgram o data s
  | .sectorErase o => Sys2Proof.Machine.execSectorErase o s
  | .flashOperationDone o => Sys2Proof.Machine.execFlashOperationDone o s
  | .deviceRegisterWrite o len v => Sys2Proof.Machine.execDeviceRegisterWrite o len v s
  | .powerOn => Sys2Proof.Machine.execPowerOn s
  | .pinReset => Sys2Proof.Machine.execPinReset s
  | .stackTrainingDone stack => Sys2Proof.Machine.execStackTrainingDone stack s
  | .thermtrip => Sys2Proof.Machine.execThermtrip s
  | .translationWalkDone id => Sys2Proof.Machine.execTranslationWalkDone id s
  | .arrayFinish id q => Sys2Proof.Machine.execArrayFinish id q s
  | .scratchpadClearDone team => Sys2Proof.Machine.execScratchpadClearDone team s
  | .softError place g v => Sys2Proof.Machine.execSoftError place g v s
  | .powerRemoval => Sys2Proof.Machine.execPowerRemoval s
  | .resetNAsserted => Sys2Proof.Machine.execResetNAsserted s
  | .portLinkChange port up => Sys2Proof.Machine.execPortLinkChange port up s

end Sys2Proof.Machine
end

