-- ==== Sys2Proof/Machine/Schedule.lean ====
section
/-! DEFINITION. One step of the device: what may happen next, which cohort each quarter issues, the issue of one instruction,
and what passes with every step (R51, R157, R169, R170, R336 to R338, R406, R414, R418, R419). -/

namespace Sys2Proof.Machine

noncomputable section

/-! ## Issuing one instruction -/

/-- Is an instruction a load, or a store, as the counters count them (R419)? -/
def memoryEvent (i : Instr) : Option Nat :=
  match i with
  | .ld .. | .ldx .. => some 0x0C
  | .st .. | .stx .. => some 0x0D
  | _ => none

/-- Is the base word one of VFP or VSFU, which the counters count as float instructions (R70, R419)? -/
def isFloatWords (ws : List Word) : Bool :=
  match splitWords ws with
  | some q => fld q.base 24 6 == 3#6 || fld q.base 24 6 == 4#6
  | none => false

/-- Soft errors that wait in words of the cohort's group (R103). -/
def State.cohortMarks (s : State) : List ErrMark :=
  if s.errs.isEmpty then []
  else s.errs.filter fun m => placeInSlot m.place s.cur.core s.cur.slot (s.cur.slot + 1) != m.place

/-- Mark the word of a soft error in the group's threads with a number that nothing waits for, to see what an instruction makes
of it. -/
def State.tagged_ (s : State) (m : ErrMark) (tag : Nat) : State :=
  s.mapLanes s.cur.core s.cur.slot (placeLanes m.place) fun t =>
    match m.place, m.entry t.lane with
    | .reg .., some n | .base .., some n => { t with v := t.v.modify n fun r => { r with wait := tag :: r.wait } }
    | .hist .., some n | .hbase .., some n => { t with h := t.h.modify n fun r => { r with wait := tag :: r.wait } }
    | _, _ => t

/-- What an instruction makes of a soft error's word. -/
inductive MarkFate where
  | read
  | kept (m : ErrMark)
  | gone
  deriving DecidableEq, Repr

/-- Where a tagged word of one lane is after an instruction, or none if it was read. An entry of the history moves; a register
that is in the history now was read. -/
def laneFate (u : State) (p : ErrPlace) (c n l r tag : Nat) : Option (Option Nat) :=
  match (u.group? c n).bind fun g => g.thread? l with
  | none => some none
  | some t =>
    match p, (List.range t.h.length).find? fun i => ((t.h[i]?).map (·.wait)).any (·.contains tag) with
    | .hist .., i | .hbase .., i => some i
    | _, some _ => none
    | _, none => some (if ((t.v[r]?).map (·.wait)).any (·.contains tag) then some r else none)

/-- Where a soft error of the registers is after an instruction. A base is read if it is read for some lane (R104). -/
def markAfter (s u : State) (m : ErrMark) (tag : Nat) : MarkFate :=
  let fate (l : Nat) : Option (Option Nat) :=
    match m.entry l with
    | some r => laneFate u m.place s.cur.core s.cur.slot l r tag
    | none => some none
  if (List.range 64).any fun l => (fate l).isNone then .read
  else match m.move fun l => (fate l).join with
    | some x => .kept x
    | none => .gone

/-- A group in a state changed. -/
def State.without (s : State) (core slot : Nat) (k : Group → Group) : State :=
  { s with groups := s.groups.map fun g => if g.core == core && g.slot == slot then k g else g }

/-- A group without poison: then what an instruction does with one word does not hang on the poison of another. -/
def Group.clean (g : Group) : Group :=
  let c (t : Thread) : Thread :=
    { t with v := t.v.map fun r => { r with poison := false }, h := t.h.map fun e => { e with poison := false } }
  let g1 := g.mapThreads c
  { g1 with s := g.s.map fun r => { r with poison := false }, m := g.m.map fun r => { r with poison := false } }

/-- The fate of a word by what it does to the outcome. `probes` give it several values, `look` shows it and `off` sets it aside:
the instruction reads it if the rest of the outcome, or what it leaves there, depends on what was there. -/
def valueFate (i : Instr) (s : State) (m : ErrMark) (probes : List (Group → Group)) (look : Group → Nat × Bool)
    (off : Group → Group) : MarkFate :=
  let c := s.cur.core
  let n := s.cur.slot
  let word (u : State) : Option (Nat × Bool) := (u.group? c n).map look
  let tries := probes.map fun k =>
    let before := s.without c n fun g => k g.clean
    match exec i before with
    | .next u => if u.stalled then none else some (word before, word u, u.without c n off)
    | _ => none
  match tries with
  | some o :: os =>
    if os.any fun x => x.map (·.2.2) != some o.2.2 then .read
    else if (some o :: os).all fun x => x.all fun y => y.1 == y.2.1 then .kept m
    else if os.all fun x => x.map (·.2.1) == some o.2.1 then .gone
    else .read
  | _ => .kept m

/-- Values to try a word of 64 bits and a poison bit with. -/
def probeVals : List ((DWord → DWord) × Bool) := [(id, false), (id, true), (fun x => ~~~x, false), (fun _ => 0, false)]

/-- The fate of a lane's register that an instruction names only to write it. -/
def writtenFate (i : Instr) (s : State) (m : ErrMark) (l n : Nat) : MarkFate :=
  let at_ (k : Reg → Reg) (g : Group) : Group :=
    g.mapThreads fun t => if t.lane == l then { t with v := t.v.modify n k } else t
  let look (g : Group) : Nat × Bool := match (g.thread? l).bind fun t => t.v[n]? with
    | some r => (r.val.toNat, r.poison)
    | none => (0, false)
  valueFate i s m (probeVals.map fun p => at_ fun r => { r with val := (p.1 (r.val.setWidth 64)).setWidth 32, poison := p.2 }) look
    (at_ fun r => { r with val := 0, taint := false, poison := false, wait := [] })

/-- The fate of a soft error of the registers: an instruction that would wait for the word reads it. `s.wr` waits for the register
that it writes and reads none (R137). -/
def regFate (i : Instr) (s : State) (m : ErrMark) : MarkFate :=
  match i, m.place with
  | .sWr .., .reg _ _ l n => writtenFate i s m l n
  | .sWr .., _ => .kept m
  | _, _ =>
    let tag := s.fresh + 2 ^ 40
    match exec i (s.tagged_ m tag) with
    | .next u => if u.stalled then .read else markAfter s u m tag
    | _ => .kept m

/-- The instruction under a prefix that leaves no lane inactive: what it reads in lanes that its own prefix leaves inactive is
checked as well (R103). -/
def State.unmasked (s : State) : Option Instr :=
  match s.cur.words with
  | w :: r =>
    if fld w 24 6 == 0x3F#6 then
      (match decode ((w &&& ~~~0x00F00000#32) :: r) with
       | .ok i => some i
       | .bad _ => none)
    else none
  | [] => none

/-- Does the instruction read a word in a lane that its prefix leaves inactive? -/
def State.unmaskedReads (s : State) (m : ErrMark) : Bool :=
  match s.unmasked with
  | none => false
  | some i =>
    match exec i s with
    | .next u => !u.stalled && regFate i s m == .read
    | _ => false

/-- The value of a control register that is struck. -/
def ctlValue (n : Nat) (g : Group) : Nat :=
  match n with
  | 0x002 => g.gid
  | 0x003 => g.tx
  | 0x004 => g.ty
  | 0x005 => g.tz
  | 0x020 => g.rm.toNat
  | 0x021 => g.srseed.toNat
  | 0x022 => g.fflags.toNat
  | 0x030 => g.rcvbase.toNat
  | _ => g.stkSzc.toNat + at_ g.stkBase.toNat 12

/-- Frames that an instruction leaves: a place of a frame that is pushed down or popped up (R176). -/
def frameFate (i : Instr) (s : State) (m : ErrMark) (core slot j w : Nat) : MarkFate :=
  let frames (u : State) : List Frame := ((u.group? core slot).map (·.frames)).getD []
  let looks : Bool := match i with
    | .rcvWait .. | .rcvPop .. | .rcvDrop .. => true
    | _ => false
  let image (g : Group) : Nat × Bool := (((g.frames[j]?).map (·.image)).getD 0, false)
  let f := valueFate i s m [id, alterFrame j w fun x => ~~~x] image fun g => { g with frames := [] }
  match exec i s with
  | .next u =>
    if f == .read || (looks && !u.stalled) then .read
    else if (frames u).length ≤ (frames s).length then f
    else .kept { m with place := .frame core slot (j + 1) w }
  | _ => f

/-- The fate of a soft error when the cohort executes an instruction (R102, R103, log entry 91). -/
def markFate (i : Instr) (s : State) (m : ErrMark) : MarkFate :=
  match m.place with
  | .scal _ _ n _ =>
    let put (f : DWord → DWord) (p : Bool) (g : Group) : Group :=
      { g with s := g.s.modify n fun r => { r with val := f r.val, poison := p } }
    valueFate i s m (probeVals.map fun p => put p.1 p.2)
      (fun g => match g.s[n]? with
        | some r => (r.val.toNat, r.poison)
        | none => (0, false)) fun g => { g with s := g.s.set n { val := 0, taint := false, poison := false } }
  | .mask _ _ n _ =>
    let put (f : DWord → DWord) (p : Bool) (g : Group) : Group :=
      { g with m := g.m.modify n fun r => { r with val := f r.val, poison := p } }
    valueFate i s m (probeVals.map fun p => put p.1 p.2)
      (fun g => match g.m[n]? with
        | some r => (r.val.toNat, r.poison)
        | none => (0, false)) fun g => { g with m := g.m.set n { val := 0, poison := false } }
  | .frame c n j w => frameFate i s m c n j w
  | .ctl _ _ n _ =>
    valueFate i s m [id, alterCtl n fun x => ~~~x] (fun g => (ctlValue n g, false)) (alterCtl n fun _ => 0)
  | _ => if s.unmaskedReads m then .read else regFate i s m

/-- Execute an instruction for the cohort. A soft error in a word that it reads is met first (R103). -/
def runInstr (i : Instr) (s : State) : Out :=
  match s.cohortMarks with
  | [] => exec i s
  | ms =>
    match exec i s, s.group? s.cur.core s.cur.slot with
    | .next u, some g =>
      if u.stalled then .next u
      else
        let fs := ms.map fun m => (m, markFate i s m)
        let hit (p : ErrPlace) : Bool := fs.any fun f => f.1.place == p && f.2 == .read
        let lane := ((g.inMask s.cur.lanes).map (·.lane)).headD 0
        let move (m : ErrMark) : Option ErrMark :=
          match (fs.find? fun f => f.1 == m).map (·.2) with
          | some (MarkFate.kept x) => some x
          | some _ => none
          | none => some m
        (match exec i (s.meetRegs (g.poster lane) hit) with
         | .next w => .next { w with errs := w.errs.filterMap move }
         | o => o)
    | o, _ => o

/-- An attempt to issue: what it comes to, and whether the instruction was issued, not only held back by a fetch, a
translation or a token. -/
structure Issued where
  out  : Out
  done : Bool
  ins  : Option Instr

/-- A fetch that faults parks the cohort on one record, with `ACC` 0 and the number of words that it names; nothing of the walk
that faulted is kept (R51, R366, R434). -/
def fetchFault (s : State) (g : Group) (i : FaultInfo) (ws : List Word) (nw : Nat) : Out :=
  let u := raiseMask s g s.cur.lanes { i with acc := 0 } ws
  let fix (q : FaultSlot) : FaultSlot :=
    if q.core == g.core && q.live && q.seq == s.fresh then { q with body := { q.body with nw := nw } } else q
  .next ({ u with faultq := u.faultq.map fix }.dropWalks (g.poster (leadOf s g).1))

/-- The threads of a cohort, all at one `pc`, fetch their instruction and execute it; words that are no instruction raise
ILL. DEDUCED (log entry 86): those of a whole-group instruction do so once the whole group has arrived, and those of an XL or
lane-reading MASK instruction for the threads that have arrived, without waiting for their converged set (R51, R83, R159, R170,
R271). -/
def State.issue (s : State) (core slot : Nat) (lanes : DWord) : Issued :=
  let held (o : Out) : Issued := { out := o, done := false, ins := none }
  match s.group? core slot with
  | none => held (notReady s)
  | some g =>
    match g.inMask lanes with
    | [] => held (notReady s)
    | t :: _ =>
      let at_ (ws : List Word) : State := { s with cur := { core := core, slot := slot, lanes := lanes, words := ws } }
      match s.fetch (g.poster t.lane) t.pc with
      | .words ws =>
        (match decode ws with
         | .ok i =>
           let o := runInstr i (at_ ws)
           let done := match o with
             | .next u => !u.stalled && !(s.walks.length < u.walks.length) && !(s.tokq.length < u.tokq.length)
             | _ => true
           { out := o, done := done, ins := some i }
         | .bad _ =>
           if actsForGroup ws && !wholeGroup (at_ ws) g then held (notReady s)
           else { out := raiseCohort (at_ ws) g (.plain .ill), done := true, ins := none })
      | .fault i ws nw => held (fetchFault (at_ []) g i ws nw)
      | .walk sup v => held (startWalks s .fetch [(g.poster t.lane, .walk sup v)])
      | .line l => held (askLine s (g.poster t.lane) l)
      | .wait => held (notReady s)

/-- Does an answer move the machine on? -/
def goesOn (o : Out) : Bool :=
  match o with
  | .next u => !u.stalled
  | _ => false

/-! ## The cohorts of a group (R157, R336 step 1) -/

/-- May a thread of a group issue, as far as its own state says? One whose breakpoint matches is not issued (R185), nor one
whose ACC 8 record is due (R310). -/
def State.runnable (s : State) (g : Group) (t : Thread) : Bool :=
  t.st == .ready && decide (t.since ≤ s.cycle) && t.logErr.isNone && (t.bpSkip || (s.breaksAt g t.pc).isEmpty)

/-- Is the instruction at a thread's `pc` one that acts for its converged set? -/
def State.crossesAt (s : State) (g : Group) (t : Thread) : Bool :=
  match s.fetch (g.poster t.lane) t.pc with
  | .words ws => crossesLanes ws
  | _ => false

/-- The masks of threads that may issue together: all that may run at one `pc`, or there each converged set that is there
whole. -/
def State.cohorts (s : State) (g : Group) : List DWord :=
  let ts := g.threads.filter (s.runnable g)
  ((ts.map (·.pc)).eraseDups).flatMap fun pc =>
    let here := ts.filter fun t => t.pc == pc
    match here with
    | [] => []
    | t :: _ =>
      if s.crossesAt g t then
        ((here.map fun u => laneMask ((setOf g u).map (·.lane))).eraseDups).filter fun m =>
          (m &&& ~~~(laneMask (here.map (·.lane)))) == 0#64
      else [laneMask (here.map (·.lane))]

/-- Every load of the group but those of one lane has arrived. -/
def Group.settledBut (keep : Nat → Bool) (g : Group) : Group :=
  g.mapThreads fun t =>
    if keep t.lane then t
    else
      let v := t.v.map fun r => { r with wait := [] }
      let h := t.h.map fun e => { e with wait := [] }
      { t with v := v, h := h }

/-- The threads of a mask whose operands have arrived: those without which nothing else holds the instruction back. -/
def State.arrivedOf (s : State) (g : Group) (m : DWord) : DWord :=
  if goesOn ((s.putGroup (g.settledBut fun _ => false)).issue g.core g.slot m).out then
    laneMask (((g.inMask m).filter fun t =>
      goesOn ((s.putGroup (g.settledBut fun l => l == t.lane)).issue g.core g.slot m).out).map (·.lane))
  else 0#64

/-- The cohort that a mask gives: the whole of it, or the threads whose operands have arrived; none if nothing may issue. -/
def State.cohortOf (s : State) (g : Group) (m : DWord) : Option DWord :=
  if goesOn (s.issue g.core g.slot m).out then some m
  else
    let a := s.arrivedOf g m
    if a != 0#64 && a != m && goesOn (s.issue g.core g.slot a).out then some a else none

/-- A cohort that is ready to issue. -/
structure Cohort where
  core    : Nat
  slot    : Nat
  quarter : Nat
  lanes   : DWord
  cls     : Nat
  since   : Nat
  deriving DecidableEq, Repr

/-- The words at which a mask of a group's threads stands, if they are all there. -/
def State.wordsAt (s : State) (g : Group) (m : DWord) : List Word :=
  match g.inMask m with
  | [] => []
  | t :: _ =>
    match s.fetch (g.poster t.lane) t.pc with
    | .words ws => ws
    | _ => []

/-- When a mask of threads became ready: with its first thread; but while an instruction acts for a converged set or the whole
group its threads are converging until the last has come (R169, R262, R336, R337). -/
def State.readySince (s : State) (g : Group) (m : DWord) : Nat :=
  let ts := (g.inMask m).map (·.since)
  let ws := s.wordsAt g m
  if crossesLanes ws || actsForGroup ws then ts.max?.getD 0 else ts.min?.getD 0

/-- The ready cohorts of a group. -/
def State.readyOf (s : State) (g : Group) : List Cohort :=
  if !s.groupRuns g then []
  else (s.cohorts g).filterMap fun m =>
    (s.cohortOf g m).map fun c =>
      { core := g.core, slot := g.slot, quarter := g.quarter, lanes := c, cls := g.effClass
        since := s.readySince g c }

/-! ## The lead of a quarter (R336, R337) -/

/-- How far a slot lies after the one last chosen in its quarter. -/
def State.turn (s : State) (c : Cohort) : Nat := (c.slot + 1023 - (s.core c.core).last.getD c.quarter 0) % 512

/-- Does a cohort lead another of its quarter? -/
def State.leads (s : State) (a b : Cohort) : Bool :=
  decide (b.cls < a.cls) || (a.cls == b.cls && (decide (a.since < b.since) ||
    (a.since == b.since && decide (s.turn a < s.turn b))))

/-- The words at which a cohort stands, if they are all there. -/
def State.wordsOf (s : State) (c : Cohort) : List Word :=
  match s.group? c.core c.slot with
  | some g => s.wordsAt g c.lanes
  | none => []

/-- Are the words those of a matrix post, which draws tokens (R414)? -/
def drawsTokens (ws : List Word) : Bool :=
  match ws with
  | w :: _ => fld w 24 8 == 0xB0#8 || (fld w 24 8 == 0x16#8 && fld w 18 6 == CmdQ.qm.code)
  | [] => false

/-- Are the words those of an instruction that may write a register of its core (R107, R108, R416, R417)? -/
def writesCore (ws : List Word) : Bool :=
  match decode ws with
  | .ok (.csrw _ c) | .ok (.csrs _ c) | .ok (.csrc _ c) => 0x040 ≤ c.toNat
  | .ok (.bpcWrite ..) | .ok (.tcmpSet ..) | .ok (.cntCfg ..) | .ok (.cntClr ..) => true
  | _ => false

/-- Must a cohort let another of the same cycle go first: of two that post to the pool of one die, the one of the earlier site
and quarter (R27, R414), of two that write registers of one core the one of the earlier quarter (R107)? -/
def State.yields (s : State) (c d : Cohort) : Bool :=
  let quarter := d.core == c.core && d.quarter < c.quarter
  let posts := s.dieOf d.core == s.dieOf c.core && (s.siteOf d.core < s.siteOf c.core || quarter)
  d.since == c.since && (posts || quarter) &&
    ((posts && drawsTokens (s.wordsOf c) && drawsTokens (s.wordsOf d)) ||
      (quarter && writesCore (s.wordsOf c) && writesCore (s.wordsOf d)))

/-- The cohorts that may issue next: those no other of their quarter leads. Token requests of one cycle are made in order of
site and quarter, writes of a core's registers in order of quarter. -/
def State.leadsOf (s : State) (cs : List Cohort) : List Cohort :=
  let ls := cs.filter fun c => !cs.any fun d => d.core == c.core && d.quarter == c.quarter && s.leads d c
  ls.filter fun c => !ls.any fun d => s.yields c d

/-! ## Packing (R336 step 4) -/

/-- Are the words those of a vector-class instruction that acts per thread? -/
def packs (ws : List Word) : Bool :=
  match splitWords ws with
  | some q => [0x01, 0x02, 0x03, 0x04, 0x05, 0x06, 0x07, 0x12, 0x13, 0x14, 0x15, 0x32].contains (fld q.base 24 6).toNat
  | none => false

/-- Slices of a quarter that a cohort needs in the aligned range that begins at a lane: those that hold its threads. -/
def slicesAt (lanes : DWord) (lo : Nat) : List Nat :=
  (List.range 16).filter fun k => 4 * k + 4 ≤ 64 && lo ≤ 4 * k && bits lanes (4 * k - lo + 3) (4 * k - lo) != 0

/-- The lowest aligned range of `gw` lanes in which a cohort's slices are free. -/
def rangeFor (taken : List Nat) (gw : Nat) (lanes : DWord) : Option (List Nat) :=
  ((List.range (64 / gw)).map fun i => slicesAt lanes (i * gw)).find? fun l => l.all fun k => !taken.contains k

/-- Insert a cohort in the order of R336 step 3. -/
def State.insertCohort (s : State) (c : Cohort) : List Cohort → List Cohort
  | [] => [c]
  | d :: r => if s.leads c d then c :: d :: r else d :: s.insertCohort c r

/-- May a cohort be packed with a lead: one of another group of its launch and quarter, at its address? -/
def State.packable (s : State) (a c : Cohort) : Bool :=
  match s.group? a.core a.slot, s.group? c.core c.slot with
  | some g, some h =>
    a.core == c.core && a.quarter == c.quarter && a.slot != c.slot && g.lq == h.lq && g.lseq == h.lseq &&
      ((g.inMask a.lanes).head?.map (·.pc)) == ((h.inMask c.lanes).head?.map (·.pc))
  | _, _ => false

/-- Take the cohorts that fit, in order. -/
def State.fitting (s : State) : List Nat → List Cohort → List Cohort
  | _, [] => []
  | taken, c :: r =>
    match (s.group? c.core c.slot).bind fun g => rangeFor taken g.gw c.lanes with
    | some l => c :: s.fitting (l ++ taken) r
    | none => s.fitting taken r

/-- The cohorts that issue in one cycle with a lead (R336 step 4). -/
def State.packed (s : State) (a : Cohort) (ready : List Cohort) : List Cohort :=
  match ready.filter (s.packable a) with
  | [] => []
  | cs =>
    if !packs (s.wordsOf a) then []
    else match (s.group? a.core a.slot).bind fun g => rangeFor [] g.gw a.lanes with
      | none => []
      | some l => s.fitting l (cs.foldl (fun o c => s.insertCohort c o) [])

/-! ## What the device may do of itself -/

/-- Does an instruction stand for something that the world outside does? -/
def fromOutside (i : Instr) : Bool :=
  match i with
  | .netPacketReceive .. | .ingestPacket .. | .ssdDataAccess .. | .nvmeCompletion .. | .softError .. | .portLinkChange ..
  | .powerOn | .pinReset | .thermtrip | .powerRemoval | .resetNAsserted => true
  | _ => false

/-- Does it act on a part that is not running? -/
def actsOnPower (i : Instr) : Bool :=
  match i with
  | .powerOn | .pinReset | .thermtrip | .powerRemoval | .resetNAsserted => true
  | _ => false

/-- Steps of the device that threads of a group may be due. -/
def Group.dues (g : Group) : List Instr :=
  g.threads.flatMap fun t =>
    (match t.st with
     | .sleeping _ => [Instr.sleepExpiry g.core g.slot t.lane]
     | .wfe _ => [.wfeWake g.core g.slot t.lane]
     | .ecallStall _ _ _ => [.ecallRetry g.core g.slot t.lane]
     | .ready => if t.bpSkip then [] else [.breakpointMatch g.core g.slot t.lane]
     | _ => []) ++ (if t.logErr.isSome then [.logReplayRecord g.core g.slot t.lane] else [])

/-- Steps of the device that tables of the device window may have pending: fabric domains that drain, segments that are being
zeroed. -/
def State.tableDues (s : State) : List Instr :=
  s.dev.flatMap fun e =>
    let o := 8 * e.1
    if dev3 + 0x2000 ≤ o && o < dev3 + 0x3000 && o % 64 == 0 then [Instr.domainDrained ((o - (dev3 + 0x2000)) / 64)]
    else if vatOff 0 0 ≤ o && o < vatOff 288 0 then
      let site := (o - vatOff 0 0) / 512
      let seg := (o - vatOff 0 0) % 512 / 4
      [.segmentZeroingDone site seg, .segmentZeroingDone site (seg + 1)]
    else []

/-- Every step of the device that may be due, whether or not it is. -/
def State.dues (s : State) : List Instr :=
  List.flatten [
    s.flights.map fun f => .loadDataArrival f.id,
    (s.icache.filter fun l => !l.full).map fun l => .icacheFill l.core l.line,
    s.walks.map fun w => .translationWalkDone w.id,
    s.mcmds.flatMap fun c => .mmaStart c.id :: .mmaComplete c.id :: c.parts.map fun p => .arrayFinish c.id p.1,
    s.ccmds.flatMap fun c => .copyEnterFlight c.id :: .copyComplete c.id :: .followOnAppend c.id ::
      c.todo.flatMap fun r => [.copyRowLanding c.id r, .copyFail c.id r],
    s.ncmds.flatMap fun c => [.netCommandStart c.id, .netLocalCompletion c.id],
    s.sentq.map fun x => .packetRetransmit x.id,
    s.ringq.map fun r => .completionRingSpace r.id,
    if s.launches.isEmpty then [] else [.launchStart],
    s.launches.flatMap fun l => [.teamRelease l.lq l.lseq, .teamPlacement l.lq l.lseq],
    s.teams.flatMap fun t => [.teamRetire t.num, .scratchpadClearDone t.num],
    s.groups.flatMap fun g => if g.fzC then .groupTeardown g.core g.slot :: g.dues else g.dues,
    (s.pending.map (·.1)).eraseDups.map fun c => .deviceRecordPost c,
    s.swaps.map fun j => .swapoutDrainDone j.core,
    (s.errs.filterMap fun m => match m.place with
      | .byte k => some (k / 128)
      | _ => none).eraseDups.map fun l => .patrol l,
    (List.range 16).map fun n => .hotnessIntervalEnd n,
    s.held.map fun h => .ingestHeldWrite h.id,
    (s.pauses.filter (·.on)).flatMap fun p => p.claims.map fun c => .xoffRefresh c.1 c.2,
    s.bells.map fun b => .doorbellWrite b.id,
    s.resv.map fun r => .wayGlazingDone r.1,
    s.tableDues,
    .potInitialisationDone :: (if s.plan.isSome then [.clockRelock] else []),
    (s.busy.map fun b => b.1 / 65536).eraseDups.map fun b => .flashOperationDone (65536 * b),
    ((List.range 8).filter fun n => !s.trained.contains n).map fun n => .stackTrainingDone n]

/-! ## What may happen next -/

/-- A next move: a step of the device or of the world outside, or the issue of a cohort. -/
inductive Move where
  | input (i : Instr)
  | device (i : Instr)
  | issue (c : Cohort)
  deriving DecidableEq, Repr

/-- Clocks of barriers (R406). -/
def State.barClocks (s : State) : List Instr :=
  s.teams.flatMap fun t =>
    if t.bto == 0 then []
    else .barTimeout t.num 0 0 :: .barTimeout t.num 1 0 ::
      (List.range 16).flatMap fun n => [.barTimeout t.num 2 n, .barTimeout t.num 3 n]

/-- What is due at a time, and happens before anything else does: classes that rise (R338), barriers that time out (R406),
launches that have waited for their turn (R329), timers (R408) and pauses whose budget is spent (R346). -/
def State.rising (s : State) : List Instr :=
  (List.flatten [
    (s.groups.filter fun g => g.age).map fun g => .agingPromotion g.core g.slot,
    s.barClocks,
    s.launches.map fun l => .fairnessExpiry l.lq l.lseq,
    s.cores.flatMap fun c => c.tcmp.map fun x => .timerFire c.core x.1,
    s.held.map fun h => .pauseBudgetExpiry h.die h.rule]).filter fun i => goesOn (exec i s)

/-- Steps of the device that are due. -/
def State.ripe (s : State) : List Instr := s.dues.filter fun i => goesOn (exec i s)

/-- Everything that may happen next in a running device. -/
def State.moves (s : State) : List Move :=
  match s.rising with
  | i :: _ => [.device i]
  | [] =>
    (match s.inputs with
     | i :: _ => if !fromOutside i || goesOn (exec i s) then [.input i] else []
     | [] => []) ++
    s.ripe.map .device ++
    (s.leadsOf (s.groups.flatMap s.readyOf)).map .issue

/-! ## What every step leaves behind -/

/-- Count an event in a core's own counters for the cycles that a step takes: `on` says whether it holds for a world, 0
standing for every world (R418, R419). -/
def State.cycleEvent (s : State) (evt n : Nat) (on : Nat → Nat → Bool) : State :=
  s.cores.foldl (fun u c => (List.range 8).foldl (fun w i =>
    let cfg := c.cnsel.getD i 0
    if bitAt cfg 8 && bits cfg 5 0 == evt && on c.core (bits cfg 21 16) then w.bump c.core i n evt else w) u) s

/-- Count what a step posted, started or appended; such things carry numbers drawn in the step. -/
def State.countNew (old s : State) : State :=
  if s.cores.isEmpty then s
  else
    let s1 := (s.walks.filter fun w => old.fresh ≤ w.id).foldl (fun u w => u.count w.core w.world.toNat 0x11 1) s
    let s2 := (s.faultq.filter fun q => old.fresh ≤ q.seq).foldl (fun u q => u.count q.core q.body.world.toNat 0x12 1) s1
    let world (c n : Nat) : Nat := match s.group? c n with
      | some g => g.world.toNat
      | none => 0
    let s3 := (s.slog.filter fun e => old.fresh ≤ e.seq).foldl (fun u e => u.count e.core (world e.core e.slot) 0x13 1) s2
    (s.easel.filter fun q => old.fresh ≤ q.seq).foldl (fun u q => u.count q.core q.body.world.toNat 0x14 1) s3

/-- Count the cycles of a step, and by open amounts what no program can tell: array cycles, and L1 and TLB lookups
(R419). `ready` are the cohorts that were ready and did not issue. -/
def State.countCycles (s : State) (n : Nat) (ready : List Cohort) : State :=
  if s.cores.isEmpty then s
  else
    let is (w : Nat) (g : Group) : Bool := w == 0 || g.world.toNat == w
    let here (p : Group → Bool) (c w : Nat) : Bool := s.groups.any fun g => g.core == c && is w g && p g
    let s1 := s.cycleEvent 0x00 n (here fun _ => true)
    let s2 := s1.cycleEvent 0x04 n (here fun g => ready.any fun r => r.core == g.core && r.slot == g.slot)
    let s3 := s2.cycleEvent 0x08 n (here fun g => s.tokq.any fun r => r.core == g.core && r.slot == g.slot)
    let s4 := s3.cycleEvent 0x1D n (here fun g => g.frozen)
    let busy (c w : Nat) : Bool := s.mcmds.any fun m => m.running && m.by_.core == c && (w == 0 || m.by_.world.toNat == w)
    let some_ (e : Nat) : Nat := (Config.free 16 s.tick (800000 + e)).toNat
    [0x0E, 0x0F, 0x10].foldl (fun u e => u.cycleEvent e (some_ e) (here fun _ => true)) (s4.cycleEvent 0x07 (some_ 0x07) busy)

/-- May events that the machine does not tell one by one occur in a unit for the counter that a selector names? Those of L2
slices and controllers belong to the world of a page, rate reductions to a fabric domain, link retries to no world; slices 44 to
47 of die 0 cache nothing while they hold the copy of the image (R418, R419, R429). -/
def State.openEvent (s : State) (sel : Nat) : Bool :=
  let cfg := (s.unitCnt sel).2
  let e := bits cfg 5 0
  let w := bits cfg 21 16
  let all := bitAt cfg 22 || w == 0
  let owns := all || s.pot.any fun x => potWorld x.2 == w
  let copying := s.copy.isSome && 44 ≤ sel % 4096 / 16 && sel % 4096 / 16 < 48
  match sel / 4096 with
  | 1 => 0x20 ≤ e && e ≤ 0x2A && e != 0x29 && owns && !(copying && [0x21, 0x23, 0x25].contains e)
  | 2 => [0x2C, 0x2D, 0x2E, 0x2F, 0x30, 0x32, 0x34, 0x35].contains e && owns
  | 3 => e == 0x3D || (e == 0x3E && all)
  | _ => false

/-- The counters of units rise by open amounts for events that no program can tell (R419). -/
def State.countUnits (s : State) : State :=
  (s.ucnt.map (·.1)).foldl (fun u sel =>
    let cfg := (u.unitCnt sel).2
    if bitAt cfg 8 && s.openEvent sel then u.bumpUnit sel (Config.free 16 s.tick (810000 + sel)).toNat (bits cfg 5 0) else u) s

/-- Barrier clocks stand still while a group of the barrier's extent is frozen (R406). -/
def State.pauseClocks (s : State) (ns : Nat) : State :=
  let stop (o : Option Nat) : Option Nat := o.map (· + ns)
  let held (g : Group) : Bool := g.frozen
  let away (p : Group → Bool) : Bool := s.images.any fun i => i.groups.any p
  let shift (t : Team) : Team :=
    let t1 := if (s.groupsOf t.num).any held then
        let cbs := t.cbs.map fun b => { b with since := stop b.since }
        let nbs := t.nbs.map fun b => { b with since := stop b.since }
        { t with tbSince := stop t.tbSince, cbs := cbs, nbs := nbs }
      else t
    if (s.groups.any fun g => held g && t.sameCluster g) || away t.sameCluster then { t1 with cbSince := stop t.cbSince } else t1
  { s with teams := s.teams.map shift }

/-- A token request leaves its queue when its group is frozen, cancelled or gone (R414). -/
def State.dropRequests (s : State) : State :=
  if s.tokq.isEmpty then s
  else { s with tokq := s.tokq.filter fun r => match s.group? r.core r.slot with
    | some g => !g.frozen && !g.dead && !g.live.isEmpty
    | none => false }

/-- Cycles in which a group that ages held a ready cohort count towards its rise (R338). -/
def State.age (s : State) (n : Nat) (ready : List Cohort) : State :=
  let wait (g : Group) : Group :=
    if g.age && ready.any fun c => c.core == g.core && c.slot == g.slot then { g with waited := g.waited + n } else g
  { s with groups := s.groups.map wait }

/-- A prefetch that is outstanding may be performed in a step, or not yet (R227). -/
def State.prefetchStep (s : State) : State :=
  match s.prefs with
  | [] => s
  | q :: r =>
    if Config.free 1 s.tick 62000 == 1#1 then
      s.prefArrive (((q :: r)[(Config.free 8 s.tick 62001).toNat % (r.length + 1)]?).getD q)
    else s

/-- The end of a step: time passes. `ready` are cohorts that were ready and did not issue. -/
def finish (old : State) (ready : List Cohort) (u : State) : State :=
  let n := 1 + Config.lapse old.tick
  let ns := Config.elapsed old.tick
  let s1 := (((old.countNew u).prefetchStep.closeDomains.hotRequests).dropRequests).expireTokens
  let s2 := ((s1.age n ready).countCycles n ready).countUnits.pauseClocks ns
  { s2 with
    tick := u.tick + 1, cycle := u.cycle + n, time := u.time + BitVec.ofNat 64 ns, stalled := false
    cur := { core := 0, slot := 0, lanes := 0, words := [] } }

/-! ## The step -/

/-- What the issue of a cohort leaves behind: it is its quarter's last, its group's wait begins anew, and it is counted
(R336, R338, R419). DEDUCED (log entry 7): of cohorts packed with a lead the last one's slot is the slot last chosen. -/
def State.issuedBy (u : State) (c : Cohort) (i : Option Instr) (words : List Word) (world : Nat) : State :=
  let r := u.core c.core
  let fresh (g : Group) : Group := if g.core == c.core && g.slot == c.slot then { g with waited := 0, boost := 0 } else g
  let s1 := { u.setCore { r with last := r.last.set c.quarter c.slot } with groups := u.groups.map fresh }
  let s2 := (s1.count c.core world 0x01 1).count c.core world 0x02 (countLanes c.lanes)
  let s3 := if isFloatWords words then s2.count c.core world 0x05 1 else s2
  match i.bind memoryEvent with
  | some e => s3.count c.core world e 1
  | none => s3

/-- The world of a group at a core and slot. -/
def State.worldAt (s : State) (core slot : Nat) : Nat :=
  match s.group? core slot with
  | some g => g.world.toNat
  | none => 0

/-- Apply what follows to a next state. -/
def after (o : Out) (f : State → State) : Out :=
  match o with
  | .next u => .next (f u)
  | .fault x => .fault x
  | .refused x => .refused x

/-- Threads of a group that belong to a ready cohort. -/
def State.readyLanes (s : State) (core slot : Nat) : DWord :=
  match s.group? core slot with
  | some g => (s.readyOf g).foldl (fun m c => m ||| c.lanes) 0#64
  | none => 0#64

/-- Threads that waited for something else and that a move lets issue are ready since that move, as when their data arrive, a
queue gets room or their group thaws (R336, R337). -/
def State.renew (u old : State) : State :=
  u.groups.foldl (fun v g =>
    if g.threads.any fun t => t.st == .ready && decide (t.since < u.cycle) then
      let new := u.readyLanes g.core g.slot &&& ~~~old.readyLanes g.core g.slot
      if new == 0#64 then v
      else v.mapLanes g.core g.slot new fun t => if t.since < u.cycle then { t with since := u.cycle } else t
    else v) u

/-- Does a step only bring what an instruction needs to be fetched or translated? Its thread was ready before (R336). -/
def bringsWords (i : Instr) : Bool :=
  match i with
  | .icacheFill .. | .translationWalkDone .. => true
  | _ => false

/-- Lines of the instruction cache that hold the words of a cohort's instruction. -/
def State.wordLines (s : State) (c : Cohort) : List (BitVec 6 × Nat) :=
  match s.group? c.core c.slot with
  | none => []
  | some g =>
    match g.inMask c.lanes with
    | [] => []
    | t :: _ => ((List.range (s.wordsAt g c.lanes).length).filterMap fun i =>
        match s.fetchAt (g.poster t.lane) (t.pc + BitVec.ofNat 64 (4 * i)) with
        | .keys (k :: _) _ _ _ => some (g.world, k / 128)
        | _ => none).eraseDups

/-- Lines that delivered words are the most recently used of their sets (R432). -/
def State.useLines (u : State) (core : Nat) (ls : List (BitVec 6 × Nat)) : State :=
  let used (l : ICLine) : Bool := l.core == core && ls.contains (l.world, l.line)
  { u with icache := u.icache.filter used ++ u.icache.filter fun l => !used l }

/-- Issue a cohort, and the ones packed with it one after another, each with open values of its own. Each counts as packed
(R2, R419, log entry 7). -/
def State.issueAll (s : State) (ready : List Cohort) : List Cohort → State → Out
  | [], u => .next (finish s ready (u.renew s))
  | c :: cs, u =>
    let r := { u with stalled := false }.issue c.core c.slot c.lanes
    match r.out with
    | .next v =>
      if v.stalled then s.issueAll ready cs u
      else if r.done then
        let world := s.worldAt c.core c.slot
        let w := ((v.issuedBy c r.ins v.cur.words world).count c.core world 0x03 1).useLines c.core (u.wordLines c)
        s.issueAll (ready.filter fun d => d != c) cs { w with tick := w.tick + 1 }
      else s.issueAll ready cs { v with tick := v.tick + 1 }
    | .fault x => .fault x
    | .refused x => .refused x

/-- Make one move. An input that is nothing the world outside does is passed over. -/
def State.take (s : State) (m : Move) (ready : List Cohort) : Out :=
  match m with
  | .input i =>
    let s1 := { s with inputs := s.inputs.drop 1 }
    if fromOutside i then after (exec i s1) fun u => finish s ready (u.renew s) else .next (finish s ready s1)
  | .device i => after (exec i s) fun u => finish s ready (if bringsWords i then u else u.renew s)
  | .issue c =>
    match s.packed c (s.groups.flatMap s.readyOf) with
    | [] =>
      let r := s.issue c.core c.slot c.lanes
      after r.out fun u =>
        if r.done then
          finish s (ready.filter fun d => d != c)
            (((u.issuedBy c r.ins u.cur.words (s.worldAt c.core c.slot)).useLines c.core (s.wordLines c)).renew s)
        else finish s ready u
    | cs => s.issueAll ready (c :: cs) s

/-- Since when a step of the device has been due. -/
def State.dueSince (s : State) (i : Instr) : Nat := ((s.due.find? fun x => x.1 == i).map (·.2)).getD s.cycle

/-- Since when a move could have been made; an input of the world outside never has to be taken. -/
def State.moveSince (s : State) : Move → Option Nat
  | .input _ => none
  | .device i => some (s.dueSince i)
  | .issue c => some c.since

/-- The move that has waited longest of those that can be passed over no longer: nothing that may happen waits for ever
(R337, R441, log entry 102). -/
def State.overdue (s : State) (ms : List Move) : Option Move :=
  let late (m : Move) : Option Nat := (s.moveSince m).filter fun c => decide (c + Config.patience ≤ s.cycle)
  let oldest := (ms.filterMap late).min?
  ms.find? fun m => oldest.isSome && late m == oldest

/-- The move that a running device makes: the only one, one that is overdue, or an open choice (log entry 2). -/
def State.chosen (s : State) : List Move → Option Move
  | [] => none
  | [m] => some m
  | m :: ms => some ((s.overdue (m :: ms)).getD
      (((m :: ms)[Config.pick s.tick (ms.length + 1) % (ms.length + 1)]?).getD m))

/-- The steps that were due and were not taken keep the cycle since which they have been. -/
def State.passOver (u s : State) (m : Option Move) : State :=
  { u with due := (s.ripe.filter fun i => m != some (.device i)).map fun i => (i, s.dueSince i) }

/-- A step of a running device: a move, or the passing of time. -/
def State.run (s : State) : Out :=
  let ready := if s.groups.any (·.age) || !s.cores.isEmpty then s.groups.flatMap s.readyOf else []
  let m := s.chosen s.moves
  after (match m with
    | none => .next (finish s ready s)
    | some x => s.take x ready) fun u => u.passOver s m

/-- A step without clocks. Only `c.time` counts on, while the part has power (R407, R420). -/
def State.still (s u : State) : State :=
  let ns := if u.phase == .off || u.phase == .tripped then 0 else Config.elapsed s.tick
  { u with tick := s.tick + 1, stalled := false, time := u.time + BitVec.ofNat 64 ns }

/-- A step of a part that is not running, whose clocks stand still: power and resets act on it, and whatever else reaches it is
lost (R28, R420, R425). -/
def State.idle (s : State) : Out :=
  match s.inputs with
  | [] => .next (s.still s)
  | i :: r =>
    let s1 := { s with inputs := r }
    if actsOnPower i then
      (match exec i s1 with
       | .next u => .next (s.still (if u.stalled then s1 else u))
       | .fault x => .fault x
       | .refused x => .refused x)
    else .next (s.still s1)

/-- One step of the device. -/
def State.advance (s : State) : Out :=
  match s.phase with
  | .rom => .next (finish s [] s.rom)
  | .running => s.run
  | _ => s.idle

/-! ## A program for the next step -/

/-- Where the instruction of `withWord` stands: an offset in the flash. -/
def probeOffset : Nat := 65536

/-- The F group of core 0 alone, at an address, in slot 0. -/
def State.placeProbe (s : State) (pc : DWord) : State :=
  let u := s.placeFirst pc 0
  let slot (g : Group) : Group := { g with slot := 0 }
  { u with groups := u.groups.map slot }

/-- The device running one F group on core 0, as the ROM leaves it (R428), with bytes at its `pc`: they stand in the copy of
the image and in the instruction cache. Every stack is trained, so that nothing else is due (log entry 19). -/
def State.withWord (s : State) (bytes : List Byte) : State :=
  let key := flashKey probeOffset
  let s1 := ({ s with phase := .running, bootstat := 1, groups := [], teams := [], inputs := [] } : State).placeProbe
    (BitVec.ofNat 64 key)
  let line : ICLine :=
    { core := 0, world := 0, line := key / 128, full := true, pf := false, bad := [], by_ := supervisor 0 0 0, bytes := bytes ++ List.replicate (128 - bytes.length) 0xFF#8 }
  { s1 with
    copy := some (probeOffset, bytes.length), copyMem := memFill [] key bytes, trained := List.range 8, icache := [line] }

end

end Sys2Proof.Machine
end

