-- ==== Sys2Proof/Machine/Step.lean ====
section
/-! DEFINITION. The step function of the device, and the placing of one instruction for it to run. -/

namespace Sys2Proof.Machine

/-- One step of the device. -/
noncomputable def step (s : State) : Host.Outcome State Fault Refusal := s.advance

/-- The device with the instruction whose bits are `w` where the next step fetches: `State.withWord` says where. -/
noncomputable def State.withFetchWord (s : State) (nbits w : Nat) : State := s.withWord (tableBytes nbits w)

end Sys2Proof.Machine
end

