-- ==== Sys2Proof/Safety.lean ====
section
/-! DEFINITION. What counts as a safe run of the device, and the terms in which claims about its instructions are stated. -/

namespace Sys2Proof.Machine

/-! ## Safe runs -/

/-- An answer that moves on: the device neither stops with a model fault nor refuses. -/
def Answers (o : Out) : Prop := ∃ t, o = .next t

/-- The group whose cohort executes. -/
def Issuer (s : State) (g : Group) : Prop := s.group? s.cur.core s.cur.slot = some g

/-! ## Vector instructions (R62, R93 to R96, R120) -/

/-- A vector instruction as the tables give it: prefix, destination with its width, sources with theirs, and the fourth
operand's width if there is one. -/
def vin (p : Option Pfx) (d : Sel) (dw : DW) (srcs : List (Sel × Bool)) (four : Option Bool) : VInst :=
  { p := p, d := d, dw := dw, srcs := srcs, four := four, old := false }

/-- A vector instruction issues and completes for the cohort of `g`: no register at or above NREG is named (R91), the prefix
mask is not poisoned, or the group may consume poison (R102), and the operands of every active lane have arrived (R94). -/
structure VReady (s : State) (g : Group) (x : VInst) : Prop where
  issuer  : Issuer s g
  regs    : g.nregOk x.names = true
  mask    : pfxFaults g x.p = false
  arrived : x.waits s g (pfxLanes s.tick g x.p).1 = false

/-- A thread of the group after the instruction: a lane of the cohort moves past it, an active one with its result written
and pushed, an inactive one as the policy says. -/
def vecThread (s : State) (g : Group) (x : VInst) (r : Thread → List DWord → LaneRes) (t : Thread) : Thread :=
  if laneBit s.cur.lanes t.lane then
    s.past
      (if laneBit (pfxLanes s.tick g x.p).1 t.lane then
        activeLane s x (pfxLanes s.tick g x.p).2 g t (r t ((x.values s.tick g t).map fun v => v.val.setWidth 64))
      else inactiveLane s.tick g x.p x.dw x.d [] t)
  else t

/-- The active lanes of the cohort. -/
def activeThreads (s : State) (g : Group) (p : Option Pfx) : List Thread := g.inMask (s.cur.lanes &&& (pfxLanes s.tick g p).1)

/-- The state after a vector instruction whose lanes compute `r`: only the issuing group changes. -/
def vecNext (s : State) (g : Group) (x : VInst) (r : Thread → List DWord → LaneRes) : State :=
  s.putGroup
    { (g.mapThreads (vecThread s g x r)).noteWrites
        (if pfxZeroes x.p then s.cur.lanes else s.cur.lanes &&& (pfxLanes s.tick g x.p).1) x.dw x.d with
      fflags := g.fflags ||| (activeThreads s g x.p).foldl
        (fun m t => m ||| (r t ((x.values s.tick g t).map fun v => v.val.setWidth 64)).flags) 0#5 }

/-- A vector instruction that raises no flag: its result from the operands' values. -/
def intDone (s : State) (g : Group) (x : VInst) (r : List DWord → BitVec 128) : Out :=
  .next (vecNext s g x fun t v => { val := r v, flags := 0#5, srg := t.srg })

/-- A vector float instruction on elements of type `t`: `op` gives each element's result and flags in the resolved rounding
mode (R36, R39, R139). -/
def floatDone (s : State) (g : Group) (x : VInst) (t : FTy) (op : FF → RMode → Nat → List Nat → Nat × BitVec 5) : Out :=
  .next (vecNext s g x fun th v =>
    let r := perElem t (fun f k xs => op f (modeOf g x.p) k xs) v
    { val := BitVec.ofNat 128 r.1, flags := r.2, srg := th.srg })

/-- The state after a compare into mask `d` (0x3F: none): each active lane's bit says whether `r` holds of its operands,
and the cohort moves past the instruction (R132, R147). -/
def compareNext (s : State) (g : Group) (x : VInst) (d : Sel) (r : List DWord → Bool × BitVec 5) : State :=
  let act := (pfxLanes s.tick g x.p).1
  let run := activeThreads s g x.p
  let res (t : Thread) : Bool × BitVec 5 := r ((x.values s.tick g t).map fun v => v.val.setWidth 64)
  let g1 := movePast s { g with fflags := g.fflags ||| run.foldl (fun m t => m ||| (res t).2) 0#5 }
  s.putGroup (if d = 0x3F#6 then g1
    else maskUpdate g1 d.toNat s.cur.lanes act (pfxZero x.p) (laneMask ((run.filter fun t => (res t).1).map (·.lane)))
      (run.any (fun t => (x.values s.tick g t).any (·.poison)) || ((pfxLanes s.tick g x.p).2 && !run.isEmpty)))

/-! ## Scalar instructions (R99, R133, R135) -/

/-- A scalar result for the cohort of `g`: `sD` receives `x` with the taint and poison of the sources, and the cohort moves past
the instruction. -/
def scalarTo (s : State) (g : Group) (d : Sel) (x : DWord) (srcs : List Val64) : Out :=
  .next (s.putGroup (movePast s
    (g.setScalar d { val := x, taint := srcs.any (·.taint), poison := srcs.any (·.poison) })))

/-! ## Cross-lane instructions (R157, R158) -/

/-- A cross-lane instruction issues for its participant set `m`: the whole converged set of the cohort is ready at it, and it
names no register at or above NREG. -/
structure XReady (s : State) (g : Group) (regs : List (Sel × Nat)) (m : DWord) : Prop where
  issuer : Issuer s g
  regs   : g.nregOk regs = true
  set    : participants s g = some m

/-- The thread after an instruction that wrote and pushed `v` in it: its registers and history are those of the write and the
push, and it stands at the next instruction; everything else but its readiness is as it was. -/
def WroteLane (s : State) (th th' : Thread) (w : DW) (d : Sel) (v : Val) : Prop :=
  th' = { pushVal (writeDst th w d v) w v with
    pc := th.pc + s.instBytes, since := s.cycle + 1 + Config.latency s.tick, bpSkip := false }

/-- The group at the place of `g` after a step is `g'`. -/
def After (t : State) (g g' : Group) : Prop := t.group? g.core g.slot = some g'

/-- No group but that at the place of `g` has changed, nor any other field of the state. -/
def OnlyGroup (s t : State) (g : Group) : Prop := ∃ g', g'.core = g.core ∧ g'.slot = g.slot ∧ t = s.putGroup g'

/-! ## Integer results, in the terms of chapters 02 and 05 -/

/-- Operand `i` at 32 bits. -/
def opnd32 (v : List DWord) (i : Nat) : BitVec 32 := (v.getD i 0#64).setWidth 32

/-- Operand `i` at 64 bits. -/
def opnd64 (v : List DWord) (i : Nat) : BitVec 64 := v.getD i 0#64

/-- A result of a one-operand function of either width. -/
def un1 (w : Bool) (f : (n : Nat) → BitVec n → BitVec n) (v : List DWord) : BitVec 128 :=
  if w then (f 64 (opnd64 v 0)).setWidth 128 else (f 32 (opnd32 v 0)).setWidth 128

/-- A result of a two-operand function of either width. -/
def bin2 (w : Bool) (f : (n : Nat) → BitVec n → BitVec n → BitVec n) (v : List DWord) : BitVec 128 :=
  if w then (f 64 (opnd64 v 0) (opnd64 v 1)).setWidth 128 else (f 32 (opnd32 v 0) (opnd32 v 1)).setWidth 128

/-- A result of a shift of either width, by bits 7..0 of the second operand (R123). -/
def shift2 (w : Bool) (f : (n : Nat) → BitVec n → Nat → BitVec n) (v : List DWord) : BitVec 128 :=
  if w then (f 64 (opnd64 v 0) ((opnd32 v 1).toNat % 256)).setWidth 128
  else (f 32 (opnd32 v 0) ((opnd32 v 1).toNat % 256)).setWidth 128

/-- A result of a three-operand function of either width. -/
def tern3 (w : Bool) (f : (n : Nat) → BitVec n → BitVec n → BitVec n → BitVec n) (v : List DWord) : BitVec 128 :=
  if w then (f 64 (opnd64 v 0) (opnd64 v 1) (opnd64 v 2)).setWidth 128
  else (f 32 (opnd32 v 0) (opnd32 v 1) (opnd32 v 2)).setWidth 128

/-- The exact value of an operand as SAT directs: unsigned under `sat=u`, else signed (R122). -/
def satNum (p : Option Pfx) {n : Nat} (x : BitVec n) : Int := if satOf p = 2#2 then (x.toNat : Int) else x.toInt

/-- An exact value fitted to `n` bits as SAT directs (R30). -/
def satFit (p : Option Pfx) (n : Nat) (x : Int) : BitVec n :=
  if satOf p = 1#2 then BitVec.ofInt n (max (-(2 ^ (n - 1))) (min (2 ^ (n - 1) - 1) x))
  else if satOf p = 2#2 then BitVec.ofInt n (max 0 (min (2 ^ n - 1) x))
  else BitVec.ofInt n x

/-- The field that `bfx` and `bfi` name: its position and its length, at most 32 (R126). -/
def fieldOf (b : BitVec 32) : Nat × Nat := (b.toNat % 256, min 32 (b.toNat / 256 % 256))

/-- The low `n` bits set. -/
def onesBelow (n : Nat) : BitVec 32 := BitVec.ofNat 32 (2 ^ n - 1)

/-- One result byte of `bsel`: the pool byte that a control byte takes, its fill and its reversal (R126). -/
def bselOf (pool : BitVec 64) (c : BitVec 8) : BitVec 8 :=
  let b := pool.extractLsb' (8 * (c.toNat % 8)) 8
  let f := match (c.extractLsb' 4 2).toNat with
    | 1 => if b.msb then 0xFF#8 else 0x00#8
    | 2 => 0x00#8
    | 3 => 0xFF#8
    | _ => b
  if c.getLsbD 3 then f.reverse else f

/-- The products of the `k`-bit elements of two words, each read signed or unsigned, added up (R128). -/
def dotOf (k : Nat) (sa sb : Bool) (a b : BitVec 32) : Int :=
  ((List.range (32 / k)).map fun i =>
    (if sa then (a.extractLsb' (k * i) k).toInt else (a.extractLsb' (k * i) k).toNat) *
      (if sb then (b.extractLsb' (k * i) k).toInt else (b.extractLsb' (k * i) k).toNat)).sum

/-- The immediate operand of VINT I at a width: the literal, or IMM8 with its sign (R54, R130). -/
def immOf (n : Nat) (i : Imm8) (lit : Option Imm) : BitVec n := (lit.getD (i.signExtend 64)).setWidth n

/-- The shift amount of the immediate forms: bits 7..0 of the literal, or IMM8 read unsigned (R130). -/
def immShift (i : Imm8) (lit : Option Imm) : Nat := (lit.map fun k => k.toNat % 256).getD i.toNat

/-! ## Floating-point values (R33 to R45), over the real numbers -/

/-- Biased exponent of an encoding. -/
def FF.expo (f : FF) (x : Nat) : Nat := x / 2 ^ f.frac % 2 ^ (f.width - 1 - f.frac)

/-- Fraction of an encoding. -/
def FF.fract (f : FF) (x : Nat) : Nat := x % 2 ^ f.frac

/-- An exponent of all ones. -/
def FF.topExpo (f : FF) : Nat := 2 ^ (f.width - 1 - f.frac) - 1

/-- Is the encoding a NaN of the format (R33)? -/
def FF.isNanEnc (f : FF) (x : Nat) : Bool :=
  match f with
  | .e4m3 => f.expo x == 15 && f.fract x == 7
  | .e2m1 => false
  | _ => f.expo x == f.topExpo && f.fract x != 0

/-- Is the encoding an infinity (R33)? -/
def FF.isInfEnc (f : FF) (x : Nat) : Bool :=
  match f with
  | .e4m3 | .e2m1 => false
  | _ => f.expo x == f.topExpo && f.fract x == 0

/-- Is the encoding a signalling NaN (R34)? -/
def FF.isSigEnc (f : FF) (x : Nat) : Bool := f.isNanEnc x && f != .e4m3 && !x.testBit (f.frac - 1)

/-- A finite encoding: of the format's width, and no NaN or infinity. -/
def FF.Finite (f : FF) (x : Nat) : Prop := x < 2 ^ f.width ∧ f.isNanEnc x = false ∧ f.isInfEnc x = false

/-- The value of an encoding by R33's formula. Of an infinity, which the formula does not mean, it gives a number beyond every
finite one, so that infinities are ordered by it too. -/
noncomputable def FF.value (f : FF) (x : Nat) : ℝ :=
  (if x.testBit (f.width - 1) then -1 else 1) *
    (if f.expo x = 0 then 2 ^ (1 - (f.bias : ℤ)) * ((f.fract x : ℝ) / 2 ^ f.frac)
     else 2 ^ ((f.expo x : ℤ) - f.bias) * (1 + (f.fract x : ℝ) / 2 ^ f.frac))

/-- The largest finite value (R33). -/
noncomputable def FF.largest : FF → ℝ
  | .e4m3 => 448
  | .e2m1 => 6
  | f => (2 - 2 ^ (-(f.frac : ℤ))) * 2 ^ f.bias

/-- The smallest normal value (R33). -/
noncomputable def FF.least (f : FF) : ℝ := 2 ^ (1 - (f.bias : ℤ))

/-- The unit in the last place at a value, with an unbounded exponent. -/
noncomputable def FF.freeUnit (f : FF) (x : ℝ) : ℝ := 2 ^ (Int.log 2 |x| - (f.frac : ℤ))

/-- The unit in the last place at a value: that of the smallest normal values below them. -/
noncomputable def FF.unit (f : FF) (x : ℝ) : ℝ := 2 ^ max (Int.log 2 |x| - (f.frac : ℤ)) (1 - (f.bias : ℤ) - f.frac)

/-- Does a magnitude of `n` units and a fraction `d` of one round away from zero (R38, R40)? -/
def RMode.Away (mode : RMode) (neg : Prop) (n : ℤ) (d : ℝ) : Prop :=
  match mode with
  | .rne => 1 / 2 < d ∨ d = 1 / 2 ∧ Odd n
  | .rtz => False
  | .rdn => neg ∧ d ≠ 0
  | .rup => ¬neg ∧ d ≠ 0
  | .rna => 1 / 2 ≤ d
  | .sr r => d ≠ 0 ∧ 2 ^ 32 ≤ ⌊d * 2 ^ 32⌋ + (r : ℤ)

open Classical in
/-- A value rounded to a multiple of the unit `u` (R38, R40). -/
noncomputable def RMode.round (mode : RMode) (u x : ℝ) : ℝ :=
  (if x < 0 then -1 else 1) *
    ((⌊|x| / u⌋ : ℝ) + (if mode.Away (x < 0) ⌊|x| / u⌋ (Int.fract (|x| / u)) then 1 else 0)) * u

/-- Does a mode take an overflowing value of this sign to the largest finite value (R43)? -/
def RMode.toLargest (mode : RMode) (neg : Bool) : Bool :=
  match mode with
  | .rtz => true
  | .rdn => !neg
  | .rup => neg
  | _ => false

/-- What an overflow gives (R43). Flags are written as the bits of `c.fflags` (R45): NV 16, DZ 8, OF 4, UF 2, NX 1. -/
def OverflowResult (f : FF) (mode : RMode) (nosat neg : Bool) (r : Nat × BitVec 5) : Prop :=
  let top : Prop := f.Finite r.1 ∧ f.value r.1 = (if neg then -f.largest else f.largest) ∧ r.2 = 5#5
  match f with
  | .e4m3 => if nosat then r = ((if neg then 0xFF else 0x7F), 16#5) else top
  | .e2m1 => top
  | _ => if mode.toLargest neg then top
         else r.1 < 2 ^ f.width ∧ f.isInfEnc r.1 = true ∧ f.neg r.1 = neg ∧ r.2 = 5#5

open Classical in
/-- `r` is the exact value `x`, of sign `neg`, rounded once to the format in the mode, with its flags (R38, R43, R45). -/
def RoundsTo (f : FF) (mode : RMode) (nosat neg : Bool) (x : ℝ) (r : Nat × BitVec 5) : Prop :=
  let y := mode.round (f.unit x) x
  if f.largest < |y| then OverflowResult f mode nosat neg r
  else f.Finite r.1 ∧ f.value r.1 = y ∧ f.neg r.1 = neg ∧
    r.2 = (if y = x then 0#5 else if |mode.round (f.freeUnit x) x| < f.least then 3#5 else 1#5)

/-- The NaN result of R37 rule 1: the first NaN of the operands, quieted, with NV if one of them is signalling. -/
def firstNan (f : FF) (xs : List Nat) : Option (Nat × BitVec 5) :=
  (xs.find? f.isNanEnc).map fun x => (x ||| 2 ^ (f.frac - 1), if xs.any f.isSigEnc then 16#5 else 0#5)

/-- The result of an invalid operation (R37 rule 2): the canonical NaN, and NV. -/
def invalidResult (f : FF) : Nat × BitVec 5 :=
  (match f with
    | .f64 => 0x7FF8000000000000 | .f32 => 0x7FC00000 | .f16 => 0x7E00 | .bf16 => 0x7FC0 | .e4m3 => 0x7F | .e5m2 => 0x7E
    | .e2m1 => 0, 16#5)

/-- An infinity of a sign. -/
def infOf (f : FF) (neg : Bool) : Nat := (if neg then 2 ^ (f.width - 1) else 0) + f.topExpo * 2 ^ f.frac

/-- A zero of a sign. -/
def zeroOf (f : FF) (neg : Bool) : Nat := if neg then 2 ^ (f.width - 1) else 0

/-- The encoding of 1. -/
def oneOf (f : FF) (neg : Bool) : Nat := zeroOf f neg + f.bias * 2 ^ f.frac

/-- A sum of two operands that are no NaN, each given by its sign, whether it is infinite, and its value if not (R34, R37, R142). -/
def SumResult (f : FF) (mode : RMode) (na ia : Bool) (x : ℝ) (nb ib : Bool) (y : ℝ) (r : Nat × BitVec 5) : Prop :=
  if ia && ib && na != nb then r = invalidResult f
  else if ia then r = (infOf f na, 0#5)
  else if ib then r = (infOf f nb, 0#5)
  else (x + y = 0 → RoundsTo f mode false (if na = nb then na else mode == .rdn) 0 r) ∧
    (x + y ≠ 0 → ∀ neg : Bool, (neg = true ↔ x + y < 0) → RoundsTo f mode false neg (x + y) r)

/-- Is an encoding a zero? -/
def isZeroEnc (f : FF) (x : Nat) : Bool := f.expo x == 0 && f.fract x == 0

/-- Order of two encodings that are no NaN, with −0 below +0 (R143). -/
def FF.Below (f : FF) (a b : Nat) : Prop :=
  f.value a < f.value b ∨ (f.value a = 0 ∧ f.value b = 0 ∧ f.neg a = true ∧ f.neg b = false)

/-- `r` is the smaller (`big`: the larger) of two operands that are no NaN (R143). -/
def PicksOf (f : FF) (big : Bool) (a b r : Nat) : Prop :=
  (r = a ∧ (if big then ¬f.Below a b else ¬f.Below b a)) ∨ (r = b ∧ (if big then ¬f.Below b a else ¬f.Below a b))

/-- The NaN of another format that a NaN becomes (R42). -/
def nanInto (f g : FF) (x : Nat) : Nat :=
  if f = .e4m3 ∨ g = .e4m3 ∨ g = .e5m2 then zeroOf g (f.neg x) + (invalidResult g).1
  else
    let payload := x % 2 ^ (f.frac - 1)
    infOf g (f.neg x) + 2 ^ (g.frac - 1) +
      (if f.frac ≤ g.frac then payload * 2 ^ (g.frac - f.frac) else payload / 2 ^ (f.frac - g.frac))

/-- `r` is one of the values that a faithful result may take (R149): a finite value with none between it and `y`. -/
def Faithful (f : FF) (y : ℝ) (r : Nat) : Prop :=
  f.Finite r ∧ ∀ z, f.Finite z → ¬(f.value r < f.value z ∧ f.value z ≤ y) ∧ ¬(y ≤ f.value z ∧ f.value z < f.value r)

/-- `r` is within two units in the last place of `y` in f32 and f64, and faithful in f16 and bf16 (R149). -/
def WithinUlps (f : FF) (y : ℝ) (r : Nat) : Prop :=
  match f with
  | .f32 | .f64 => f.Finite r ∧ |f.value r - y| ≤ 2 * f.unit y
  | _ => Faithful f y r

/-- `r` is a sine or cosine of `x`, whose exact value is `y` (R149): within a fixed bound up to 2^16 in f32 and 2^40 in f64, faithful in
f16 and bf16, and beyond that range a value from −1 to 1. -/
def WithinTrig (f : FF) (x y : ℝ) (r : Nat) : Prop :=
  match f with
  | .f32 => f.Finite r ∧ if |x| ≤ 2 ^ 16 then |f.value r - y| ≤ 2 ^ (-21 : ℤ) else |f.value r| ≤ 1
  | .f64 => f.Finite r ∧ if |x| ≤ 2 ^ 40 then |f.value r - y| ≤ 2 ^ (-50 : ℤ) else |f.value r| ≤ 1
  | _ => Faithful f y r

/-- The flags of an inexact special function that does not overflow (R148): NX, and UF where the exact value lies below the normal
values by a unit or more, none where it is no smaller than they are. -/
def InexactFlags (f : FF) (y : ℝ) (fl : BitVec 5) : Prop :=
  (fl = 1#5 ∨ fl = 3#5) ∧ (|y| ≤ f.least * (1 - 2 ^ (-(f.frac : ℤ))) → fl = 3#5) ∧ (f.least ≤ |y| → fl = 1#5)

/-- The formats of VFP and VSFU elements. -/
def vfpFormats : List FF := [.f32, .f64, .f16, .bf16]

/-! ## Matrix elements (R46 to R48, R264) -/

/-- Element `k`, of `w` bits, of a row or column of bytes (R264). -/
def matBits (w : Nat) (row : List Byte) (k : Nat) : Nat := leNat row / 2 ^ (w * k) % 2 ^ w

/-- `p` is the exact sum of the products of a chunk of `l` elements, times the scales' powers of two, rounded to f32; with the NaNs and
infinities of R47. The sign of an exact zero is that of a zero of either kind. -/
def ChunkSum (fa fb : FF) (l : Nat) (a b : Nat → Nat) (sa sb p : Nat) : Prop :=
  let infinite (neg : Bool) : Prop := ∃ k, k < l ∧ (fa.isInfEnc (a k) || fb.isInfEnc (b k)) = true ∧ (fa.neg (a k) != fb.neg (b k)) = neg
  let invalid : Prop := sa = 0xFF ∨ sb = 0xFF ∨ (infinite false ∧ infinite true) ∨
    ∃ k, k < l ∧ (fa.isNanEnc (a k) || fb.isNanEnc (b k) || (fa.isInfEnc (a k) && isZeroEnc fb (b k)) ||
      (isZeroEnc fa (a k) && fb.isInfEnc (b k))) = true
  let x : ℝ := 2 ^ ((sa : ℤ) - 127 + ((sb : ℤ) - 127)) * ((List.range l).map fun k => fa.value (a k) * fb.value (b k)).sum
  (invalid → p = (invalidResult .f32).1) ∧
  (¬invalid → ∀ neg, infinite neg → p = infOf .f32 neg) ∧
  (¬invalid → ¬infinite false → ¬infinite true →
    ∃ neg fl, (x ≠ 0 → (neg = true ↔ x < 0)) ∧ RoundsTo .f32 .rne false neg x (p, fl))

/-- `r` is the accumulator `acc` plus a term, given by its sign, whether it is infinite, its value if not, and whether it is a NaN; any
NaN is the canonical one (R46, R47). -/
def AccSum (f : FF) (neg inf nan : Bool) (x : ℝ) (acc r : Nat) : Prop :=
  if nan || f.isNanEnc acc then r = (invalidResult f).1
  else ∃ fl, SumResult f .rne neg inf x (f.neg acc) (f.isInfEnc acc) (f.value acc) (r, fl)

/-- `r` is the element of a float command that starts from `c`, its row `ra` and column `rb` in chunks of `l` elements of `w` bits, with
block scales `sa` and `sb` (R46). -/
def FloatElement (fa fb : FF) (w l c : Nat) (ra rb : List Byte) (sa sb : Nat → Nat) (r : Nat) : Prop :=
  ∃ acc : Nat → Nat, acc 0 = c ∧ acc (2048 / w / l) = r ∧ ∀ n, n < 2048 / w / l →
    ∃ p, ChunkSum fa fb l (fun i => matBits w ra (n * l + i)) (fun i => matBits w rb (n * l + i)) (sa n) (sb n) p ∧
      AccSum .f32 (FF.f32.neg p) (FF.f32.isInfEnc p) (FF.f32.isNanEnc p) (FF.f32.value p) (acc n) (acc (n + 1))

/-- An exact total in 32 bits, clamped where the command saturates (R46). -/
def matFit (sat : Bool) (x : Int) : Nat := (BitVec.ofInt 32 (if sat then max (-2 ^ 31) (min (2 ^ 31 - 1) x) else x)).toNat

/-- `r` is the element of a command of format `fmt` that starts from `c`, a pair of registers being one number (R46 to R48, R264). -/
def MatElement (fmt : Nat) (sat conj : Bool) (c : Nat) (ra rb : List Byte) (sa sb : Nat → Nat) (r : Nat) : Prop :=
  let float (fa fb : FF) (w l : Nat) : Prop := FloatElement fa fb w l c ra rb sa sb r
  let signed (w : Nat) (row : List Byte) (k : Nat) : Int := (BitVec.ofNat w (matBits w row k)).toInt
  let whole (w : Nat) (b : Nat → Int) : Prop :=
    r = matFit sat ((BitVec.ofNat 32 c).toInt + ((List.range (2048 / w)).map fun k => signed w ra k * b k).sum)
  let complex (w : Nat) : Prop :=
    let ar (k : Nat) := signed w ra (2 * k)
    let ai (k : Nat) := signed w ra (2 * k + 1)
    let br (k : Nat) := signed w rb (2 * k)
    let bi (k : Nat) := if conj then -signed w rb (2 * k + 1) else signed w rb (2 * k + 1)
    r = matFit sat ((BitVec.ofNat 32 c).toInt + ((List.range (1024 / w)).map fun k => ar k * br k - ai k * bi k).sum) +
      matFit sat ((BitVec.ofNat 32 (c / 2 ^ 32)).toInt + ((List.range (1024 / w)).map fun k => ar k * bi k + ai k * br k).sum) * 2 ^ 32
  match fmt with
  | 0x0 => ∃ acc : Nat → Nat, acc 0 = c ∧ acc 32 = r ∧ ∀ k, k < 32 →
      let a := matBits 64 ra k
      let b := matBits 64 rb k
      let f := FF.f64
      AccSum f (f.neg a != f.neg b) (f.isInfEnc a || f.isInfEnc b)
        (f.isNanEnc a || f.isNanEnc b || (f.isInfEnc a && isZeroEnc f b) || (isZeroEnc f a && f.isInfEnc b))
        (f.value a * f.value b) (acc k) (acc (k + 1))
  | 0x1 => float .bf16 .bf16 16 16
  | 0x2 => float .f16 .f16 16 16
  | 0x3 | 0x7 => float .e4m3 .e4m3 8 32
  | 0x4 | 0x8 => float .e5m2 .e5m2 8 32
  | 0x5 => float .e4m3 .e5m2 8 32
  | 0x6 => float .e5m2 .e4m3 8 32
  | 0x9 => float .e2m1 .e2m1 4 32
  | 0xA => whole 8 (signed 8 rb)
  | 0xB => whole 8 fun k => matBits 8 rb k
  | 0xC => whole 4 (signed 4 rb)
  | 0xD => complex 8
  | 0xE => complex 4
  | _ => False

/-- A follow-on command breaks no rule of its fields or of its group, its kind and regions aside (R263, R271, R279). -/
def FollowGood (g : Group) (c : BitVec 96) : Prop :=
  let fmt := (c.extractLsb' 12 4).toNat
  let n := if fmt = 0 ∨ fmt = 0xD ∨ fmt = 0xE then 8 else 4
  let cr := (c.extractLsb' 0 5).toNat
  c.extractLsb' 24 8 = 0xB0#8 ∧ c.extractLsb' 20 2 = 0#2 ∧ c.extractLsb' 32 6 = 0#6 ∧ c.getLsbD 5 = false ∧ fmt ≠ 15 ∧
  c.extractLsb' 6 2 ≠ 3#2 ∧
  (c.getLsbD 8 = false → c.extractLsb' 6 2 = 0#2 ∧
    (if 7 ≤ fmt ∧ fmt ≤ 9 then c.extractLsb' 64 19 = 0#19 else c.extractLsb' 64 32 = 0#32)) ∧
  (c.getLsbD 8 = true → fmt ≠ 7 ∧ fmt ≠ 8 ∧ fmt ≠ 9) ∧ (c.getLsbD 10 = true → 10 ≤ fmt) ∧ (c.getLsbD 11 = true → 13 ≤ fmt) ∧
  g.gw = 64 ∧ cr % 4 = 0 ∧ cr + n ≤ g.nreg

/-! ## Complex integers (R32, R154) -/

/-- Real and imaginary part, `k` bits each, of the complex value at bit `at_`: the real part lies lower. -/
def cplx (k at_ : Nat) (x : DWord) : Int × Int := ((x.extractLsb' at_ k).toInt, (x.extractLsb' (at_ + k) k).toInt)

/-- A complex result, each part fitted to `k` bits as SAT directs. -/
def cplxFit (p : Option Pfx) (k : Nat) (c : Int × Int) : BitVec 128 := (satFit p k c.2 ++ satFit p k c.1).setWidth 128

/-- The exact product. -/
def cplxMul (a b : Int × Int) : Int × Int := (a.1 * b.1 - a.2 * b.2, a.1 * b.2 + a.2 * b.1)

/-- The exact sum. -/
def cplxAdd (a b : Int × Int) : Int × Int := (a.1 + b.1, a.2 + b.2)

/-! ## Accesses to storage (R210 to R224) -/

/-- A key whose byte reads as it was last written: no flash, no page of the POT or of metadata, and either a page that has not
been scrubbed, whose written bytes read, or one of a world whose key is live. -/
def Plainly (s : State) (k : Nat) : Prop :=
  isFlash k = false ∧
  (isMain k = true → s.potPage (pageOf k) = false ∧ potState (s.potGet (pageOf k)) ≠ 3 ∧
    (s.unsettled (pageOf k) = true ∨ s.kstate (potWorld (s.potGet (pageOf k))) = 1))

/-- The threads `run` of `g` reach storage: no side log, soft error or snapshot is in play, and each thread's address leads to
its bytes `ks`, in a scratchpad at the place `line`, on lines that are present where that matters. -/
structure Reaches (s : State) (g : Group) (run : List Thread) (kind : AKind) (ea : Thread → DWord) (n : Nat)
    (ks : Thread → List Nat) (line : Thread → Option (Nat × Nat)) : Prop where
  quiet : s.slog = [] ∧ s.errs = [] ∧ s.snaps = [] ∧ Memory.wf s.mem = true
  lanes : (g.threads.map (·.lane)).Nodup ∧ ∀ t ∈ g.threads, t.lane < 64
  leads : ∀ t ∈ run, ∃ cls cached, s.resolve (g.poster t.lane) (ea t) n kind = .keys (ks t) cls cached (line t) ∧
    ∀ team off, line t = some (team, off) → kind = .store ∨ s.presence team off n = .present
  plain : ∀ t ∈ run, (ks t).Nodup ∧ ∀ k ∈ ks t, Plainly s k

/-- Storage as a function of keys, with the bytes `bs` at `ks`. -/
def setBytes (m : Nat → Byte) (ks : List Nat) (bs : List Byte) : Nat → Byte := fun k =>
  match (ks.zip bs).find? fun q => q.1 == k with
  | some q => q.2
  | none => m k

/-- Storage as each lane reads it, after the bytes `bs` are written at `ks`. -/
def setFor (m : Nat → Nat → Byte) (ks : List Nat) (bs : List Byte) : Nat → Nat → Byte := fun lane => setBytes (m lane) ks bs

/-- Storage as each lane reads it, after a thread's read, modify and write of `n` bytes at `ks`. -/
def rmwBytes (n : Nat) (f : Thread → Nat → Nat) (ks : Thread → List Nat) (m : Nat → Nat → Byte) (t : Thread) : Nat → Nat → Byte :=
  setFor m (ks t) (toBytes (f t (leNat ((ks t).map (m t.lane)))) n)

/-- The lowest thread of the cohort reads the `n` bytes `bs` at an address: no log or soft error is in play, the core's L1 holds
nothing, and the address leads to storage that is present and not poisoned. -/
def ReadsAt (s : State) (g : Group) (ea : DWord) (n : Nat) (bs : List Byte) : Prop :=
  s.slog = [] ∧ s.errs = [] ∧ (∀ l ∈ s.l1, l.core ≠ g.core) ∧
  ∃ ks cls cached line, s.resolve (g.poster (leadOf s g).1) ea n .load = .keys ks cls cached line ∧
    (∀ team off, line = some (team, off) → s.presence team off n = .present) ∧
    (∀ k ∈ ks, s.isPoisoned k = false) ∧ bs = ks.map (s.readKeyFor (leadOf s g).1)

/-- The keys of a map rise strictly: its canonical form. -/
def Rising {α : Type} (l : List (Nat × α)) : Prop := (l.map (·.1)).Pairwise (· < ·)

/-! ## Completion rings (R291) -/

/-- BASE, SIZE, WIDX and RIDX of the ring of `x`, whose header lies at the keys `hk`. -/
def ringHead (s : State) (x : RingWait) (hk : List Nat) : DWord × Nat × Nat × Nat :=
  let n := leNat (hk.map (s.readKeyFor x.by_.lane))
  (BitVec.ofNat 64 n, n / 2 ^ 64 % 2 ^ 32, n / 2 ^ 96 % 2 ^ 32, n / 2 ^ 128 % 2 ^ 32)

/-- The entry that a completion writes: LEN, OP, STATUS, TAG and SEQ, which is WIDX plus 1. -/
def ringEntry (x : RingWait) (widx : Nat) : BitVec 128 :=
  BitVec.ofNat 32 (widx + 1) ++ x.tag ++ 0#16 ++ BitVec.ofNat 8 x.status ++ BitVec.ofNat 8 x.op ++ BitVec.ofNat 32 x.len

/-- A ring has room for the entry of `x`: its header at `hk` is as R291 says, and the entry and WIDX lie at `ek` and `wk`. -/
structure RingRoom (v : State) (x : RingWait) (hk ek wk : List Nat) : Prop where
  quiet : v.errs = [] ∧ v.snaps = [] ∧ v.poisoned = [] ∧ v.teams = [] ∧ Memory.wf v.mem = true
  head  : (∃ ls, v.span x.by_ x.ring 64 .load = .keys hk ls) ∧
    (ringHead v x hk).1.toNat % 16 = 0 ∧ (∃ k, k < 21 ∧ (ringHead v x hk).2.1 = 2 ^ k)
  room  : (ringHead v x hk).2.2.1 ≠ ((ringHead v x hk).2.2.2 + (ringHead v x hk).2.1) % 2 ^ 32
  entry : ∃ ls, (v.walksFor x.by_ x.ring 64 .load).span x.by_
    ((ringHead v x hk).1 + BitVec.ofNat 64 (16 * ((ringHead v x hk).2.2.1 % (ringHead v x hk).2.1))) 16 .store = .keys ek ls
  widx  : ∃ ls, v.span x.by_ (x.ring + 12#64) 4 .store = .keys wk ls
  plain : (ek ++ wk).Nodup ∧ ek.length = 16 ∧ wk.length = 4 ∧ ∀ k ∈ ek ++ wk, Plainly v k

/-- Storage as each lane reads it, after the entry of `x` and WIDX are written. -/
def ringBytes (s : State) (x : RingWait) (hk ek wk : List Nat) : Nat → Nat → Byte :=
  let h := ringHead s x hk
  setFor (setFor s.readKeyFor ek (toBytes (ringEntry x h.2.2.1).toNat 16)) wk (toBytes (h.2.2.1 + 1) 4)

/-! ## Launches (R325, R326, R382) -/

/-- The record at `a` reads as `r`; unless R325 rejects it for itself, its kernel descriptor, or those of its variant set in order,
read as `ds` (none if the set is malformed), and its context header as `c`. -/
structure LaunchReads (s : State) (g : Group) (q : Nat) (member : Bool) (a : DWord) (r : BitVec 1024) (ds : List (BitVec 512))
    (c : BitVec 512) : Prop where
  record : a.toNat % 128 = 0 ∧ ∃ bs, ReadsAt s g a 128 bs ∧ r = word1024 bs
  plain  : s.recordStatus g r q false member = none → lrVar r = false → ∃ bs, ReadsAt s g (lrKdesc r) 64 bs ∧ ds = [word512 bs]
  sets   : s.recordStatus g r q false member = none → lrVar r = true →
    (lrKdesc r).toNat % 128 = 0 ∧ ∃ vb, ReadsAt s g (lrKdesc r) 128 vb ∧ (vsBad (word1024 vb) = true → ds = []) ∧
    (vsBad (word1024 vb) = false → ds.length = vsN (word1024 vb) ∧
      ∀ (k : Nat) (d : BitVec 512), ds[k]? = some d → ∃ bs, ReadsAt s g (vsDesc (word1024 vb) k) 64 bs ∧ d = word512 bs)
  header : s.recordStatus g r q false member = none → ds ≠ [] → ds.all (kdOk r) = true →
    ∃ bs, ReadsAt s g (lrArgp r - 64#64) 64 bs ∧ c = word512 bs

/-- What R325 answers to a record: the first check that it fails, in the order of the rule. -/
def launchVerdict (s : State) (g : Group) (q : Nat) (member : Bool) (x : BitVec 1024 × List (BitVec 512) × BitVec 512) :
    Option Nat :=
  match s.recordStatus g x.1 q false member with
  | some n => some n
  | none =>
    if x.2.1.isEmpty || x.2.1.any (fun d => !kdOk x.1 d) || !ctxOk x.1 x.2.2 then some 1
    else if x.2.1.all fun d => !everFits x.1 d then some 4
    else none

/-- Teams of a record's grid (R320). -/
def gridTeams (r : BitVec 1024) : Nat := (bits r 147 128 + 1) * (bits r 167 148 + 1) * (bits r 187 168 + 1)

/-- The conditions of R321, R330 and R335 that a record alone decides; `member` for a record of a gang. -/
structure RecordGood (s : State) (r : BitVec 1024) (member : Bool) : Prop where
  reserved : bits r 447 444 = 0 ∧ bits r 319 313 = 0 ∧ bits r 287 275 = 0 ∧ bits r 255 240 = 0 ∧ bits r 191 188 = 0 ∧ bits r 5 1 = 0
  priors   : ∀ k < 4, bits r (64 * k + 574) (64 * k + 566) = 0 ∧ bits r (64 * k + 559) (64 * k + 544) = 0 ∧
    (r.getLsbD (64 * k + 575) = true →
      let ahead := (mapGet 0 s.lqNext (bits r (64 * k + 565) (64 * k + 560)) + 2 ^ 32 - bits r (64 * k + 543) (64 * k + 512)) % 2 ^ 32
      1 ≤ ahead ∧ ahead < 2 ^ 31)
  deps     : bits r 214 212 ≤ 4 ∧ ∀ k < 4,
    let dx := (r.extractLsb' (15 * k + 384) 5).toInt
    let dy := (r.extractLsb' (15 * k + 389) 5).toInt
    let dz := (r.extractLsb' (15 * k + 394) 5).toInt
    (k < bits r 214 212 → (∀ x ∈ [dx, dy, dz], -8 ≤ x ∧ x ≤ 8) ∧ (dz < 0 ∨ (dz = 0 ∧ (dy < 0 ∨ (dy = 0 ∧ dx < 0))))) ∧
    (bits r 214 212 ≤ k → bits r (15 * k + 398) (15 * k + 384) = 0)
  grid     : gridTeams r ≤ 2 ^ 20 ∧ gridTeams r % ((bits r 195 192 + 1) * (bits r 199 196 + 1)) = 0
  cluster  : let w := bits r 195 192 + 1
    let h := bits r 199 196 + 1
    (w ≤ 3 ∧ h ≤ 4) ∨ (w ≤ 4 ∧ h ≤ 3) ∨ (w, h) ∈ [(2, 6), (6, 2), (1, 12), (12, 1)]
  scope    : 2 ≤ bits r 211 208 ∧ bits r 211 208 ≤ 9
  argument : bits r 69 64 = 0
  pipes    : ∀ k < 4, bits r (64 * k + 815) (64 * k + 768) = 0 ∧
    (r.getLsbD (64 * k + 831) = true → member = true ∧ gridTeams r = 1 ∧ 6 ≤ bits r (64 * k + 819) (64 * k + 816) ∧
      bits r (64 * k + 819) (64 * k + 816) ≤ 13)
  service  : if r.getLsbD 207
    then (bits r 205 204 = 0 ∨ bits r 205 204 = 3) ∧ r.getLsbD 206 = false ∧ bits r 214 212 = 0 ∧ bits r 199 192 = 0 ∧
      bits r 187 148 = 0 ∧ (∀ k < 4, r.getLsbD (64 * k + 831) = false) ∧ member = false
    else r.getLsbD 203 = false ∧ bits r 312 304 = 0

/-- The queue is enabled and of the record's world, the issuer may post for that world, and the address space is of it (R325, R335). -/
def WorldGood (s : State) (g : Group) (r : BitVec 1024) (q : Nat) : Prop :=
  let e := s.devWord (dev3 + 0x100 + 4 * q)
  let w := bits r 261 256
  e.getLsbD 31 = true ∧ bits e 21 16 = w ∧ s.asidWorld (bits r 274 262) = w ∧
  (if r.getLsbD 207 then (if g.priv = .f then (r.getLsbD 203 = true ↔ w = 0) else r.getLsbD 203 = false ∧ w = g.world.toNat)
    else g.priv = .f ∨ w = g.world.toNat)

/-- The conditions of R321 and R335 that need a kernel descriptor. -/
structure DescriptorGood (r : BitVec 1024) (d : BitVec 512) : Prop where
  reserved : bits d 511 276 = 0 ∧ bits d 159 148 = 0 ∧ bits d 127 114 = 0 ∧ bits d 95 83 = 0 ∧ bits d 79 78 = 0
  width    : bits d 71 64 ∈ [8, 16, 32, 64]
  regs     : 1 ≤ bits d 77 72 ∧ bits d 77 72 ≤ 32
  team     : 1 ≤ bits d 101 96 * bits d 107 102 * bits d 113 108 ∧ bits d 101 96 * bits d 107 102 * bits d 113 108 ≤ 32
  joint    : d.getLsbD 82 = true → bits d 71 64 = 64 ∧ 4 ≤ bits d 101 96 * bits d 107 102 * bits d 113 108
  cls      : bits r 205 204 = 3 → bits d 81 80 ≠ 3
  service  : r.getLsbD 207 = true → bits d 101 96 * bits d 107 102 * bits d 113 108 = 1 ∧ bits d 147 128 = 0 ∧ bits d 191 160 = 0 ∧
    d.getLsbD 82 = false ∧ (if bits r 205 204 = 3 then bits d 81 80 else bits r 205 204) = 0

/-- A context header that is well formed (R322). -/
def HeaderGood (r : BitVec 1024) (c : BitVec 512) : Prop :=
  bits c 383 24 = 0 ∧ bits c 15 4 = 0 ∧ bits c 511 504 = 0 ∧ bits c 459 448 = 0 ∧ bits c 390 384 = 0 ∧
  (bits c 447 440 = 0 ∨ (bits c 447 440 = 1 ∧ r.getLsbD 207 = true ∧ r.getLsbD 203 = false)) ∧
  (bits c 23 16 = 0 ∨ (7 ≤ bits c 23 16 ∧ bits c 23 16 ≤ 21)) ∧ bits c 3 0 ≤ 10

/-- Some core of the part could hold a team of the launch (R91, R325). -/
def FitsSomewhere (r : BitVec 1024) (d : BitVec 512) : Prop :=
  let groups := bits d 101 96 * bits d 107 102 * bits d 113 108
  let storage := groups * (bits d 71 64 * (4 * bits d 77 72 + 128) + 1024)
  if r.getLsbD 207 then storage ≤ 64 * 1024 ∧ bits r 312 304 + gridTeams r ≤ 280
  else storage ≤ 448 * 1024 ∧ bits d 147 128 ≤ 768 * 1024 ∧ groups * bits d 71 64 ≤ 2048

/-- The conditions across the members of a gang (R326, R330). -/
def GangGood (rs : List (BitVec 1024)) : Prop :=
  (∀ r ∈ rs, bits r 261 256 = bits (rs.headD 0) 261 256 ∧ bits r 303 288 = bits (rs.headD 0) 303 288 ∧ bits r 214 212 = 0 ∧
    bits r 199 192 = 0) ∧
  ∀ i < 8,
    let side (get : Bool) : List DWord := rs.flatMap fun r => ((List.range 4).map fun k => r.extractLsb' (64 * k + 768) 64).filter
      fun p => p.getLsbD 63 && bits p 61 59 == i && p.getLsbD 62 == get
    (side false = [] ∧ side true = []) ∨ ∃ p c, side false = [p] ∧ side true = [c] ∧ bits p 51 48 = bits c 51 48

/-! ## An invariant of the device (R332, R414) -/

/-- What holds between steps: no cohort is half executed; every request of a token wait queue is of a group that is here, is neither
frozen nor cancelled nor dead, and has live threads (R414); and every cancel token names an instance of which something is left
(R332). -/
structure Inv (s : State) : Prop where
  settled  : s.stalled = false ∧ s.cur.words = []
  requests : ∀ r ∈ s.tokq, ∃ g, s.group? r.core r.slot = some g ∧ g.frozen = false ∧ g.dead = false ∧ g.live ≠ []
  tokens   : ∀ t ∈ s.tokens, s.tagged t.1 t.2 = true

/-- Storage is in canonical form: memory, and every table that lists what differs from a default, by rising key (R189, R354, R364);
each core's event counters and the two token pools are all there (R414, R417). -/
structure Canonical (s : State) : Prop where
  memory   : Memory.wf s.mem = true
  tables   : Rising s.dev ∧ Rising s.pot ∧ Rising s.resv ∧ Rising s.lqNext ∧ Rising s.budgets ∧ Rising s.ucnt
  counters : ∀ c ∈ s.cores, Rising c.tcmp ∧ c.cnt.length = 8 ∧ c.cnsel.length = 8
  pools    : s.pools.length = 2

/-- The threads of every group, resident or in an image, have lanes of their own, below 64, and no queued launch's groups are wider
(R88, R322). -/
structure LanesOk (s : State) : Prop where
  resident : ∀ g ∈ s.groups, (g.threads.map (·.lane)).Nodup ∧ ∀ t ∈ g.threads, t.lane < 64
  saved    : ∀ i ∈ s.images, ∀ g ∈ i.groups, (g.threads.map (·.lane)).Nodup ∧ ∀ t ∈ g.threads, t.lane < 64
  queued   : ∀ l ∈ s.launches, kdGw l.kd ≤ 64

end Sys2Proof.Machine
end

