-- ==== Sys2Proof/Certificates/Slice0/Obligations.lean ====
section
/-! DEFINITION. The statements for the provers. -/

open Sys2Proof Sys2Proof.Machine

noncomputable section

/-- R125, R30, R31, R123: the two-source operations of VINT R. Whatever the mask leaves active computes the exact value
fitted to the width; `vecNext` says what becomes of every lane of the cohort. R123: a shift takes its amount from bits
7..0 of its 32-bit B operand, or, in the immediate forms, from bits 7..0 of the literal or from IMM8 read unsigned; `shl` and
`shr` by the width or more give 0, `sra` fills with the sign, `rol` turns by the amount modulo the width. The scalar shifts are
the same on 64 bits. -/
def Obligations.VectorIntegerTwoSources : Prop :=
  (∀ (s : State) (g : Group) (d a b : Sel) (w : Bool) (p : Option Pfx),
     VReady s g (vin p d (DW.of w) [(a, w), (b, w)] none) →
     let done (f : (n : Nat) → BitVec n → BitVec n → BitVec n) : Out :=
       intDone s g (vin p d (DW.of w) [(a, w), (b, w)] none) (bin2 w f)
     exec (.add d a b w p) s = done (fun n x y => satFit p n (satNum p x + satNum p y)) ∧
     exec (.sub d a b w p) s = done (fun n x y => satFit p n (satNum p x - satNum p y)) ∧
     exec (.mul d a b w p) s = done (fun n x y => satFit p n (satNum p x * satNum p y)) ∧
     exec (.mulhi d a b w p) s = done (fun n x y => BitVec.ofInt n (x.toInt * y.toInt / 2 ^ n)) ∧
     exec (.mulhn d a b w p) s = done (fun n x y => BitVec.ofNat n (x.toNat * y.toNat / 2 ^ n)) ∧
     exec (.divI d a b w p) s = done (fun n x y => satFit p n (if y = 0 then -1 else x.toInt.tdiv y.toInt)) ∧
     exec (.divN d a b w p) s = done (fun n x y => satFit p n (if y = 0 then 2 ^ n - 1 else (x.toNat / y.toNat : Nat))) ∧
     exec (.remI d a b w p) s = done (fun _ x y => x.srem y) ∧
     exec (.remN d a b w p) s = done (fun _ x y => x % y) ∧
     exec (.minI d a b w p) s = done (fun _ x y => if x.slt y then x else y) ∧
     exec (.minN d a b w p) s = done (fun _ x y => if x.ult y then x else y) ∧
     exec (.maxI d a b w p) s = done (fun _ x y => if x.slt y then y else x) ∧
     exec (.maxN d a b w p) s = done (fun _ x y => if x.ult y then y else x) ∧
     exec (.and d a b w p) s = done (fun _ x y => x &&& y) ∧
     exec (.or d a b w p) s = done (fun _ x y => x ||| y) ∧
     exec (.xor d a b w p) s = done (fun _ x y => x ^^^ y) ∧
     exec (.andn d a b w p) s = done (fun _ x y => x &&& ~~~y) ∧
     exec (.orn d a b w p) s = done (fun _ x y => x ||| ~~~y)) ∧
  (∀ (s : State) (g : Group) (d a b : Sel) (w : Bool) (p : Option Pfx),
     VReady s g (vin p d (DW.of w) [(a, w), (b, false)] none) →
     let done (f : (n : Nat) → BitVec n → Nat → BitVec n) : Out :=
       intDone s g (vin p d (DW.of w) [(a, w), (b, false)] none) (shift2 w f)
     exec (.shl d a b w p) s = done (fun _ x k => x <<< k) ∧
     exec (.shr d a b w p) s = done (fun _ x k => x >>> k) ∧
     exec (.sra d a b w p) s = done (fun _ x k => x.sshiftRight k) ∧
     exec (.rol d a b w p) s = done (fun n x k => x.rotateLeft (k % n))) ∧
  (∀ (s : State) (g : Group) (d a : Sel) (i : Imm8) (lit : Option Imm) (p : Option Pfx),
     VReady s g (vin p d .w32 [(a, false)] none) →
     let done (f : BitVec 32 → Nat → BitVec 32) : Out :=
       intDone s g (vin p d .w32 [(a, false)] none) (fun v => (f (opnd32 v 0) (immShift i lit)).setWidth 128)
     exec (.shlImm d a i lit p) s = done (fun x k => x <<< k) ∧
     exec (.shrImm d a i lit p) s = done (fun x k => x >>> k) ∧
     exec (.sraImm d a i lit p) s = done (fun x k => x.sshiftRight k)) ∧
  (∀ (s : State) (g : Group) (d a b : Sel) (i : Imm8) (lit : Option Imm), Issuer s g →
     let x := ssource g a
     let y := ssource g b
     let amount := y.val.toNat % 256
     exec (.sshl d a b) s = scalarTo s g d (x.val <<< amount) [x, y] ∧
     exec (.sshr d a b) s = scalarTo s g d (x.val >>> amount) [x, y] ∧
     exec (.ssra d a b) s = scalarTo s g d (x.val.sshiftRight amount) [x, y] ∧
     exec (.sshlImm d a i lit) s = scalarTo s g d (x.val <<< immShift i lit) [x] ∧
     exec (.sshrImm d a i lit) s = scalarTo s g d (x.val >>> immShift i lit) [x] ∧
     exec (.ssraImm d a i lit) s = scalarTo s g d (x.val.sshiftRight (immShift i lit)) [x])

/-- R126 to R129, R131: multiply-add, bit fields, selection, carry chains, dot products, unary operations and `lea`. R154,
R155, R32: the complex-integer instructions; each part is computed exactly and fitted once. -/
def Obligations.VectorIntegerFurther : Prop :=
  ((∀ (s : State) (g : Group) (d a b : Sel) (w : Bool) (p : Option Pfx),
     VReady s g (vin p d (DW.of w) [(a, w), (b, w)] (some w)) →
       exec (.mad d a b w p) s = intDone s g (vin p d (DW.of w) [(a, w), (b, w)] (some w))
         (tern3 w fun n x y z => satFit p n (satNum p x * satNum p y + satNum p z))) ∧
   (∀ (s : State) (g : Group) (d a b : Sel) (w : Bool) (p : Option Pfx),
     VReady s g (vin p d .w64 [(a, w), (b, w), (0x20#6, true)] none) →
     let x := vin p d .w64 [(a, w), (b, w), (0x20#6, true)] none
     let ci (n : Nat) (v : List DWord) : BitVec n := if (opnd64 v 2).getLsbD 32 then 1#n else 0#n
     exec (.addc d a b w p) s = intDone s g x (fun v =>
       if w then (opnd64 v 0 + opnd64 v 1 + ci 64 v).setWidth 128
       else ((opnd32 v 0).setWidth 33 + (opnd32 v 1).setWidth 33 + ci 33 v).setWidth 128) ∧
     exec (.subc d a b w p) s = intDone s g x (fun v =>
       if w then (opnd64 v 0 - opnd64 v 1 - ci 64 v).setWidth 128
       else ((opnd32 v 0).setWidth 33 - (opnd32 v 1).setWidth 33 - ci 33 v).setWidth 128)) ∧
   (∀ (s : State) (g : Group) (d a b : Sel) (p : Option Pfx),
     VReady s g (vin p d .w32 [(a, false), (b, false)] none) →
     let x := vin p d .w32 [(a, false), (b, false)] none
     exec (.bfxI d a b p) s = intDone s g x (fun v =>
       ((((opnd32 v 0).sshiftRight (fieldOf (opnd32 v 1)).1).setWidth (fieldOf (opnd32 v 1)).2).signExtend 32).setWidth 128) ∧
     exec (.bfxN d a b p) s = intDone s g x (fun v =>
       ((opnd32 v 0 >>> (fieldOf (opnd32 v 1)).1) &&& onesBelow (fieldOf (opnd32 v 1)).2).setWidth 128)) ∧
   (∀ (s : State) (g : Group) (d a b : Sel) (p : Option Pfx),
     VReady s g (vin p d .w32 [(a, false), (b, false)] (some false)) →
     let x := vin p d .w32 [(a, false), (b, false)] (some false)
     exec (.bfi d a b p) s = intDone s g x (fun v =>
       let m := onesBelow (fieldOf (opnd32 v 1)).2
       let k := (fieldOf (opnd32 v 1)).1
       ((opnd32 v 2 &&& ~~~(m <<< k)) ||| ((opnd32 v 0 &&& m) <<< k)).setWidth 128) ∧
     exec (.sel d a b p) s = intDone s g x (fun v =>
       (if opnd32 v 2 = 0 then opnd32 v 1 else opnd32 v 0).setWidth 128) ∧
     exec (.bsel d a b p) s = intDone s g x (fun v =>
       let pool := opnd32 v 1 ++ opnd32 v 0
       let byte (i : Nat) : BitVec 8 := bselOf pool ((opnd32 v 2).extractLsb' (8 * i) 8)
       (byte 3 ++ byte 2 ++ byte 1 ++ byte 0).setWidth 128)) ∧
   (∀ (s : State) (g : Group) (d a b : Sel) (p : Option Pfx),
     VReady s g (vin p d .w64 [(a, true), (b, true)] (some false)) →
       exec (.selB64 d a b p) s = intDone s g (vin p d .w64 [(a, true), (b, true)] (some false))
         (fun v => (if opnd32 v 2 = 0 then opnd64 v 1 else opnd64 v 0).setWidth 128)) ∧
   (∀ (s : State) (g : Group) (d a : Sel) (w : Bool) (p : Option Pfx),
     VReady s g (vin p d (DW.of w) [(a, w)] none) →
     let done (f : (n : Nat) → BitVec n → BitVec n) : Out := intDone s g (vin p d (DW.of w) [(a, w)] none) (un1 w f)
     exec (.abs d a w p) s = done (fun n x => satFit p n (x.toInt.natAbs : Int)) ∧
     exec (.neg d a w p) s = done (fun n x => satFit p n (-x.toInt)) ∧
     exec (.clz d a w p) s = done (fun _ x => x.clz) ∧
     exec (.ctz d a w p) s = done (fun _ x => x.ctz) ∧
     exec (.popc d a w p) s = done (fun _ x => x.cpop) ∧
     exec (.brev d a w p) s = done (fun _ x => x.reverse) ∧
     exec (.mov d a w p) s = done (fun _ x => x)) ∧
   (∀ (s : State) (g : Group) (d a : Sel) (p : Option Pfx),
     VReady s g (vin p d .w64 [(a, false)] none) →
     let x := vin p d .w64 [(a, false)] none
     exec (.extI d a p) s = intDone s g x (fun v => ((opnd32 v 0).signExtend 64).setWidth 128) ∧
     exec (.extN d a p) s = intDone s g x (fun v => (opnd32 v 0).setWidth 128)) ∧
   (∀ (s : State) (g : Group) (d a b : Sel) (p : Option Pfx),
     VReady s g (vin p d .w64 [(a, true), (b, false)] none) →
       exec (.lea d a b p) s = intDone s g (vin p d .w64 [(a, true), (b, false)] none)
         (fun v => (opnd64 v 0 + (opnd32 v 1).signExtend 64).setWidth 128)) ∧
   (∀ (s : State) (g : Group) (d a b : Sel) (p : Option Pfx),
     VReady s g { vin p d .w32 [(a, false), (b, false)] none with old := true } →
     let done (k : Nat) (sa sb : Bool) : Out := intDone s g { vin p d .w32 [(a, false), (b, false)] none with old := true }
       (fun v => (satFit p 32 ((opnd32 v 2).toInt + dotOf k sa sb (opnd32 v 0) (opnd32 v 1))).setWidth 128)
     exec (.dot4Ii d a b p) s = done 8 true true ∧
     exec (.dot4Nn d a b p) s = done 8 false false ∧
     exec (.dot4In d a b p) s = done 8 true false ∧
     exec (.dot8Ii d a b p) s = done 4 true true ∧
     exec (.dot8Nn d a b p) s = done 4 false false ∧
     exec (.dot8In d a b p) s = done 4 true false)) ∧
  ((∀ (s : State) (g : Group) (d a b : Sel) (p : Option Pfx),
     VReady s g (vin p d .w32 [(a, false), (b, false)] none) →
     let x := vin p d .w32 [(a, false), (b, false)] none
     exec (.caddCi16 d a b p) s = intDone s g x (fun v =>
       cplxFit p 16 (cplxAdd (cplx 16 0 (opnd64 v 0)) (cplx 16 0 (opnd64 v 1)))) ∧
     exec (.cmulCi16 d a b p) s = intDone s g x (fun v =>
       cplxFit p 16 (cplxMul (cplx 16 0 (opnd64 v 0)) (cplx 16 0 (opnd64 v 1))))) ∧
   (∀ (s : State) (g : Group) (d a b : Sel) (p : Option Pfx),
     VReady s g (vin p d .w64 [(a, true), (b, true)] none) →
     exec (.caddCi32 d a b p) s = intDone s g (vin p d .w64 [(a, true), (b, true)] none) (fun v =>
       cplxFit p 32 (cplxAdd (cplx 32 0 (opnd64 v 0)) (cplx 32 0 (opnd64 v 1))))) ∧
   (∀ (s : State) (g : Group) (d a b : Sel) (p : Option Pfx),
     VReady s g { vin p d .w64 [(a, false), (b, false)] none with old := true } →
     let x := { vin p d .w64 [(a, false), (b, false)] none with old := true }
     exec (.cmacCi16 d a b p) s = intDone s g x (fun v =>
       cplxFit p 32 (cplxAdd (cplx 32 0 (opnd64 v 2)) (cplxMul (cplx 16 0 (opnd64 v 0)) (cplx 16 0 (opnd64 v 1))))) ∧
     exec (.cmacCi8 d a b p) s = intDone s g x (fun v =>
       cplxFit p 32 (cplxAdd (cplx 32 0 (opnd64 v 2))
         (cplxAdd (cplxMul (cplx 8 0 (opnd64 v 0)) (cplx 8 0 (opnd64 v 1)))
           (cplxMul (cplx 8 16 (opnd64 v 0)) (cplx 8 16 (opnd64 v 1))))))) ∧
   (∀ (s : State) (g : Group) (d a : Sel) (p : Option Pfx),
     VReady s g (vin p d .w32 [(a, false)] none) →
     let x := vin p d .w32 [(a, false)] none
     exec (.cconjCi16 d a p) s = intDone s g x (fun v =>
       cplxFit p 16 ((cplx 16 0 (opnd64 v 0)).1, -(cplx 16 0 (opnd64 v 0)).2)) ∧
     exec (.cmag2Ci16 d a p) s = intDone s g x (fun v =>
       (BitVec.ofInt 32 ((cplx 16 0 (opnd64 v 0)).1 ^ 2 + (cplx 16 0 (opnd64 v 0)).2 ^ 2)).setWidth 128)) ∧
   (∀ (s : State) (g : Group) (d a : Sel) (p : Option Pfx),
     VReady s g (vin p d .w64 [(a, true)] none) →
     exec (.cconjCi32 d a p) s = intDone s g (vin p d .w64 [(a, true)] none) (fun v =>
       cplxFit p 32 ((cplx 32 0 (opnd64 v 0)).1, -(cplx 32 0 (opnd64 v 0)).2))) ∧
   (∀ (s : State) (g : Group) (d a : Sel) (p : Option Pfx),
     VReady s g (vin p d .w64 [(a, false)] none) →
     exec (.cunpkCi8 d a p) s = intDone s g (vin p d .w64 [(a, false)] none) (fun v =>
       let e (i : Nat) : BitVec 16 := ((opnd32 v 0).extractLsb' (8 * i) 8).signExtend 16
       (e 3 ++ e 2 ++ e 1 ++ e 0).setWidth 128)) ∧
   (∀ (s : State) (g : Group) (d a : Sel) (p : Option Pfx),
     VReady s g (vin p d .w128 [(a, false)] none) →
     exec (.cunpkCi4 d a p) s = intDone s g (vin p d .w128 [(a, false)] none) (fun v =>
       let e (i : Nat) : BitVec 16 := ((opnd32 v 0).extractLsb' (4 * i) 4).signExtend 16
       e 7 ++ e 6 ++ e 5 ++ e 4 ++ e 3 ++ e 2 ++ e 1 ++ e 0)))

/-- R130, R131: the immediate forms. Under `sat=u` an immediate is read unsigned at the operation's width, as its other
operand is; that reading is the model's (log entry 10). -/
def Obligations.VectorImmediates : Prop :=
  (∀ (s : State) (g : Group) (d a : Sel) (i : Imm8) (lit : Option Imm) (p : Option Pfx),
    VReady s g (vin p d .w32 [(a, false)] none) →
    let done (f : BitVec 32 → BitVec 32) : Out :=
      intDone s g (vin p d .w32 [(a, false)] none) (fun v => (f (opnd32 v 0)).setWidth 128)
    let k : BitVec 32 := immOf 32 i lit
    exec (.addImm d a i lit p) s = done (fun x => satFit p 32 (satNum p x + satNum p k)) ∧
    exec (.mulImm d a i lit p) s = done (fun x => satFit p 32 (satNum p x * satNum p k)) ∧
    exec (.andImm d a i lit p) s = done (fun x => x &&& k) ∧
    exec (.orImm d a i lit p) s = done (fun x => x ||| k) ∧
    exec (.xorImm d a i lit p) s = done (fun x => x ^^^ k) ∧
    exec (.shlImm d a i lit p) s = done (fun x => x <<< immShift i lit) ∧
    exec (.shrImm d a i lit p) s = done (fun x => x >>> immShift i lit) ∧
    exec (.sraImm d a i lit p) s = done (fun x => x.sshiftRight (immShift i lit)) ∧
    exec (.minIImm d a i lit p) s = done (fun x => if x.slt k then x else k) ∧
    exec (.maxIImm d a i lit p) s = done (fun x => if x.slt k then k else x)) ∧
  (∀ (s : State) (g : Group) (d a : Sel) (i : Imm8) (lit : Option Imm) (p : Option Pfx),
    VReady s g (vin p d .w64 [(a, true)] none) →
    let x := vin p d .w64 [(a, true)] none
    exec (.add64Imm d a i lit p) s = intDone s g x (fun v =>
      (satFit p 64 (satNum p (opnd64 v 0) + satNum p (immOf 64 i lit))).setWidth 128) ∧
    exec (.leaImm d a i lit p) s = intDone s g x (fun v => (opnd64 v 0 + immOf 64 i lit).setWidth 128)) ∧
  (∀ (s : State) (g : Group) (d : Sel) (i : Imm8) (k : Imm) (p : Option Pfx),
    VReady s g (vin p d .w32 [] none) →
    exec (.moviB32 d i p) s = intDone s g (vin p d .w32 [] none) (fun _ => (i.signExtend 32).setWidth 128) ∧
    exec (.litB32 d k p) s = intDone s g (vin p d .w32 [] none) (fun _ => (k.setWidth 32).setWidth 128)) ∧
  (∀ (s : State) (g : Group) (d : Sel) (i : Imm8) (k : Imm) (p : Option Pfx),
    VReady s g (vin p d .w64 [] none) →
    exec (.moviB64 d i p) s = intDone s g (vin p d .w64 [] none) (fun _ => (i.signExtend 64).setWidth 128) ∧
    exec (.litB64 d k p) s = intDone s g (vin p d .w64 [] none) (fun _ => k.setWidth 128))

/-- R93, R94, R95, R101, R120: what a vector instruction does in an active lane. The named registers from D on take the
result's words, lowest first, and no other register changes; `_` (0x3F) writes none. The history shifts by one entry, or
by two for 128 bits, low half first. The result carries the taint and poison of everything read, and the thread moves
past the instruction's words. R96, R166: what a vector instruction does in a lane of the cohort that its prefix leaves
inactive. Under merge no register changes and the destination's value is pushed; under zero the destination's registers
and the entry are zero and clean; `_` pushes zero. R45, R94, R99, R120: the frame of the vector instructions that `vecNext` describes. Threads
outside the cohort, scalars, masks, control registers other than `c.fflags`, every other group, and all of memory are as they were. -/
def Obligations.VectorLanes : Prop :=
  ((∀ (s : State) (g : Group) (x : VInst) (r : Thread → List DWord → LaneRes) (t : Thread),
      VReady s g x → t ∈ g.threads → laneBit s.cur.lanes t.lane = true →
      laneBit (pfxLanes s.tick g x.p).1 t.lane = true →
      let vals := x.values s.tick g t
      let res := r t (vals.map fun v => v.val.setWidth 64)
      let taint := vals.any (·.taint)
      let poison := (pfxLanes s.tick g x.p).2 || vals.any (·.poison)
      let t' := vecThread s g x r t
      (∃ g', After (vecNext s g x r) g g' ∧ t' ∈ g'.threads) ∧
      t'.lane = t.lane ∧ t'.pc = t.pc + s.instBytes ∧ t'.st = t.st ∧ t'.srg = res.srg ∧
      (∀ i, t'.v[i]? =
        if x.d.toNat < 0x20 ∧ x.d.toNat ≤ i ∧ i < x.d.toNat + x.dw.regs ∧ i < t.v.length then
          some { val := res.val.extractLsb' (32 * (i - x.d.toNat)) 32, taint := taint, poison := poison, wait := [] }
        else t.v[i]?) ∧
      t'.h = (match x.dw with
        | .w32 => ({ val := (res.val.setWidth 32).setWidth 64, taint := taint, poison := poison, wait := [] } :: t.h).take 16
        | .w64 => ({ val := res.val.setWidth 64, taint := taint, poison := poison, wait := [] } :: t.h).take 16
        | .w128 => ({ val := res.val.extractLsb' 64 64, taint := taint, poison := poison, wait := [] } ::
            ({ val := res.val.setWidth 64, taint := taint, poison := poison, wait := [] } :: t.h).take 16).take 16)) ∧
   (∀ (s : State) (g : Group) (x : VInst) (q : Pfx) (r : Thread → List DWord → LaneRes) (t : Thread),
      VReady s g x → x.p = some q → t ∈ g.threads → laneBit s.cur.lanes t.lane = true →
      laneBit (pfxLanes s.tick g x.p).1 t.lane = false →
      let t' := vecThread s g x r t
      (∃ g', After (vecNext s g x r) g g' ∧ t' ∈ g'.threads) ∧
      t'.lane = t.lane ∧ t'.pc = t.pc + s.instBytes ∧ t'.srg = t.srg ∧
      (0x20 ≤ x.d.toNat ∨ q.z = false → t'.v = t.v) ∧
      (x.d.toNat < 0x20 → q.z = true → ∀ i, t'.v[i]? =
        if x.d.toNat ≤ i ∧ i < x.d.toNat + x.dw.regs ∧ i < t.v.length then
          some { val := 0, taint := false, poison := false, wait := [] }
        else t.v[i]?) ∧
      (x.dw ≠ .w128 → (0x20 ≤ x.d.toNat ∨ q.z = true) →
        t'.h = ({ val := 0, taint := false, poison := false, wait := [] } :: t.h).take 16) ∧
      (x.dw ≠ .w128 → x.d.toNat < 0x20 → q.z = false →
        let old := vsource s.tick g t (x.dw == .w64) x.d
        t'.h = ({ val := old.val.setWidth 64, taint := old.taint, poison := old.poison, wait := old.wait } :: t.h).take 16) ∧
      (x.dw = .w128 → (0x20 ≤ x.d.toNat ∨ q.z = true) →
        let e : HEnt := { val := 0, taint := false, poison := false, wait := [] }
        t'.h = (e :: (e :: t.h).take 16).take 16) ∧
      (x.dw = .w128 → x.d.toNat < 0x20 → q.z = false →
        let old := source s.tick g t .w128 x.d
        t'.h = ({ val := old.val.extractLsb' 64 64, taint := old.taint, poison := old.poison, wait := old.wait } ::
          ({ val := old.val.setWidth 64, taint := old.taint, poison := old.poison, wait := old.wait } :: t.h).take 16).take 16))) ∧
  (∀ (s : State) (g : Group) (x : VInst) (r : Thread → List DWord → LaneRes),
     VReady s g x →
     OnlyGroup s (vecNext s g x r) g ∧
     (∀ c n, (c, n) ≠ (g.core, g.slot) → (vecNext s g x r).group? c n = s.group? c n) ∧
     (∀ k, (vecNext s g x r).readKey k = s.readKey k) ∧
     ∃ g', After (vecNext s g x r) g g' ∧ g'.s = g.s ∧ g'.m = g.m ∧ g'.rm = g.rm ∧ g'.priv = g.priv ∧ g'.frames = g.frames ∧
       g'.rcvbase = g.rcvbase ∧ g'.srseed = g.srseed ∧ g.fflags ||| g'.fflags = g'.fflags ∧
       ∀ t ∈ g.threads, laneBit s.cur.lanes t.lane = false → t ∈ g'.threads)

/-- R142 to R146, R36, R37, R39: the VFP instructions compute each element, for packed types the two halves each for itself, in
the resolved mode, and join the flags of the active lanes into `c.fflags`. What they compute is said over the real numbers: the exact sum,
product, quotient, root, fused sum or scaled value of finite operands is rounded once, with the flags of what the rounding lost
(R33, R38, R43, R45); the cases of a NaN, an infinity or a zero are R34's, R37's and those of the entries; minima and maxima pick an
operand, −0 lying below +0, and a class word has the bit of its operand's class. -/
def Obligations.FloatArithmetic : Prop :=
  (∀ (s : State) (g : Group) (d a b : Sel) (t : FTy) (p : Option Pfx),
    VReady s g (vin p d (DW.of t.wide) [(a, t.wide), (b, t.wide)] none) →
    let done (op : FF → RMode → Nat → List Nat → Nat × BitVec 5) : Out :=
      floatDone s g (vin p d (DW.of t.wide) [(a, t.wide), (b, t.wide)] none) t op
    exec (.fadd d a b t p) s = done (fun f m _ x => fAdd f m (x.getD 0 0) (x.getD 1 0)) ∧
    exec (.fsub d a b t p) s = done (fun f m _ x => fSub f m (x.getD 0 0) (x.getD 1 0)) ∧
    exec (.fmul d a b t p) s = done (fun f m _ x => fMul f m (x.getD 0 0) (x.getD 1 0)) ∧
    exec (.fmin d a b t p) s = done (fun f _ _ x => fMinMax f false (x.getD 0 0) (x.getD 1 0)) ∧
    exec (.fmax d a b t p) s = done (fun f _ _ x => fMinMax f true (x.getD 0 0) (x.getD 1 0)) ∧
    exec (.fminm d a b t p) s = done (fun f _ _ x => fMinMaxM f false (x.getD 0 0) (x.getD 1 0)) ∧
    exec (.fmaxm d a b t p) s = done (fun f _ _ x => fMinMaxM f true (x.getD 0 0) (x.getD 1 0)) ∧
    exec (.fdiv d a b t p) s = done (fun f m _ x => fDiv f m (x.getD 0 0) (x.getD 1 0)) ∧
    exec (.fsgn d a b t p) s = done (fun f _ _ x => (f.mag (x.getD 0 0) + f.signBit (f.neg (x.getD 1 0)), 0#5))) ∧
  (∀ (s : State) (g : Group) (d a b : Sel) (t : FTy) (p : Option Pfx),
    VReady s g (vin p d (DW.of t.wide) [(a, t.wide), (b, t.wide)] (some t.wide)) →
    let done (op : FF → RMode → Nat → List Nat → Nat × BitVec 5) : Out :=
      floatDone s g (vin p d (DW.of t.wide) [(a, t.wide), (b, t.wide)] (some t.wide)) t op
    exec (.fma d a b t p) s = done (fun f m _ x => fFma f m false (x.getD 0 0) (x.getD 1 0) (x.getD 2 0)) ∧
    exec (.fnma d a b t p) s = done (fun f m _ x => fFma f m true (x.getD 0 0) (x.getD 1 0) (x.getD 2 0))) ∧
  (∀ (s : State) (g : Group) (d a : Sel) (t : FTy) (p : Option Pfx),
    VReady s g (vin p d (DW.of t.wide) [(a, t.wide)] none) →
    let done (op : FF → RMode → Nat → List Nat → Nat × BitVec 5) : Out :=
      floatDone s g (vin p d (DW.of t.wide) [(a, t.wide)] none) t op
    exec (.fsqrt d a t p) s = done (fun f m _ x => fSqrt f m (x.getD 0 0)) ∧
    exec (.fabs d a t p) s = done (fun f _ _ x => (f.mag (x.getD 0 0), 0#5)) ∧
    exec (.fneg d a t p) s = done (fun f _ _ x => (f.flip (x.getD 0 0), 0#5))) ∧
  (∀ (s : State) (g : Group) (d a : Sel) (t : FTy) (p : Option Pfx),
    VReady s g (vin p d .w32 [(a, t.wide)] none) →
    exec (.fclass d a t p) s = floatDone s g (vin p d .w32 [(a, t.wide)] none) t (fun f _ _ x => (fClass f (x.getD 0 0), 0#5))) ∧
  (∀ (s : State) (g : Group) (d a b : Sel) (t : FTy) (p : Option Pfx),
    VReady s g (vin p d (DW.of t.wide) [(a, t.wide), (b, false)] none) →
    exec (.fscale d a b t p) s = .next (vecNext s g (vin p d (DW.of t.wide) [(a, t.wide), (b, false)] none) fun th v =>
      let n (k : Nat) : Int :=
        if ftyPacked t then ((opnd32 v 1).extractLsb' (16 * k) 16).toInt else (opnd32 v 1).toInt
      let r := perElem t (fun f k x => fScale f (modeOf g p) (x.getD 0 0) (n k)) v
      { val := BitVec.ofNat 128 r.1, flags := r.2, srg := th.srg })) ∧
  ((∀ tick g t sel, (vsource tick g t false sel).val.toNat < 2 ^ 32) ∧
   (∀ (g : Group) (p : Option Pfx),
     modeOf g p = match (match p with | none => g.rm | some q => if q.rm = 0#3 then g.rm else q.rm).toNat with
       | 2 => RMode.rtz | 3 => .rdn | 4 => .rup | 5 => .rna | _ => .rne) ∧
   (∀ (op : FF → Nat → List Nat → Nat × BitVec 5) (v : List DWord),
     perElem .f32 op v = op .f32 0 (v.map (·.toNat)) ∧ perElem .f64 op v = op .f64 0 (v.map (·.toNat)) ∧
     (∀ t f, (t, f) ∈ [(FTy.f16x2, FF.f16), (.bf16x2, .bf16)] →
       let e (k : Nat) := op f k (v.map fun x => (x.extractLsb' (16 * k) 16).toNat)
       perElem t op v = ((e 0).1 + (e 1).1 * 2 ^ 16, (e 0).2 ||| (e 1).2)))) ∧
  (∀ f ∈ vfpFormats, ∀ (mode : RMode) (a b : Nat), (∀ r, mode ≠ .sr r) → a < 2 ^ f.width → b < 2 ^ f.width →
    let na := f.neg a
    let nb := f.neg b
    let ia := f.isInfEnc a
    let ib := f.isInfEnc b
    let x := f.value a
    let y := f.value b
    (∀ r, firstNan f [a, b] = some r →
      fAdd f mode a b = r ∧ fSub f mode a b = r ∧ fMul f mode a b = r ∧ fDiv f mode a b = r ∧
      fMinMaxM f false a b = r ∧ fMinMaxM f true a b = r) ∧
    (firstNan f [a, b] = none →
      SumResult f mode na ia x nb ib y (fAdd f mode a b) ∧
      SumResult f mode na ia x (!nb) ib (-y) (fSub f mode a b) ∧
      (if (ia && isZeroEnc f b) || (ib && isZeroEnc f a) then fMul f mode a b = invalidResult f
        else if ia || ib then fMul f mode a b = (infOf f (na != nb), 0#5)
        else RoundsTo f mode false (na != nb) (x * y) (fMul f mode a b)) ∧
      (if (ia && ib) || (isZeroEnc f a && isZeroEnc f b) then fDiv f mode a b = invalidResult f
        else if ia then fDiv f mode a b = (infOf f (na != nb), 0#5)
        else if ib then fDiv f mode a b = (zeroOf f (na != nb), 0#5)
        else if isZeroEnc f b then fDiv f mode a b = (infOf f (na != nb), 8#5)
        else RoundsTo f mode false (na != nb) (x / y) (fDiv f mode a b)) ∧
      (∀ big, (fMinMax f big a b).2 = 0#5 ∧ PicksOf f big a b (fMinMax f big a b).1 ∧
        fMinMaxM f big a b = fMinMax f big a b)) ∧
    (∀ big,
      let nv : BitVec 5 := if f.isSigEnc a || f.isSigEnc b then 16#5 else 0#5
      (f.isNanEnc a = true → f.isNanEnc b = true → fMinMax f big a b = (a ||| 2 ^ (f.frac - 1), nv)) ∧
      (f.isNanEnc a = true → f.isNanEnc b = false → fMinMax f big a b = (b, nv)) ∧
      (f.isNanEnc a = false → f.isNanEnc b = true → fMinMax f big a b = (a, nv))) ∧
    (∀ (c : Nat) (neg : Bool), c < 2 ^ f.width →
      let np := (na != nb) != neg
      let zi := (ia && isZeroEnc f b) || (ib && isZeroEnc f a)
      match firstNan f [a, b, c] with
      | some r => fFma f mode neg a b c = (r.1, r.2 ||| if zi then 16#5 else 0#5)
      | none =>
        if zi then fFma f mode neg a b c = invalidResult f
        else SumResult f mode np (ia || ib) (if neg then -(x * y) else x * y) (f.neg c) (f.isInfEnc c) (f.value c)
          (fFma f mode neg a b c)) ∧
    (match firstNan f [a] with
      | some r => fSqrt f mode a = r
      | none =>
        if isZeroEnc f a then fSqrt f mode a = (a, 0#5)
        else if na then fSqrt f mode a = invalidResult f
        else if ia then fSqrt f mode a = (a, 0#5)
        else RoundsTo f mode false false (Real.sqrt x) (fSqrt f mode a)) ∧
    (∀ n : Int, match firstNan f [a] with
      | some r => fScale f mode a n = r
      | none => if ia || isZeroEnc f a then fScale f mode a n = (a, 0#5)
          else RoundsTo f mode false na (x * 2 ^ n) (fScale f mode a n)) ∧
    fClass f a = 2 ^ (if f.isNanEnc a then (if f.isSigEnc a then 8 else 9)
      else if ia then (if na then 0 else 7)
      else if isZeroEnc f a then (if na then 3 else 4)
      else if f.expo a = 0 then (if na then 2 else 5)
      else if na then 1 else 6))

/-- R144: the sign operations. Each element of the result is that of a with its sign bit cleared, inverted, or replaced by that
of b, whatever the element is, a NaN too; no flag is raised, no rounding mode is read and no generator steps. -/
def Obligations.SignOperations : Prop :=
  ∀ (s : State) (g : Group) (d a b : Sel) (t : FTy) (p : Option Pfx),
    let sign : DWord := match t with | .f32 => 0x80000000#64 | .f64 => 0x8000000000000000#64 | .f16x2 | .bf16x2 => 0x80008000#64
    let done (srcs : List (Sel × Bool)) (f : DWord → DWord → DWord) : Out :=
      .next (vecNext s g (vin p d (DW.of t.wide) srcs none) fun th v =>
        let x (k : Nat) : DWord := if t.wide then opnd64 v k else (opnd32 v k).setWidth 64
        { val := (f (x 0) (x 1)).setWidth 128, flags := 0#5, srg := th.srg })
    (VReady s g (vin p d (DW.of t.wide) [(a, t.wide)] none) →
      exec (.fabs d a t p) s = done [(a, t.wide)] (fun x _ => x &&& ~~~sign) ∧
      exec (.fneg d a t p) s = done [(a, t.wide)] (fun x _ => x ^^^ sign)) ∧
    (VReady s g (vin p d (DW.of t.wide) [(a, t.wide), (b, t.wide)] none) →
      exec (.fsgn d a b t p) s = done [(a, t.wide), (b, t.wide)] (fun x y => (x &&& ~~~sign) ||| (y &&& sign)))

/-- R148, R37: the special functions, element by element: NaN, zero, infinite and negative operands, and the exact cases (powers
of two for `frcp` and `flg2`, of four for `frsq`, integers for `fex2`), whose result is the exact value and raises nothing. `fex2`
of an operand whose power is above the largest finite value is +∞ with OF and NX. The mode changes no result; `fsin` and `ftanh` are
odd and `fcos` is even. -/
def Obligations.FloatSpecialFunctions : Prop :=
  (∀ (s : State) (g : Group) (d a : Sel) (t : FTy) (p : Option Pfx),
    VReady s g (vin p d (DW.of t.wide) [(a, t.wide)] none) →
    let done (op : FF → RMode → Nat → Nat × BitVec 5) : Out :=
      floatDone s g (vin p d (DW.of t.wide) [(a, t.wide)] none) t (fun f m _ x => op f m (x.getD 0 0))
    exec (.frcp d a t p) s = done fRcp ∧
    exec (.frsq d a t p) s = done fRsq ∧
    exec (.fex2 d a t p) s = done fEx2 ∧
    exec (.flg2 d a t p) s = done fLg2 ∧
    exec (.fsin d a t p) s = done fSin ∧
    exec (.fcos d a t p) s = done fCos ∧
    exec (.ftanh d a t p) s = done fTanh) ∧
  (∀ f ∈ vfpFormats, ∀ (mode : RMode) (a : Nat), (∀ r, mode ≠ .sr r) → a < 2 ^ f.width →
    let neg := f.neg a
    let x := f.value a
    (∀ r, firstNan f [a] = some r → ∀ op ∈ [fRcp, fRsq, fEx2, fLg2, fSin, fCos, fTanh], op f mode a = r) ∧
    (isZeroEnc f a = true →
      fRcp f mode a = (infOf f neg, 8#5) ∧ fRsq f mode a = (infOf f neg, 8#5) ∧ fEx2 f mode a = (oneOf f false, 0#5) ∧
      fLg2 f mode a = (infOf f true, 8#5) ∧ fSin f mode a = (a, 0#5) ∧ fCos f mode a = (oneOf f false, 0#5) ∧
      fTanh f mode a = (a, 0#5)) ∧
    (f.isInfEnc a = true →
      fRcp f mode a = (zeroOf f neg, 0#5) ∧
      fRsq f mode a = (if neg then invalidResult f else (zeroOf f false, 0#5)) ∧
      fEx2 f mode a = (if neg then zeroOf f false else a, 0#5) ∧
      fLg2 f mode a = (if neg then invalidResult f else (a, 0#5)) ∧
      fSin f mode a = invalidResult f ∧ fCos f mode a = invalidResult f ∧ fTanh f mode a = (oneOf f neg, 0#5)) ∧
    (f.Finite a → x < 0 → fRsq f mode a = invalidResult f ∧ fLg2 f mode a = invalidResult f) ∧
    (f.Finite a → ∀ (k : ℤ) (z : Nat), f.Finite z →
      (|x| = 2 ^ k → x * f.value z = 1 → fRcp f mode a = (z, 0#5)) ∧
      (x = 4 ^ k → f.value z = 2 ^ (-k) → fRsq f mode a = (z, 0#5)) ∧
      (x = (k : ℝ) → f.value z = 2 ^ k → fEx2 f mode a = (z, 0#5)) ∧
      (x = 2 ^ k → x ≠ 1 → f.value z = (k : ℝ) → fLg2 f mode a = (z, 0#5))) ∧
    (x = 1 → f.Finite a → fLg2 f mode a = (zeroOf f false, 0#5)) ∧
    (f.Finite a → f.largest < (2 : ℝ) ^ x → fEx2 f mode a = (infOf f false, 5#5)) ∧
    (∀ op ∈ [fRcp, fRsq, fEx2, fLg2, fSin, fCos, fTanh], ∀ mode', (op f mode a).1 = (op f mode' a).1) ∧
    (f.Finite a → (fSin f mode (f.flip a)).1 = f.flip (fSin f mode a).1 ∧ (fTanh f mode (f.flip a)).1 = f.flip (fTanh f mode a).1 ∧
      fCos f mode (f.flip a) = fCos f mode a))

/-- R149: how far a special function that is not exact may lie from the exact value, and its flags (R148, R45). `frcp` and `frsq`
are faithful; `fex2`, `flg2` and `ftanh` are within two units in the last place, in f16 and bf16 faithful; `fsin` and `fcos` are within
2^−21 and 2^−50 up to 2^16 and 2^40, in f16 and bf16 faithful, and lie from −1 to 1 beyond. Such a result raises NX, and UF when it is
tiny, and neither NV nor DZ. Which of the values allowed results is the implementation's (log entry 4); that a reciprocal above the largest
finite value gives that value or an infinity, with OF and NX, is the model's choice there. -/
def Obligations.SpecialFunctionBounds : Prop :=
  ∀ f ∈ vfpFormats, ∀ (mode : RMode) (a : Nat), (∀ r, mode ≠ .sr r) → f.Finite a → isZeroEnc f a = false →
    let x := f.value a
    let inexact (y : ℝ) (r : Nat × BitVec 5) (bound : ℝ → Nat → Prop) : Prop := bound y r.1 ∧ InexactFlags f y r.2
    ((∀ k : ℤ, |x| = 2 ^ k → ∀ z, f.Finite z → x * f.value z ≠ 1) →
      if |1 / x| ≤ f.largest then inexact (1 / x) (fRcp f mode a) (Faithful f)
      else (fRcp f mode a).2 = 5#5 ∧ ((fRcp f mode a).1 = infOf f (f.neg a) ∨
        (f.Finite (fRcp f mode a).1 ∧ f.value (fRcp f mode a).1 = if f.neg a then -f.largest else f.largest))) ∧
    (0 < x → (∀ k : ℤ, x = 4 ^ k → ∀ z, f.Finite z → f.value z ≠ 2 ^ (-k)) →
      inexact (1 / Real.sqrt x) (fRsq f mode a) (Faithful f)) ∧
    ((2 : ℝ) ^ x ≤ f.largest → (∀ k : ℤ, x = (k : ℝ) → ∀ z, f.Finite z → f.value z ≠ 2 ^ k) →
      inexact ((2 : ℝ) ^ x) (fEx2 f mode a) (WithinUlps f)) ∧
    (0 < x → (∀ k : ℤ, x ≠ 2 ^ k) → inexact (Real.logb 2 x) (fLg2 f mode a) (WithinUlps f)) ∧
    inexact (Real.tanh x) (fTanh f mode a) (WithinUlps f) ∧
    WithinTrig f x (Real.sin x) (fSin f mode a).1 ∧ WithinTrig f x (Real.cos x) (fCos f mode a).1 ∧
    (∀ r ∈ [fSin f mode a, fCos f mode a], r.2 = 1#5 ∨ r.2 = 3#5) ∧
    (f ≠ .f32 ∧ f ≠ .f64 ∨ (f = .f32 ∧ |x| ≤ 2 ^ 16) ∨ (f = .f64 ∧ |x| ≤ 2 ^ 40) →
      InexactFlags f (Real.sin x) (fSin f mode a).2 ∧ InexactFlags f (Real.cos x) (fCos f mode a).2)

/-- R150 to R153, R40 to R45: the conversions. Under the stochastic mode each active lane's generator steps once, and the drawn
value rounds. What they compute is said over the real numbers: a finite operand's value, scaled by 2^(X−127) or its inverse for MX elements,
is rounded once to the format with the flags of what it lost, or to an integer and clamped to the integer type; a NaN keeps its sign
and the payload that fits; `fround` rounds to an integral value of the operand's sign; `fsplit` gives three truncated bf16 parts of which
each is what the parts before it leave. The draw of a value above the largest finite one is over the unit in the last place there, in
e4m3 the model's choice between two readings (log entry 83). -/
def Obligations.FloatConversions : Prop :=
  (∀ (s : State) (g : Group) (d a : Sel) (n : Bool) (src dst : CvtTy) (p : Option Pfx),
    VReady s g (vin p d (DW.of dst.wide) [(a, src.wide)] none) →
    exec (.fcvt d a n src dst p) s = .next (vecNext s g (vin p d (DW.of dst.wide) [(a, src.wide)] none) fun th v =>
      let c := modeCode g p dst.stochastic
      let draw := if c = 6#3 then stepSrg th.srg else th.srg
      let r := convert (RMode.ofCode c draw.toNat) n src dst (opnd64 v 0).toNat
      { val := BitVec.ofNat 128 r.1, flags := r.2, srg := draw })) ∧
  (∀ (s : State) (g : Group) (d a : Sel) (t : FmtTy) (p : Option Pfx),
    VReady s g (vin p d (DW.of t.wide) [(a, t.wide)] none) →
    exec (.fround d a t p) s = .next (vecNext s g (vin p d (DW.of t.wide) [(a, t.wide)] none) fun th v =>
      let r := fRound (fmtFF t) (modeOf g p) ((opnd64 v 0).toNat % 2 ^ (fmtFF t).width)
      { val := BitVec.ofNat 128 r.1, flags := r.2, srg := th.srg })) ∧
  (∀ (s : State) (g : Group) (d a : Sel) (p : Option Pfx),
    VReady s g (vin p d .w64 [(a, false)] none) →
    exec (.fsplitBf16 d a p) s = .next (vecNext s g (vin p d .w64 [(a, false)] none) fun th v =>
      let r := fSplit (opnd64 v 0).toNat
      { val := BitVec.ofNat 128 r.1, flags := r.2, srg := th.srg })) ∧
  (∀ (s : State) (g : Group) (d a : Sel) (e : MxElem) (p : Option Pfx),
    VReady s g (vin p d .w32 [(a, true)] none) →
    exec (.fpack d a e p) s = .next (vecNext s g (vin p d .w32 [(a, true)] none) fun th v =>
      let r := fPack (mxFF e) (modeOf g p) (opnd32 v 0).toNat ((opnd64 v 0).extractLsb' 32 8).toNat
      { val := BitVec.ofNat 128 r.1, flags := r.2, srg := th.srg }) ∧
    exec (.funpk d a e p) s = .next (vecNext s g (vin p d .w32 [(a, true)] none) fun th v =>
      let r := fUnpack (mxFF e) (modeOf g p) ((opnd64 v 0).toNat % 2 ^ (mxFF e).width) ((opnd64 v 0).extractLsb' 32 8).toNat
      { val := BitVec.ofNat 128 r.1, flags := r.2, srg := th.srg })) ∧
  (let floats : List (CvtTy × FF) := [(.f64, .f64), (.f32, .f32), (.f16, .f16), (.bf16, .bf16), (.e4m3, .e4m3), (.e5m2, .e5m2)]
   let ints : List (CvtTy × Nat × Bool) := [(.i32, 32, true), (.n32, 32, false), (.i64, 64, true), (.n64, 64, false),
     (.i16, 16, true), (.n16, 16, false), (.i8, 8, true), (.n8, 8, false)]
   ∀ (mode : RMode) (nosat : Bool) (x : Nat),
     (∀ c f c' g, (c, f) ∈ floats → (c', g) ∈ floats →
       let a := x % 2 ^ f.width
       let r := convert mode nosat c c' x
       if f.isNanEnc a then r = (nanInto f g a, if f.isSigEnc a then 16#5 else 0#5)
       else if f.isInfEnc a then
         (if g = .e4m3 then OverflowResult g mode nosat (f.neg a) r else r = (infOf g (f.neg a), 0#5))
       else RoundsTo g mode nosat (f.neg a) (f.value a) r) ∧
     (∀ c w sg c' g, (c, w, sg) ∈ ints → (c', g) ∈ floats →
       let n : ℤ := if sg then (BitVec.ofNat w x).toInt else (BitVec.ofNat w x).toNat
       RoundsTo g mode nosat (decide (n < 0)) (n : ℝ) (convert mode nosat c c' x)) ∧
     (∀ c f c' w sg, (c, f) ∈ floats → (c', w, sg) ∈ ints →
       let a := x % 2 ^ f.width
       let lo : ℤ := if sg then -2 ^ (w - 1) else 0
       let hi : ℤ := if sg then 2 ^ (w - 1) - 1 else 2 ^ w - 1
       let r := convert mode nosat c c' x
       if f.isNanEnc a then r = (0, 16#5)
       else if f.isInfEnc a then r = ((BitVec.ofInt w (if f.neg a then lo else hi)).toNat, 16#5)
       else ∀ n : ℤ, (n : ℝ) = mode.round 1 (f.value a) →
         r = (if n < lo then ((BitVec.ofInt w lo).toNat, 16#5) else if hi < n then ((BitVec.ofInt w hi).toNat, 16#5)
           else ((BitVec.ofInt w n).toNat, if (n : ℝ) = f.value a then 0#5 else 1#5))) ∧
     (∀ f ∈ vfpFormats, let a := x % 2 ^ f.width
       let r := fRound f mode a
       match firstNan f [a] with
       | some r' => r = r'
       | none =>
         if f.isInfEnc a || isZeroEnc f a then r = (a, 0#5)
         else f.Finite r.1 ∧ f.value r.1 = mode.round 1 (f.value a) ∧ f.neg r.1 = f.neg a ∧
           r.2 = if f.value r.1 = f.value a then 0#5 else 1#5) ∧
     (let a := x % 2 ^ 32
      let hi := a / 2 ^ 16
      let neg := FF.f32.neg a
      let r := fSplit a
      if FF.f32.isNanEnc a then r = (hi ||| 2 ^ 6, if FF.f32.isSigEnc a then 16#5 else 0#5)
      else if FF.f32.isInfEnc a then r = (hi + zeroOf .bf16 neg * 2 ^ 16 + zeroOf .bf16 neg * 2 ^ 32, 0#5)
      else ∃ mid lo, r.1 = hi + mid * 2 ^ 16 + lo * 2 ^ 32 ∧
        let r1 := FF.f32.value a - FF.bf16.value hi
        let r2 := r1 - FF.bf16.value mid
        (∀ q ∈ [(mid, r1), (lo, r2)], FF.bf16.Finite q.1 ∧ FF.bf16.neg q.1 = neg ∧
          FF.bf16.value q.1 = RMode.rtz.round (FF.bf16.unit q.2) q.2) ∧
        r.2 = if r2 = FF.bf16.value lo then 0#5
          else if 0 < |FF.bf16.value lo| ∧ |FF.bf16.value lo| < FF.bf16.least then 3#5 else 1#5) ∧
     (∀ g ∈ [FF.e4m3, .e5m2, .e2m1], ∀ sc, sc < 256 →
       (let a := x % 2 ^ 32
        let r := fPack g mode a sc
        if sc = 255 then r = (0, 16#5)
        else if FF.f32.isNanEnc a then
          (if g = .e2m1 then r = (0, 16#5) else r = (nanInto .f32 g a, if FF.f32.isSigEnc a then 16#5 else 0#5))
        else if FF.f32.isInfEnc a then
          (if g = .e5m2 then r = (infOf g (FF.f32.neg a), 0#5) else OverflowResult g mode false (FF.f32.neg a) r)
        else RoundsTo g mode false (FF.f32.neg a) (FF.f32.value a / 2 ^ ((sc : ℤ) - 127)) r) ∧
       (let a := x % 2 ^ g.width
        let r := fUnpack g mode a sc
        if sc = 255 then r = (0x7FC00000, 0#5)
        else if g.isNanEnc a then r = (nanInto g .f32 a, if g.isSigEnc a then 16#5 else 0#5)
        else if g.isInfEnc a then r = (infOf .f32 (g.neg a), 0#5)
        else RoundsTo .f32 mode false (g.neg a) (g.value a * 2 ^ ((sc : ℤ) - 127)) r)))

/-- R132, R147: the compares into a mask, integers in the terms of their types, floats by the order of their values, in which −0
equals +0 and a NaN is unordered; NV is raised for a signalling NaN, and by the ordered relations for any NaN. A packed lane's bit is
the AND of its elements' relations, for `ne` and `un` the OR. -/
def Obligations.Compares : Prop :=
  (∀ (s : State) (g : Group) (d a b : Sel) (t : ITy) (c : Cond) (p : Option Pfx),
    VReady s g (vin p 0x3F#6 (DW.of t.wide) [(a, t.wide), (b, t.wide)] none) →
    exec (.cmp d a b t c p) s =
      .next (compareNext s g (vin p 0x3F#6 (DW.of t.wide) [(a, t.wide), (b, t.wide)] none) d fun v =>
        let holds (x y : Int) : Bool :=
          match c with
          | .eq => x == y | .ne => x != y | .lt => x < y | .le => x ≤ y | .gt => y < x | .ge => y ≤ x | .un => false
        ((match t with
          | .i32 => holds (opnd32 v 0).toInt (opnd32 v 1).toInt
          | .n32 => holds (opnd32 v 0).toNat (opnd32 v 1).toNat
          | .i64 => holds (opnd64 v 0).toInt (opnd64 v 1).toInt
          | .n64 => holds (opnd64 v 0).toNat (opnd64 v 1).toNat), 0#5))) ∧
  (∀ (s : State) (g : Group) (d a b : Sel) (t : FTy) (c : Cond) (p : Option Pfx),
    VReady s g (vin p 0x3F#6 (DW.of t.wide) [(a, t.wide), (b, t.wide)] none) →
    exec (.fcmp d a b t c p) s =
      .next (compareNext s g (vin p 0x3F#6 (DW.of t.wide) [(a, t.wide), (b, t.wide)] none) d fun v =>
        match t with
        | .f32 => fHolds .f32 c (opnd32 v 0).toNat (opnd32 v 1).toNat
        | .f64 => fHolds .f64 c (opnd64 v 0).toNat (opnd64 v 1).toNat
        | .f16x2 | .bf16x2 =>
          let half (k : Nat) : Bool × BitVec 5 :=
            fHolds (ftyFmt t) c ((opnd32 v 0).extractLsb' (16 * k) 16).toNat ((opnd32 v 1).extractLsb' (16 * k) 16).toNat
          (if c = .ne ∨ c = .un then (half 0).1 || (half 1).1 else (half 0).1 && (half 1).1, (half 0).2 ||| (half 1).2))) ∧
  (∀ f ∈ vfpFormats, ∀ a b : Nat, a < 2 ^ f.width → b < 2 ^ f.width →
    let nan := f.isNanEnc a || f.isNanEnc b
    let sig : BitVec 5 := if f.isSigEnc a || f.isSigEnc b then 16#5 else 0#5
    let any : BitVec 5 := if nan then 16#5 else 0#5
    let x := f.value a
    let y := f.value b
    ((fHolds f .eq a b).1 = true ↔ nan = false ∧ x = y) ∧ ((fHolds f .ne a b).1 = true ↔ nan = true ∨ x ≠ y) ∧
    ((fHolds f .lt a b).1 = true ↔ nan = false ∧ x < y) ∧ ((fHolds f .le a b).1 = true ↔ nan = false ∧ x ≤ y) ∧
    ((fHolds f .gt a b).1 = true ↔ nan = false ∧ y < x) ∧ ((fHolds f .ge a b).1 = true ↔ nan = false ∧ y ≤ x) ∧
    ((fHolds f .un a b).1 = true ↔ nan = true) ∧
    (∀ c, (fHolds f c a b).2 = match c with | .eq | .ne | .un => sig | .lt | .le | .gt | .ge => any))

/-- R132, R160: the mask that a compare or a shuffle writes, bit by bit: active lanes of the set take theirs, its inactive
lanes keep their bit or clear it under the zero policy, lanes outside the set keep theirs; `m0` is never written (R100).
R100, R164: the instructions over whole masks, once for the cohort. `m0` reads as one bit for each lane and is not
written, and bits gw and above stay 0. -/
def Obligations.Masks : Prop :=
  (∀ (g : Group) (n : Nat) (set act bits : DWord) (zero pois : Bool),
     (0 < n → n < 8 → n < g.m.length → ∀ i, i < g.gw → i < 64 →
       laneBit ((maskUpdate g n set act zero bits pois).mask n).val i =
         if laneBit set i && laneBit act i then laneBit bits i
         else if laneBit set i && zero then false
         else laneBit (g.mask n).val i) ∧
     (0 < n → n < 8 → n < g.m.length →
       ((maskUpdate g n set act zero bits pois).mask n).poison =
         (pois || ((g.mask n).poison &&
           !((List.range (min g.gw 64)).all fun i => laneBit set i && (laneBit act i || zero))))) ∧
     (∀ k, k ≠ n → (maskUpdate g n set act zero bits pois).mask k = g.mask k) ∧
     maskUpdate g 0 set act zero bits pois = g) ∧
  (∀ (s : State) (g : Group) (d a b : Sel), Issuer s g →
     let x := g.mask a.toNat
     let y := g.mask b.toNat
     let toMask (v : DWord) (pois : Bool) : Out :=
       .next (s.putGroup (movePast s (g.setMask d.toNat { val := v, poison := pois })))
     let toScalar (v : DWord) : Out := scalarTo s g d v [{ val := 0, taint := false, poison := x.poison }]
     exec (.mand d a b) s = toMask (x.val &&& y.val) (x.poison || y.poison) ∧
     exec (.mor d a b) s = toMask (x.val ||| y.val) (x.poison || y.poison) ∧
     exec (.mxor d a b) s = toMask (x.val ^^^ y.val) (x.poison || y.poison) ∧
     exec (.mnot d a) s = toMask (~~~x.val) x.poison ∧
     exec (.mmov d a) s = toMask x.val x.poison ∧
     exec (.mset d a) s = toMask (ssource g a).val (ssource g a).poison ∧
     exec (.mget d a) s = toScalar x.val ∧
     exec (.mpop d a) s = toScalar x.val.cpop ∧
     exec (.mfirst d a) s = toScalar x.val.ctz ∧
     (∀ (n : Nat) (r : MReg), 0 < n → n < 8 → n < g.m.length →
       (g.setMask n r).mask n = { val := r.val &&& lowLanes g.gw, poison := r.poison }) ∧
     (∀ r, g.setMask 0 r = g) ∧ (g.mask 0).val = lowLanes g.gw ∧ (g.mask 0).poison = false)

/-- R157 to R160, R166: the shuffles. They issue for the whole converged set; every active lane of it takes A of its source lane
as that lane held it before (any value in a register that a matrix command still owns for some thread of the set), or its own A when the source is out of range or has exited; inactive lanes follow the policy; the
out-of-range mask, if the prefix names one, is written in the manner of R132. -/
def Obligations.Shuffles : Prop :=
  ∀ (s : State) (g : Group) (d a b : Sel) (k : BitVec 3) (p : Option Pfx) (m : DWord) (o : Shuf) (i : Instr),
    (o, i) ∈ [(Shuf.pick, Instr.xlPick d a b k p), (.swap, .xlSwap d a b k p), (.fwd, .xlFwd d a b k p),
      (.back, .xlBack d a b k p)] →
    XReady s g [(d, 1), (a, 1), (b, 1)] m → pfxFaults g p = false →
    let act := (pfxLanes s.tick g p).1
    let bOf (t : Thread) : Val := if o = .pick ∨ k = 0#3 then vsource s.tick g t false b else Val.const 0
    let src (t : Thread) : Option Nat :=
      (sourceLane o g.gw k.toNat t.lane (bOf t).val.toNat).filter fun j => !g.exited j
    let giver (t : Thread) : Thread := ((src t).bind g.thread?).getD t
    let aOf (t : Thread) : Val :=
      if (giver t).lane = t.lane then vsource s.tick g t false a else vsource s.tick (g.seenBy m) (giver t) false a
    (∀ t ∈ g.threads, laneBit m t.lane = true → laneBit act t.lane = true →
      (bOf t).wait = [] ∧ (aOf t).wait = []) →
    ∃ u g', exec i s = .next u ∧ OnlyGroup s u g ∧ After u g g' ∧
      (∀ t ∈ g.threads, laneBit m t.lane = true → laneBit act t.lane = true →
        ∃ t' ∈ g'.threads, WroteLane s t t' .w32 d
          { aOf t with taint := (aOf t).taint || (bOf t).taint,
                       poison := (aOf t).poison || (bOf t).poison || (pfxLanes s.tick g p).2 }) ∧
      (∀ t ∈ g.threads, laneBit m t.lane = true → laneBit act t.lane = false →
        s.past (inactiveLane s.tick g p .w32 d [] t) ∈ g'.threads) ∧
      (∀ t ∈ g.threads, laneBit m t.lane = false → t ∈ g'.threads) ∧
      g'.fflags = g.fflags ∧ g'.s = g.s ∧
      (∀ n, n ≠ (p.map fun q => q.c.toNat).getD 0 → g'.mask n = g.mask n) ∧
      ∀ q, p = some q → q.c ≠ 0#6 →
        g'.m = (maskUpdate g q.c.toNat m act q.z
          (laneMask ((g.threads.filter fun t => laneBit m t.lane && laneBit act t.lane && (src t).isNone).map (·.lane)))
          ((g.threads.filter fun t => laneBit m t.lane && laneBit act t.lane).any fun t => (bOf t).poison)).m

/-- R161, R162: `red` gives every participant the network's value of its position, `scan` the prefix network's; the flags of
every operation of the network join `c.fflags`. A reduction's taint and poison are those of all operands, a scan's those of the
lanes up to its own. R161, R162: for the integer operations, which are associative and commutative, the reduction network over a group whose
width is a power of two gives every position the fold of all operands present, and the scan network gives each position the
fold of the operands at or below it. R162: the integer operations are sums modulo the width, signed and unsigned minima and maxima, and bit
operations, and raise no flag; the float operations are those of VFP. -/
def Obligations.ReductionsAndScans : Prop :=
  (∀ (s : State) (g : Group) (d a : Sel) (o : RedOp) (m : DWord) (scan : Bool),
     XReady s g [(d, (DW.of o.wide).regs), (a, (DW.of o.wide).regs)] m →
     let ps := g.threads.filter fun t => laneBit m t.lane
     let val (t : Thread) : Val := vsource s.tick (g.seenBy m) t o.wide a
     (∀ t ∈ ps, (val t).wait = []) →
     let pos : List (Option Nat) :=
       (List.range g.gw).map fun i => (ps.find? fun t => t.lane == i).map fun t => (val t).val.toNat
     let net := if scan then scanNet (modeOf g none) o g.gw (Nat.log2 g.gw) 0 pos 0#5
       else reduceNet (modeOf g none) o g.gw (Nat.log2 g.gw) pos 0#5
     let among (t : Thread) : List Thread := if scan then ps.filter fun u => u.lane ≤ t.lane else ps
     ∃ u g', exec (if scan then .scan d a o else .red d a o) s = .next u ∧ OnlyGroup s u g ∧ After u g g' ∧
       (∀ t ∈ ps, ∃ t' ∈ g'.threads, WroteLane s t t' (DW.of o.wide) d
         { val := BitVec.ofNat 128 ((net.1.getD t.lane none).getD 0), taint := (among t).any fun x => (val x).taint,
           poison := (among t).any fun x => (val x).poison, wait := [] }) ∧
       (∀ t ∈ g.threads, laneBit m t.lane = false → t ∈ g'.threads) ∧
       g'.fflags = g.fflags ||| net.2 ∧ g'.s = g.s ∧ g'.m = g.m) ∧
  (∀ (mode : RMode) (o : RedOp) (n : Nat) (pos : List (Option Nat)) (fl : BitVec 5),
     o ∈ [RedOp.addI32, .addI64, .minI32, .minN32, .maxI32, .maxN32, .andB32, .orB32, .xorB32] →
     pos.length = 2 ^ n → (∀ x ∈ pos.filterMap id, x < 2 ^ (if o.wide then 64 else 32)) →
     let fold (l : List Nat) : Option Nat :=
       match l with
       | [] => none
       | x :: xs => some (xs.foldl (fun a b => (redOp mode o a b).1) x)
     (∀ i, i < 2 ^ n → (reduceNet mode o (2 ^ n) n pos fl).1.getD i none = fold (pos.filterMap id)) ∧
     (∀ i, i < 2 ^ n → (scanNet mode o (2 ^ n) n 0 pos fl).1.getD i none = fold ((pos.take (i + 1)).filterMap id)) ∧
     (reduceNet mode o (2 ^ n) n pos fl).2 = fl ∧ (scanNet mode o (2 ^ n) n 0 pos fl).2 = fl) ∧
  (∀ (mode : RMode) (x y : BitVec 32) (v w : BitVec 64),
     redOp mode .addI32 x.toNat y.toNat = ((x + y).toNat, 0#5) ∧ redOp mode .addI64 v.toNat w.toNat = ((v + w).toNat, 0#5) ∧
     redOp mode .minI32 x.toNat y.toNat = ((if y.slt x then y else x).toNat, 0#5) ∧
     redOp mode .maxI32 x.toNat y.toNat = ((if x.slt y then y else x).toNat, 0#5) ∧
     redOp mode .minN32 x.toNat y.toNat = ((if y.ult x then y else x).toNat, 0#5) ∧
     redOp mode .maxN32 x.toNat y.toNat = ((if x.ult y then y else x).toNat, 0#5) ∧
     redOp mode .andB32 x.toNat y.toNat = ((x &&& y).toNat, 0#5) ∧
     redOp mode .orB32 x.toNat y.toNat = ((x ||| y).toNat, 0#5) ∧ redOp mode .xorB32 x.toNat y.toNat = ((x ^^^ y).toNat, 0#5) ∧
     redOp mode .faddF32 x.toNat y.toNat = fAdd .f32 mode x.toNat y.toNat ∧
     redOp mode .faddF64 v.toNat w.toNat = fAdd .f64 mode v.toNat w.toNat ∧
     redOp mode .fminF32 x.toNat y.toNat = fMinMax .f32 false x.toNat y.toNat ∧
     redOp mode .fmaxF32 x.toNat y.toNat = fMinMax .f32 true x.toNat y.toNat ∧
     redOp mode .fminF64 v.toNat w.toNat = fMinMax .f64 false v.toNat w.toNat ∧
     redOp mode .fmaxF64 v.toNat w.toNat = fMinMax .f64 true v.toNat w.toNat)

/-- R163: votes, `ballot`, `match` and `popm` over the participant set. -/
def Obligations.Votes : Prop :=
  (∀ (s : State) (g : Group) (d a : Sel) (m : DWord),
    XReady s g [(a, 1)] m →
    let ps := g.threads.filter fun t => laneBit m t.lane
    let val (t : Thread) : Val := vsource s.tick (g.seenBy m) t false a
    (∀ t ∈ ps, (val t).wait = []) →
    let any : Bool := ps.any fun t => (val t).val != 0
    let all : Bool := ps.all fun t => (val t).val != 0
    let v (b : Bool) : Val64 :=
      { val := if b then 1 else 0, taint := ps.any fun t => (val t).taint, poison := ps.any fun t => (val t).poison }
    exec (.voteAny d a) s = .next (s.putGroup (pastMask s m (g.setScalar d (v any)))) ∧
    exec (.voteAll d a) s = .next (s.putGroup (pastMask s m (g.setScalar d (v all)))) ∧
    exec (.ballot d a) s = .next (s.putGroup (pastMask s m (maskUpdate g d.toNat m (lowLanes g.gw) false
      (laneMask ((ps.filter fun t => (val t).val != 0).map (·.lane))) (ps.any fun t => (val t).poison))))) ∧
  (∀ (s : State) (g : Group) (d a : Sel) (m : DWord),
    XReady s g [(a, 1), (d, 2)] m →
    let ps := g.threads.filter fun t => laneBit m t.lane
    let val (t : Thread) : Val := vsource s.tick (g.seenBy m) t false a
    (∀ t ∈ ps, (val t).wait = []) →
    ∃ u g', exec (.matchLanes d a) s = .next u ∧ OnlyGroup s u g ∧ After u g g' ∧
      ∀ t ∈ ps, ∃ t' ∈ g'.threads, WroteLane s t t' .w64 d
        { val := (laneMask ((ps.filter fun x => (val x).val == (val t).val).map (·.lane))).setWidth 128,
          taint := ps.any fun x => (val x).taint, poison := ps.any fun x => (val x).poison, wait := [] }) ∧
  (∀ (s : State) (g : Group) (d a : Sel) (m : DWord),
    XReady s g [(d, 1)] m →
    ∃ u g', exec (.popm d a) s = .next u ∧ OnlyGroup s u g ∧ After u g g' ∧
      ∀ t ∈ g.threads, laneBit m t.lane = true → ∃ t' ∈ g'.threads, WroteLane s t t' .w32 d
        { val := ((g.mask a.toNat).val &&& lowLanes t.lane).cpop.setWidth 128, taint := false,
          poison := (g.mask a.toNat).poison, wait := [] })

/-- R133, R135: the scalar instructions of two sources, and of one. R134, R65: the scalar instructions with an immediate,
and where a scalar result goes: to the register named, with the others kept, and nowhere for any other selector. R136,
R137: a lane's register or history entry into a scalar, and a scalar's low word into a lane's register. A lane that does
not exist or has exited reads as 0 and takes nothing. R124, R273: what is written to a register that a matrix command still owns for
the cohort is any value. -/
def Obligations.ScalarInstructions : Prop :=
  ((∀ (s : State) (g : Group) (d a b : Sel), Issuer s g →
      let X := ssource g a
      let Y := ssource g b
      let x := X.val
      let y := Y.val
      let done (v : DWord) : Out := scalarTo s g d v [X, Y]
      let bit (c : Bool) : Out := done (if c then 1 else 0)
      exec (.sadd d a b) s = done (x + y) ∧
      exec (.ssub d a b) s = done (x - y) ∧
      exec (.smul d a b) s = done (x * y) ∧
      exec (.smulhi d a b) s = done (BitVec.ofInt 64 (x.toInt * y.toInt / 2 ^ 64)) ∧
      exec (.sdiv d a b) s = done (if y = 0 then -1 else x.sdiv y) ∧
      exec (.sdivN d a b) s = done (if y = 0 then -1 else x / y) ∧
      exec (.srem d a b) s = done (x.srem y) ∧
      exec (.sremN d a b) s = done (x % y) ∧
      exec (.smin d a b) s = done (if x.slt y then x else y) ∧
      exec (.sminN d a b) s = done (if x.ult y then x else y) ∧
      exec (.smax d a b) s = done (if x.slt y then y else x) ∧
      exec (.smaxN d a b) s = done (if x.ult y then y else x) ∧
      exec (.sand d a b) s = done (x &&& y) ∧
      exec (.sor d a b) s = done (x ||| y) ∧
      exec (.sxor d a b) s = done (x ^^^ y) ∧
      exec (.sshl d a b) s = done (x <<< (y.toNat % 256)) ∧
      exec (.sshr d a b) s = done (x >>> (y.toNat % 256)) ∧
      exec (.ssra d a b) s = done (x.sshiftRight (y.toNat % 256)) ∧
      exec (.sclz d a) s = scalarTo s g d x.clz [X] ∧
      exec (.spopc d a) s = scalarTo s g d x.cpop [X] ∧
      exec (.smov d a) s = scalarTo s g d x [X] ∧
      exec (.ssel d a b) s = scalarTo s g d (if (ssource g d).val = 0 then y else x) [ssource g d, X, Y] ∧
      exec (.scmpEq d a b) s = bit (x == y) ∧
      exec (.scmpNe d a b) s = bit (x != y) ∧
      exec (.scmpLt d a b) s = bit (x.slt y) ∧
      exec (.scmpLe d a b) s = bit (x.sle y) ∧
      exec (.scmpLtN d a b) s = bit (x.ult y) ∧
      exec (.scmpLeN d a b) s = bit (x.ule y)) ∧
   ((∀ (s : State) (g : Group) (d a : Sel) (i : Imm8) (k : Imm) (lit : Option Imm), Issuer s g →
      let X := ssource g a
      let x := X.val
      let n : DWord := immOf 64 i lit
      exec (.saddImm d a i lit) s = scalarTo s g d (x + n) [X] ∧
      exec (.smulImm d a i lit) s = scalarTo s g d (x * n) [X] ∧
      exec (.sandImm d a i lit) s = scalarTo s g d (x &&& n) [X] ∧
      exec (.sorImm d a i lit) s = scalarTo s g d (x ||| n) [X] ∧
      exec (.sxorImm d a i lit) s = scalarTo s g d (x ^^^ n) [X] ∧
      exec (.sshlImm d a i lit) s = scalarTo s g d (x <<< immShift i lit) [X] ∧
      exec (.sshrImm d a i lit) s = scalarTo s g d (x >>> immShift i lit) [X] ∧
      exec (.ssraImm d a i lit) s = scalarTo s g d (x.sshiftRight (immShift i lit)) [X] ∧
      exec (.smovi d i) s = scalarTo s g d (i.signExtend 64) [] ∧
      exec (.slit d k) s = scalarTo s g d k []) ∧
    (∀ (g : Group) (d : Sel) (v : Val64) (n : Nat),
      (g.setScalar d v).scalar n = if d.toNat < 0x20 ∧ n = d.toNat ∧ n < g.s.length then v else g.scalar n) ∧
    (∀ (g : Group) (d : Sel) (v : Val64), 0x20 ≤ d.toNat → g.setScalar d v = g) ∧
    (∀ (s : State) (g : Group) (v : Val64) (d : Sel),
      (movePast s (g.setScalar d v)).m = g.m ∧ (movePast s (g.setScalar d v)).fflags = g.fflags ∧
      ∀ t ∈ g.threads,
        (if laneBit s.cur.lanes t.lane then s.past t else t) ∈ (movePast s (g.setScalar d v)).threads ∧
        (s.past t).v = t.v ∧ (s.past t).h = t.h ∧ (s.past t).pc = t.pc + s.instBytes))) ∧
  ((∀ (s : State) (g : Group) (d a b : Sel) (t : Thread), Issuer s g → g.nregOk [(a, 1)] = true →
     let j := ssource g b
     g.thread? j.val.toNat = some t → t.st ≠ .exited →
     let v := vsource s.tick (g.seenBy s.cur.lanes) t (decide (0x20 ≤ a.toNat)) a
     v.wait = [] →
     exec (.sRd d a b) s = scalarTo s g d (v.val.setWidth 64)
       [{ val := 0, taint := v.taint, poison := v.poison }, j]) ∧
   (∀ (s : State) (g : Group) (d a b : Sel), Issuer s g → g.nregOk [(a, 1)] = true →
     g.exited (ssource g b).val.toNat = true →
     exec (.sRd d a b) s = scalarTo s g d 0 [ssource g b]) ∧
   (∀ (s : State) (g : Group) (d a b : Sel) (t : Thread), Issuer s g → g.nregOk [(d, 1)] = true → d.toNat < 0x20 →
     let x := ssource g a
     let j := ssource g b
     g.thread? j.val.toNat = some t → t.st ≠ .exited → (readReg s.tick g t d.toNat).wait = [] →
     ∃ u g' w, exec (.sWr d a b) s = .next u ∧ OnlyGroup s u g ∧ After u g g' ∧ g'.s = g.s ∧ g'.m = g.m ∧
       (g.owesReg s.cur.lanes d.toNat t.lane = false → w = x.val.setWidth 32) ∧
       ∀ th ∈ g.threads,
         let v' := if th.lane = t.lane then
             th.v.set d.toNat { val := w, taint := x.taint || j.taint, poison := x.poison || j.poison, wait := [] }
           else th.v
         (if laneBit s.cur.lanes th.lane then s.past { th with v := v' } else { th with v := v' }) ∈ g'.threads) ∧
   (∀ (s : State) (g : Group) (d a b : Sel), Issuer s g → g.nregOk [(d, 1)] = true →
     g.exited (ssource g b).val.toNat = true →
     exec (.sWr d a b) s = .next (s.putGroup (movePast s g))))

/-- R108 to R117: what a read of each control register gives; registers that only higher levels may read raise PRIV below
them, and a number that no register has raises ILL (R107, R118). -/
def Obligations.CsrReads : Prop :=
  ∀ (s : State) (g : Group) (d : Sel), Issuer s g →
    let c := s.core g.core
    let read (n : Nat) (x : DWord) : Prop := exec (.csrr d (BitVec.ofNat 12 n)) s = scalarTo s g d x []
    let refused (n : Nat) : Prop := exec (.csrr d (BitVec.ofNat 12 n)) s = raiseCohort s g (.plain .priv)
    let field (x : Nat) (lo : Nat) : DWord := BitVec.ofNat 64 x <<< lo
    read 0x000 64#64 ∧
    (g.gw < 256 → g.nreg < 64 → read 0x001 (field g.nreg 8 ||| field g.gw 0)) ∧
    read 0x002 (field g.gid 0) ∧ read 0x003 (field g.tx 0) ∧ read 0x004 (field g.ty 0) ∧ read 0x005 (field g.tz 0) ∧
    (g.core < 512 → read 0x006 (field (s.siteOf g.core) 16 ||| field g.core 0)) ∧
    (g.cx < 16 → g.cy < 16 → g.cw < 16 → g.ch < 16 → g.clid < 2 ^ 20 →
      read 0x007 (field g.clid 16 ||| field g.ch 12 ||| field g.cw 8 ||| field g.cy 4 ||| field g.cx 0)) ∧
    read 0x008 (g.lseq ++ 0#10 ++ g.lq ++ g.ginst) ∧
    read 0x010 (match g.priv with | .u => 0 | .s => 1 | .f => 2) ∧
    read 0x011 (g.world.setWidth 64) ∧ read 0x012 (g.asid.setWidth 64) ∧
    read 0x013 (field g.prom.toNat 8 ||| (match g.kcls with | .p => 0 | .d => 1 | .n => 2)) ∧
    read 0x020 (g.rm.setWidth 64) ∧ read 0x021 (g.srseed.setWidth 64) ∧ read 0x022 (g.fflags.setWidth 64) ∧
    read 0x030 (g.rcvbase &&& ~~~0x7F#64) ∧ read 0x031 (field g.rcvdepth 0) ∧
    read 0x032 (0#8 ++ g.stkBase ++ 0#8 ++ g.stkSzc) ∧ read 0x033 (field g.spadsz 0) ∧
    read 0x040 s.time ∧
    read 0x042 (field (s.ebud g) 0) ∧
    (g.priv ≠ .u →
      read 0x041 (mapGet (BitVec.allOnes 64) c.tcmp g.world.toNat) ∧
      (∀ n, n < 4 → read (0x050 + n) ((c.bpa.getD n 0) &&& ~~~3#64)) ∧ read 0x054 c.bpc ∧
      ∀ n, n < 8 → read (0x060 + n) ((c.cnt.getD n 0).setWidth 64) ∧ read (0x068 + n) ((c.cnsel.getD n 0).setWidth 64)) ∧
    (g.priv = .u →
      refused 0x041 ∧ (∀ n, n < 5 → refused (0x050 + n)) ∧
      ∀ n, n < 8 → refused (0x068 + n) ∧
        if ((c.cnsel.getD n 0).extractLsb' 16 6) = g.world ∧ (c.cnsel.getD n 0).getLsbD 10 = true then
          read (0x060 + n) ((c.cnt.getD n 0).setWidth 64)
        else refused (0x060 + n)) ∧
    ∀ n : BitVec 12,
      n.toNat ∉ [0, 1, 2, 3, 4, 5, 6, 7, 8, 0x10, 0x11, 0x12, 0x13, 0x20, 0x21, 0x22, 0x30, 0x31, 0x32, 0x33, 0x40, 0x41,
        0x42, 0x50, 0x51, 0x52, 0x53, 0x54, 0x60, 0x61, 0x62, 0x63, 0x64, 0x65, 0x66, 0x67, 0x68, 0x69, 0x6A, 0x6B, 0x6C,
        0x6D, 0x6E, 0x6F] →
      exec (.csrr d n) s = raiseCohort s g (.plain .ill) ∧ exec (.csrw d n) s = raiseCohort s g (.plain .ill) ∧
      exec (.csrs d n) s = raiseCohort s g (.plain .ill) ∧ exec (.csrc d n) s = raiseCohort s g (.plain .ill)

/-- R118, R38, R40, R109, R115 to R117: what the writing forms make of each control register. Fields that the level may write
take the form's value, W1C fields lose the bits written as ones except under `csrc`, and all others keep theirs. -/
def Obligations.CsrWrites : Prop :=
  ∀ (s : State) (g : Group) (d : Sel) (f : CsrFn) (x : DWord),
    Issuer s g → consumeS s.tick 100000 g d = some x →
    let c := s.core g.core
    let g1 := movePast s g
    let write (n : Nat) : Out :=
      exec (match f with
        | .write => .csrw d (BitVec.ofNat 12 n)
        | .set => .csrs d (BitVec.ofNat 12 n)
        | .clear => .csrc d (BitVec.ofNat 12 n)) s
    let form (old : DWord) : DWord := match f with | .write => x | .set => old ||| x | .clear => old &&& ~~~x
    let fields (old m : DWord) : DWord := (old &&& ~~~m) ||| (form old &&& m)
    let grp (g' : Group) : Out := .next (s.putGroup g')
    let dev (c' : CoreRec) : Out := .next ((s.putGroup g1).setCore c')
    (∀ o, o ∈ [write 0x020, exec (.rmWrite f d) s] →
      o = grp { g1 with rm := let v := (form (g.rm.setWidth 64)).setWidth 3
                              if v = 0#3 ∨ v = 7#3 then 1#3 else v }) ∧
    (∀ o, o ∈ [write 0x021, exec (.srseedWrite f d) s] →
      let v : Word := (form (g.srseed.setWidth 64)).setWidth 32
      o = grp { g1 with srseed := v, threads := g1.threads.map fun t => { t with srg := seedSrg v t.lane } }) ∧
    (∀ o, o ∈ [write 0x022, exec (.fflagsWrite f d) s] →
      o = grp { g1 with fflags := (form (g.fflags.setWidth 64)).setWidth 5 }) ∧
    (∀ o, o ∈ [write 0x030, exec (.rcvbaseWrite f d) s] →
      o = if 8 < g.rcvdepth then grp g1 else grp { g1 with rcvbase := form (g.rcvbase &&& ~~~0x7F#64) &&& ~~~0x7F#64 }) ∧
    (∀ o, o ∈ [write 0x054, exec (.bpcWrite f d) s] →
      let hit (v : DWord) : DWord := if f = .clear then v else v &&& ~~~(x &&& 0xF00#64)
      o = match g.priv with
        | .f => dev { c with bpc := hit (fields c.bpc 0x3F000F#64) }
        | .s => if c.bpc.extractLsb' 16 6 = g.world then dev { c with bpc := hit (fields c.bpc 0xF#64) }
          else raiseCohort s g (.plain .priv)
        | .u => raiseCohort s g (.plain .priv)) ∧
    (∀ n, n ∈ [0x000, 0x001, 0x002, 0x003, 0x004, 0x005, 0x006, 0x007, 0x008, 0x010, 0x011, 0x012, 0x013, 0x031, 0x033,
        0x040, 0x042] → write n = grp g1) ∧
    (let v := fields (0#8 ++ g.stkBase ++ 0#8 ++ g.stkSzc) (if g.priv = .u then 0 else 0x00FFFFFFFFFFF00F#64)
     write 0x032 = grp { g1 with
       stkBase := v.extractLsb' 12 44, stkSzc := if 10 < (v.extractLsb' 0 4).toNat then 10 else v.extractLsb' 0 4 }) ∧
    (g.priv = .f →
      write 0x041 = dev { c with
        tcmp := mapSet (BitVec.allOnes 64) c.tcmp g.world.toNat (form (mapGet (BitVec.allOnes 64) c.tcmp g.world.toNat)) } ∧
      (∀ n, n < 8 → write (0x060 + n) =
        dev { c with cnt := c.cnt.set n ((form ((c.cnt.getD n 0).setWidth 64)).setWidth 48) }) ∧
      (∀ n, n < 8 → write (0x068 + n) =
        dev { c with cnsel := c.cnsel.set n ((fields ((c.cnsel.getD n 0).setWidth 64) 0x3F073F#64).setWidth 32) }) ∧
      ∀ n, n < 4 → write (0x050 + n) = dev { c with bpa := c.bpa.set n (form (c.bpa.getD n 0 &&& ~~~3#64) &&& ~~~3#64) }) ∧
    (g.priv = .s →
      (∀ n, n < 8 → if (c.cnsel.getD n 0).extractLsb' 16 6 = g.world then
          write (0x060 + n) = dev { c with cnt := c.cnt.set n ((form ((c.cnt.getD n 0).setWidth 64)).setWidth 48) } ∧
          write (0x068 + n) =
            dev { c with cnsel := c.cnsel.set n ((fields ((c.cnsel.getD n 0).setWidth 64) 0x73F#64).setWidth 32) }
        else write (0x060 + n) = raiseCohort s g (.plain .priv) ∧ write (0x068 + n) = raiseCohort s g (.plain .priv)) ∧
      ∀ n, n < 4 → write (0x050 + n) =
        if c.bpc.extractLsb' 16 6 = g.world then
          dev { c with bpa := c.bpa.set n (form (c.bpa.getD n 0 &&& ~~~3#64) &&& ~~~3#64) }
        else raiseCohort s g (.plain .priv)) ∧
    (g.priv = .u → write 0x041 = raiseCohort s g (.plain .priv) ∧
      (∀ n, n < 4 → write (0x050 + n) = raiseCohort s g (.plain .priv)) ∧
      ∀ n, n < 8 → write (0x068 + n) = raiseCohort s g (.plain .priv))

/-- R171, R172, R50, R52: where the threads of a cohort go. A conditional branch looks at each thread's value, or at a
scalar; a literal is the target, else the offset counts words from the instruction. `call` leaves the address of the
next instruction in its pair. Threads that leave through a conditional branch or a jump split by target. R102, R171,
R172: a poisoned condition or address in a group that may not consume poison: each such thread takes a POISON record at
its instruction and the others go on, and a poisoned scalar condition faults the cohort. -/
def Obligations.BranchesAndCalls : Prop :=
  (∀ (s : State) (g : Group) (c : Sel) (o : BitVec 14) (lit : Option Imm), Issuer s g →
     let goal (t : Thread) : DWord :=
       match lit with
       | some a => a &&& ~~~3#64
       | none => t.pc + 4#64 * o.signExtend 64
     let move (f : Thread → Thread) : Out :=
       .next (s.putGroup (g.mapThreads fun t => if laneBit s.cur.lanes t.lane then f t else t))
     let at_ (t : Thread) (a : DWord) : Thread :=
       { t with pc := a &&& ~~~3#64, since := s.cycle + 1 + Config.latency s.tick, bpSkip := false }
     let split (t : Thread) (a : DWord) : Thread := { at_ t a with path := t.path ++ [(a &&& ~~~3#64).toNat] }
     exec (.bra o lit) s = move (fun t => at_ t (goal t)) ∧
     (g.nregOk [(c, 1)] = true →
       (∀ t ∈ g.inMask s.cur.lanes, (vsource s.tick g t false c).wait = [] ∧ (vsource s.tick g t false c).poison = false) →
       exec (.brz c o lit) s =
         move (fun t => split t (if (vsource s.tick g t false c).val = 0 then goal t else t.pc + s.instBytes)) ∧
       exec (.brnz c o lit) s =
         move (fun t => split t (if (vsource s.tick g t false c).val = 0 then t.pc + s.instBytes else goal t))) ∧
     ((ssource g c).poison = false →
       exec (.bsz c o lit) s = move (fun t => split t (if (ssource g c).val = 0 then goal t else t.pc + s.instBytes)) ∧
       exec (.bsnz c o lit) s = move (fun t => split t (if (ssource g c).val = 0 then t.pc + s.instBytes else goal t))) ∧
     (g.nregOk [(c, 2)] = true →
       (∃ u g', exec (.call c o lit) s = .next u ∧ OnlyGroup s u g ∧ After u g g' ∧ g'.s = g.s ∧ g'.m = g.m ∧
         g'.threads = g.threads.map fun t => if laneBit s.cur.lanes t.lane then
           { at_ t (goal t) with
             v := (writeDst t .w64 c { val := (t.pc + s.instBytes).setWidth 128, taint := false, poison := false, wait := [] }).v }
           else t) ∧
       ((∀ t ∈ g.inMask s.cur.lanes, (vsource s.tick g t true c).wait = [] ∧ (vsource s.tick g t true c).poison = false) →
         exec (.ret c) s = move (fun t => split t ((vsource s.tick g t true c).val.setWidth 64)) ∧
         exec (.jmp c) s = move (fun t => split t ((vsource s.tick g t true c).val.setWidth 64))))) ∧
  (∀ (s : State) (g : Group) (c : Sel) (o : BitVec 14) (lit : Option Imm), Issuer s g → g.kcls ≠ .n →
     ((ssource g c).poison = true → g.inMask s.cur.lanes ≠ [] →
       exec (.bsz c o lit) s = raiseCohort s g (.plain .poison) ∧ exec (.bsnz c o lit) s = raiseCohort s g (.plain .poison)) ∧
     ∀ (wide : Bool) (i : Instr), i ∈ (if wide then [Instr.ret c, .jmp c] else [.brz c o lit, .brnz c o lit]) →
       g.nregOk [(c, if wide then 2 else 1)] = true →
       (g.threads.map (·.lane)).Nodup → (∀ t ∈ g.threads, t.lane < 64 ∧ t.logRec = none) →
       (s.faultq.filter fun q => q.core == g.core && q.live).length + g.threads.length ≤ 2048 →
       (∀ t ∈ g.inMask s.cur.lanes, (vsource s.tick g t wide c).wait = []) →
       ∃ u g', exec i s = .next u ∧ After u g g' ∧
         ∀ t ∈ g.inMask s.cur.lanes, ∃ t' ∈ g'.threads, t'.lane = t.lane ∧ t'.v = t.v ∧ t'.h = t.h ∧
           (if (vsource s.tick g t wide c).poison then
             t'.pc = t.pc ∧ ∃ q ∈ u.faultq, q.core = g.core ∧ q.live = true ∧ t'.st = .parkedFault q.slot ∧
               q.body.code = .poison ∧ q.body.lane = t.lane ∧ q.body.coh = false ∧ q.body.acc = 9
           else t'.st = t.st))

/-- R173, R182: `nop` only moves on; `yield`, `sleep` and `wfe` leave the cohort's threads past the instruction in a state
of rest, from which the end of the count or any wake returns them. A count of 0 sleeps as `yield` does, and a poisoned
count counts as it stands. R174, R184, R275: `fence.i` empties the core's instruction cache; `halt` in F stops the core
for good, with its side log and its open joint commands gone; it waits while a walk in flight is still to tell whether the page
of an entry of the side log is mapped, so that the entry is performed or discarded. -/
def Obligations.RestWakeAndHalt : Prop :=
  ((∀ (s : State) (g : Group) (c : Sel), Issuer s g →
     let rest (w : TState) : Out := .next (s.putGroup (g.mapThreads fun t => if laneBit s.cur.lanes t.lane then
       { t with pc := t.pc + s.instBytes, since := s.cycle + 1 + Config.latency s.tick, bpSkip := false, st := w } else t))
     let n := ((ssource g c).val.setWidth 32).toNat
     exec .nop s = .next (s.putGroup (g.mapThreads fun t => if laneBit s.cur.lanes t.lane then
       { t with pc := t.pc + s.instBytes, since := s.cycle + 1 + Config.latency s.tick, bpSkip := false } else t)) ∧
     exec .yield s = rest (.sleeping (s.cycle + 2)) ∧
     exec (.sleep c) s = rest (.sleeping (s.cycle + if n = 0 then 2 else n)) ∧
     exec .wfe s = rest (.wfe (s.cycle + 65536))) ∧
   (∀ (s : State) (g : Group) (t : Thread) (core slot lane : Nat), s.group? core slot = some g → lane < 64 →
     g.threads.find? (fun u => u.lane == lane) = some t →
     ((∃ w, t.st = .sleeping w ∧ w ≤ s.cycle) →
       ∃ u g', exec (.sleepExpiry core slot lane) s = .next u ∧ OnlyGroup s u g ∧ After u g g' ∧
         { t with st := .ready, since := s.cycle + 1 } ∈ g'.threads ∧ (∀ t' ∈ g.threads, t'.lane ≠ lane → t' ∈ g'.threads)) ∧
     ((∃ w, t.st = .wfe w) →
       ∃ u g', exec (.wfeWake core slot lane) s = .next u ∧ OnlyGroup s u g ∧ After u g g' ∧
         { t with st := .ready, since := s.cycle + 1 } ∈ g'.threads ∧ (∀ t' ∈ g.threads, t'.lane ≠ lane → t' ∈ g'.threads)))) ∧
  (∀ (s : State) (g : Group), Issuer s g →
     exec .fenceI s = .next { (s.putGroup (movePast s g)) with icache := s.icache.filter fun l => l.core != g.core } ∧
     let drained := (s.putGroup (movePast s g)).drainLog g.core
     (g.priv = .f → drained.isSome = true → ∃ u, exec .halt s = .next u ∧ (u.core g.core).halted = true ∧
       (∀ e ∈ u.slog, e.core ≠ g.core) ∧ ∀ j ∈ u.joints, j.by_.core ≠ g.core) ∧
     (g.priv = .f → drained = none → exec .halt s = .next { s with stalled := true }) ∧
     ((∀ e ∈ s.slog, e.core ≠ g.core) → drained.isSome = true))

/-- R175 to R177: the reconvergence frames that are in hardware. `rcv.push` opens one over the cohort; `rcv.wait` at its
label adds the cohort to those that have arrived, `rcv.drop` takes the cohort out of it, `rcv.pop` closes it; a frame
whose members have all arrived or exited releases those that arrived to the instruction after the label, and keeps them
as its members. R176: a frame instruction of a cohort whose group has no frame raises RCV_BAD for the cohort; so does
`rcv.pop` where a thread of the cohort is no member of the newest frame. -/
def Obligations.ReconvergenceFrames : Prop :=
  (∀ (s : State) (g : Group) (t : Thread) (ts : List Thread), Issuer s g → g.inMask s.cur.lanes = t :: ts →
     let lanes := s.cur.lanes
     let view (f : Frame) : DWord × DWord × DWord := (f.label, f.members, f.arrived)
     (∀ (o : BitVec 14) (lit : Option Imm), g.rcvdepth < 8 →
       exec (.rcvPush o lit) s = .next ((s.putGroup (movePast s { g with
         rcvdepth := g.rcvdepth + 1
         frames := { label := (match lit with | some a => a | none => t.pc + 4#64 * o.signExtend 64) &&& ~~~3#64,
                     members := lanes, arrived := 0, gw := g.gw, depth := g.rcvdepth + 1 } :: g.frames })).dropWalks
           (g.poster t.lane))) ∧
     ∀ (f : Frame) (fs : List Frame), g.frames = f :: fs → g.rcvdepth = g.frames.length → g.rcvdepth ≤ 8 →
       (g.threads.map (·.lane)).Nodup → (∀ th ∈ g.threads, th.lane < 64 ∧ (laneBit lanes th.lane = true → th.st ≠ .exited)) →
       (∀ i, i < 64 → laneBit lanes i = true → ∃ th ∈ g.threads, th.lane = i) →
       lanes &&& ~~~f.members = 0 → (∀ h ∈ fs, h.releases g.exitedMask = false) →
       let woken (m : DWord) (th : Thread) : Prop := laneBit m th.lane = true ∧ th.st ≠ .exited
       let free (g' : Group) (th : Thread) : Prop := ∃ th' ∈ g'.threads, th'.lane = th.lane ∧ th'.v = th.v ∧ th'.h = th.h ∧
         th'.st = .ready ∧ th'.pc = (f.label + 4#64) &&& ~~~3#64
       (let arr := f.arrived ||| lanes
        f.label = t.pc → ∃ u g', exec .rcvWait s = .next u ∧ After u g g' ∧ g'.rcvdepth = g.rcvdepth ∧
         if f.members &&& ~~~(arr ||| g.exitedMask) = 0 then
           g'.frames.map view = (f.label, arr, 0#64) :: fs.map view ∧
           ∀ th ∈ g.threads, (woken arr th → free g' th) ∧ (¬ woken arr th → th ∈ g'.threads)
         else
           g'.frames.map view = (f.label, f.members, arr) :: fs.map view ∧
           ∀ th ∈ g.threads, (if laneBit lanes th.lane then { th with st := .atRcv, bpSkip := false } else th) ∈ g'.threads) ∧
       (∃ u g', exec .rcvPop s = .next u ∧ After u g g' ∧ g'.rcvdepth = g.rcvdepth - 1 ∧ g'.frames.map view = fs.map view ∧
         g'.threads = (movePast s g).threads) ∧
       (let left := f.members &&& ~~~lanes
        ∃ u g', exec .rcvDrop s = .next u ∧ After u g g' ∧
         if left = 0 then
           g'.rcvdepth = g.rcvdepth - 1 ∧ g'.frames.map view = fs.map view ∧ g'.threads = (movePast s g).threads
         else
           g'.rcvdepth = g.rcvdepth ∧
           if f.arrived ≠ 0 ∧ left &&& ~~~(f.arrived ||| g.exitedMask) = 0 then
             g'.frames.map view = (f.label, f.arrived, 0#64) :: fs.map view
           else
             g'.frames.map view = (f.label, left, f.arrived) :: fs.map view ∧ g'.threads = (movePast s g).threads)) ∧
  (∀ (s : State) (g : Group), Issuer s g →
     ((g.frames = [] ∨ ∃ f fs, g.frames = f :: fs ∧ s.cur.lanes &&& ~~~f.members ≠ 0) →
       exec .rcvPop s = raiseCohort s g (.plain .rcvBad)) ∧
     (g.frames = [] → g.rcvdepth = 0 → g.inMask s.cur.lanes ≠ [] → (g.threads.map (·.lane)).Nodup →
       (∀ t ∈ g.threads, t.lane < 64 ∧ t.logRec = none) →
       ∀ i, i ∈ [Instr.rcvWait, .rcvDrop] → ∃ u g', exec i s = .next u ∧ After u g g' ∧
         ∃ q ∈ u.faultq, q.core = g.core ∧ q.live = true ∧ q.body.code = .rcvBad ∧ q.body.gslot = g.slot % 512 ∧ q.body.acc = 9 ∧
           ∀ t ∈ g.inMask s.cur.lanes, { t with st := .parkedFault q.slot } ∈ g'.threads))

/-- R173, R176, R298, R334: `exit` ends the threads of the cohort for good; registers and history stay, and threads that had
not exited go on. With the group's last thread go its frames, its service and its hold on the group slot. R294: the slot is then
free for another group. -/
def Obligations.ExitEndsThreads : Prop :=
  ∀ (s : State) (g : Group), Issuer s g → g.rcvdepth = g.frames.length → g.rcvdepth ≤ 8 →
    let ended : Prop := ∀ t ∈ g.threads, laneBit s.cur.lanes t.lane = true ∨ t.st = .exited
    ∃ u g', exec .exit s = .next u ∧ g' ∈ u.groups ∧ g'.core = g.core ∧ g'.slot % 512 = g.slot % 512 ∧
      (∀ t ∈ g.threads, ∃ t' ∈ g'.threads, t'.lane = t.lane ∧ t'.v = t.v ∧ t'.h = t.h ∧
        (t'.st = .exited ↔ laneBit s.cur.lanes t.lane = true ∨ t.st = .exited)) ∧
      (¬ ended → After u g g') ∧
      (ended → g'.frames = [] ∧ g'.rcvdepth = 0 ∧ g'.service = none ∧ (g.slot < 512 → u.group? g.core g.slot = none))

/-- R397, R398: the team and the cluster barrier. Threads of the cohort arrive; the barrier completes when every thread of the
team, or of every group of the cluster, that has not exited has arrived, and then all of them go on past it. R169, R252: the threads
of a group that is frozen, or whose core has halted, have not arrived. R397, R399: a named barrier counts groups. When the last live threads of a group reach `bar.named` or `bar.arrive`,
the group arrives, and consumes the count, and until then those that did wait for the rest; a poisoned count is POISON for the
group; the first arrival of a phase sets the target; with as many arrivals as the target, or as the team's groups that
have not exited, the barrier completes, its waiting threads go on, and it starts again with no arrival. -/
def Obligations.TeamClusterAndNamedBarriers : Prop :=
  (∀ (s : State) (g : Group) (tm : Team), Issuer s g → s.team? g.team = some tm →
     (∀ t ∈ g.inMask s.cur.lanes, s.logPending g t.lane = false) →
     let waits (b : BarWait) (t : Thread) : Bool := match t.st with | .atBar c _ => c == b | _ => false
     let arrive (b : BarWait) (h : Group) (t : Thread) : Thread :=
       if h.core = g.core ∧ h.slot = g.slot ∧ laneBit s.cur.lanes t.lane = true then
         { t with st := .atBar b s.time.toNat, bpSkip := false } else t
     let go (t : Thread) : Thread :=
       { t with st := .ready, pc := t.pc + 4#64, since := s.cycle + 1 + Config.latency s.tick, bpSkip := false }
     let after (b : BarWait) (of : Group → Bool) : List Group := s.groups.map fun h => h.mapThreads fun t =>
       let t1 := arrive b h t
       if of h && waits b t1 then go t1 else t1
     let arrived (b : BarWait) : List Group := s.groups.map fun h => h.mapThreads (arrive b h)
     let all (b : BarWait) (of : Group → Bool) : Prop :=
       (∃ h ∈ s.groups, of h = true ∧ ∃ t ∈ h.threads, (arrive b h t).st ≠ .exited) ∧
       ∀ h ∈ s.groups, of h = true → ∀ t ∈ h.threads, (arrive b h t).st ≠ .exited →
         waits b (arrive b h t) = true ∧ h.frozen = false ∧ h.dead = false ∧ s.isHalted h.core = false
     let team (h : Group) : Bool := h.team == g.team
     let clu (h : Group) : Bool := h.lq.toNat == tm.lq && h.lseq.toNat == tm.lseq && h.clid == tm.clid
     (all .team team → ∃ u, exec .barTeam s = .next u ∧ u.groups = after .team team) ∧
     (¬ all .team team → ∃ u, exec .barTeam s = .next u ∧ u.groups = arrived .team) ∧
     ((∀ i ∈ s.images, ∀ h ∈ i.groups, clu h = true → ∀ t ∈ h.threads, t.st = .exited) →
       (all .clu clu → ∃ u, exec .barClu s = .next u ∧ u.groups = after .clu clu) ∧
       (¬ all .clu clu → ∃ u, exec .barClu s = .next u ∧ u.groups = arrived .clu))) ∧
  (∀ (s : State) (g : Group) (tm : Team) (a : Sel) (n : Imm8) (stay : Bool) (b : NBar),
     Issuer s g → s.team? g.team = some tm → tm.nbs[n.toNat]? = some b →
     (∀ t ∈ g.threads, s.logPending g t.lane = false) →
     g.inMask s.cur.lanes ≠ [] → (∀ t ∈ g.inMask s.cur.lanes, t.st ≠ .exited) →
     let i : Instr := if stay then .barNamed a n else .barArrive a n
     let src : Sel := if a = 0x3F#6 then 0x3E#6 else a
     let tgt (c : DWord) : Nat := if b.arr = 0 then (if 1 ≤ c.toNat ∧ c.toNat < tm.groups then c.toNat else tm.groups) else b.tgt
     let live := (s.groups.filter fun h => h.team == g.team && h.threads.any fun t => t.st != .exited).length
     let go (t : Thread) : Thread :=
       { t with st := .ready, pc := t.pc + 4#64, since := s.cycle + 1 + Config.latency s.tick, bpSkip := false }
     let since : Option Nat := if b.since.isSome then b.since else some s.time.toNat
     ((∃ t ∈ g.threads, laneBit s.cur.lanes t.lane = false ∧ t.st ≠ .exited ∧ ∀ m st k, t.st = .converging m st k → m ≠ n.toNat) →
       exec i s = .next (s.mapLanes g.core g.slot s.cur.lanes fun t => { t with st := .converging n.toNat stay src })) ∧
     (∀ c, consumeS s.tick 100000 g src = some c → (∀ t ∈ g.threads, laneBit s.cur.lanes t.lane = false → t.st = .exited) →
       ∃ u g' tm', exec i s = .next u ∧ After u g g' ∧
         u.team? g.team = some tm' ∧
         if min (tgt c) live ≤ b.arr + 1 then
           tm'.nbs[n.toNat]? = some { arr := 0, tgt := 0, since := none } ∧
           (g'.threads = g.threads.map fun t => if laneBit s.cur.lanes t.lane then go t else t) ∧
           ∀ h ∈ s.groups, h.team = g.team → (h.core ≠ g.core ∨ h.slot ≠ g.slot) →
             h.mapThreads (fun t => if t.waitsAt (.named n.toNat) then go t else t) ∈ u.groups
         else
           tm'.nbs[n.toNat]? = some { arr := b.arr + 1, tgt := tgt c, since := since } ∧
           g'.threads = g.threads.map fun t => if laneBit s.cur.lanes t.lane then
             (if stay then { t with st := .atBar (.named n.toNat) s.time.toNat, bpSkip := false } else go t) else t) ∧
     ((ssource g src).poison = true → g.kcls ≠ .n →
       (∀ t ∈ g.threads, t.lane < 64 ∧ t.logRec = none ∧ (laneBit s.cur.lanes t.lane = false → t.st = .exited)) →
       (s.faultq.filter fun q => q.core == g.core && q.live).length < 2048 → ∀ pc, (∀ t ∈ g.inMask s.cur.lanes, t.pc = pc) →
       ∃ u g', exec i s = .next u ∧ After u g g' ∧ ∃ q ∈ u.faultq, q.core = g.core ∧ q.live = true ∧ q.body.code = .poison ∧
         q.body.acc = 9 ∧ q.body.coh = true ∧ q.body.pc = pc ∧ ∀ t ∈ g.inMask s.cur.lanes, ∃ t' ∈ g'.threads,
           t'.lane = t.lane ∧ t'.pc = t.pc ∧ t'.v = t.v ∧ t'.st = .parkedFault q.slot))

/-- R401 to R404: completion barriers. `cb.init` sets the expected count, discards arrivals and gives every thread of the team the
barrier's phase; `cb.arrive` counts one arrival, and the last one expected starts the next phase; `cb.wait` lets a thread go on
whose own phase differs, and takes the phase; a group that is frozen acquires nothing meanwhile (R252); `cb.test` reads the barrier. A barrier
that expects nothing ignores arrivals. That the scope of a phase is the widest of its arrivals, 2 for those of `cb.arrive`, is the
model's choice (log entry 69). -/
def Obligations.CompletionBarriers : Prop :=
  ∀ (s : State) (g : Group) (tm : Team) (n : Imm8) (b : CBar),
    Issuer s g → s.team? g.team = some tm → tm.cbs[n.toNat]? = some b →
    let k := n.toNat
    let own (t : Thread) : Bool := t.tph.getLsbD k
    let lanes := s.cur.lanes
    (∀ (a : Sel) (c : DWord), consumeS s.tick 100000 g a = some c → k < 16 →
      ∃ u g' tm', exec (.cbInit a n) s = .next u ∧ After u g g' ∧ u.team? g.team = some tm' ∧
        tm'.cbs[k]? = some { b with exp := c.setWidth 16, cnt := 0 } ∧
        (∀ h ∈ u.groups, h.team = g.team → ∀ t' ∈ h.threads, own t' = b.ph) ∧
        g'.threads.map (fun t => (t.lane, t.pc, t.v, t.h, t.st)) =
          (movePast s g).threads.map (fun t => (t.lane, t.pc, t.v, t.h, t.st))) ∧
    ((∀ t ∈ g.inMask lanes, s.logPending g t.lane = false) →
      ∃ u tm', exec (.cbArrive n) s = .next u ∧ u.team? g.team = some tm' ∧
        tm'.cbs[k]? = some (if b.exp = 0#16 then b
          else if b.cnt + 1#16 = b.exp then { b with cnt := 0, ph := !b.ph, since := none, scp := max b.scp 2 }
          else { b with cnt := b.cnt + 1#16, scp := max b.scp 2 }) ∧
        (b.exp ≠ 0#16 → b.cnt + 1#16 = b.exp → ∀ h ∈ u.groups, h.team = g.team → u.groupRuns h = true → ∀ t ∈ h.threads,
          t.waitsAt (.cb k b.ph) = true → own t = !b.ph)) ∧
    (k < 16 → ∃ u g', exec (.cbWait n) s = .next u ∧ After u g g' ∧
      ∀ t ∈ g.threads, ∃ t' ∈ g'.threads, t'.lane = t.lane ∧
        (if laneBit lanes t.lane = true ∧ own t ≠ b.ph then
          t'.st = t.st ∧ t'.pc = t.pc + s.instBytes ∧ own t' = b.ph
        else if laneBit lanes t.lane = true then
          t'.pc = t.pc ∧ t'.st = .atBar (.cb k b.ph) s.time.toNat ∧ t'.tph = t.tph
        else t'.pc = t.pc ∧ t'.st = t.st ∧ t'.tph = t.tph)) ∧
    ∀ (d : Sel),
      let ready : Bool := (g.inMask lanes).all fun t => own t != b.ph
      exec (.cbTest d n) s =
        scalarTo s g d (0#16 ++ b.exp ++ b.cnt ++ 0#14 ++ BitVec.ofBool b.ph ++ BitVec.ofBool ready) []

/-- R406: when a barrier's clock has run for BTO microseconds, every thread that waits at it parks on a BAR_TIMEOUT record
of its group, or on the ACC 7 record that it holds, and the barrier's clock stops. That there is one record for each `pc`, and that a
thread which holds an ACC 7 record parks on that one, is the model's choice (log entry 69). -/
def Obligations.BarrierTimeouts : Prop :=
  ∀ (s : State) (tm : Team) (team kind n c : Nat),
    s.team? team = some tm → s.barClock tm kind n = some c → tm.bto ≠ 0 → c + 1000 * tm.bto ≤ s.time.toNat →
    let here (h : Group) : Bool := if kind = 1 then tm.sameCluster h else h.team == team
    let waits (t : Thread) : Bool := match t.st with
      | .atBar .team _ => kind == 0
      | .atBar .clu _ => kind == 1
      | .atBar (.named m) _ => kind == 2 && m == n
      | .atBar (.cb m _) _ => kind == 3 && m == n
      | _ => false
    ∃ u, exec (.barTimeout team kind n) s = .next u ∧ (∃ tm', u.team? team = some tm' ∧ u.barClock tm' kind n = none) ∧
      ∀ h ∈ s.groups, here h = true → (s.groups.map fun k => (k.core, k.slot)).Nodup →
        ((s.faultq.filter fun q => q.live).length + (s.groups.flatMap Group.threads).length ≤ 2048) →
        (h.threads.map (·.lane)).Nodup → (∀ t ∈ h.threads, t.lane < 64) →
        ∃ h', u.group? h.core h.slot = some h' ∧ ∀ t ∈ h.threads, ∃ t' ∈ h'.threads,
          t'.lane = t.lane ∧ t'.pc = t.pc ∧ t'.v = t.v ∧
          (waits t = false → t' = t) ∧
          (∀ r, waits t = true → t.logRec = some r → t'.st = .parkedFault r) ∧
          (waits t = true → t.logRec = none → ∃ q ∈ u.faultq, q.core = h.core ∧ q.live = true ∧ t'.st = .parkedFault q.slot ∧
            q.body.code = .barTimeout ∧ q.body.acc = 10 ∧ q.body.coh = true ∧ q.body.gslot = h.slot % 512 ∧ q.body.pc = t.pc ∧
            laneBit q.body.issue t.lane = true)

/-- R97, R299, R300: a fault that a cohort takes as a whole posts one record in the lowest free slot of the core's fault record
queue, with the whole instruction, and parks every thread of the cohort on it at its instruction. -/
def Obligations.CohortFault : Prop :=
  ∀ (s : State) (g : Group) (i : FaultInfo) (t : Thread) (ts : List Thread),
    Issuer s g → g.inMask s.cur.lanes = t :: ts → (∀ th ∈ g.inMask s.cur.lanes, th.logRec = none) →
    (∀ th ∈ g.threads, th.lane < 64) →
    (s.faultq.filter fun q => q.core == g.core && q.live).length < 2048 →
    ∃ u g', raiseCohort s g i = .next u ∧ After u g g' ∧ u.easel = s.easel ∧ u.mem = s.mem ∧
      ∃ q ∈ u.faultq, q.core = g.core ∧ q.live = true ∧ q.delivered = none ∧
        (∀ p ∈ s.faultq, p.core = g.core → p.live = true → p.slot ≠ q.slot) ∧
        (∀ k, k < q.slot → ∃ p ∈ s.faultq, p.core = g.core ∧ p.live = true ∧ p.slot = k) ∧
        (∀ p ∈ s.faultq, (p.core ≠ g.core ∨ p.slot ≠ q.slot) → p ∈ u.faultq) ∧
        q.body = { code := i.code, world := g.world, dest := decide (g.priv ≠ .u), gslot := g.slot % 512, lane := t.lane,
                   priv := g.priv, acc := i.acc, nw := s.cur.words.length, coh := true, ginst := g.ginst, pc := t.pc,
                   addr := i.addr, addr2 := i.addr2, issue := s.cur.lanes, done := 0, insn := s.cur.words } ∧
        g'.threads = g.threads.map fun th =>
          if laneBit s.cur.lanes th.lane then { th with st := .parkedFault q.slot } else th

/-- R180, R294, R295, R297: `ecall` and `wcall` by levels that may make them. With room in the easel each thread posts a
record with its six arguments and parks on it; without room each thread stalls at the call, and the easel is as it was.
R180, R297: the threads of a group that are stalled at a call post their records once the easel has room, the lowest first and as
many as there is room for. R181, R295, R297: `ebreak` and `trap` post one record for the cohort, with its address and lanes, and
park it; without room in the easel the cohort waits. A cohort that meets a breakpoint of its core parks before it issues, with the
HIT bits of every register that matches set (R116, R185); threads that are still converging at an instruction of their set or group
are not about to issue (R157, R169). -/
def Obligations.CallsBreaksAndTraps : Prop :=
  (∀ (s : State) (g : Group) (n : Imm8) (w : Bool),
     Issuer s g → (if w then g.priv = .s ∨ (g.priv = .f ∧ g.service = none) else g.priv = .u ∨ (g.priv = .s ∧ g.service = none)) →
     (g.threads.map (·.lane)).Nodup → (∀ t ∈ g.threads, t.lane < 64) → 12 ≤ g.nreg →
     let run := g.inMask s.cur.lanes
     let arg (t : Thread) (k : Nat) : Val := joinRegs (readReg s.tick g t (2 * k)) (readReg s.tick g t (2 * k + 1))
     (∀ t ∈ run, s.logPending g t.lane = false ∧ ∀ k, k < 6 → (arg t k).wait = []) →
     let i : Instr := if w then .wcall n else .ecall n
     (s.isHalted g.core = false → s.easelUsed g.core g.world.toNat + run.length ≤ s.quota g.core g.world.toNat →
       64 + run.length ≤ s.easelFree g.core →
       ∃ u g', exec i s = .next u ∧ After u g g' ∧ u.mem = s.mem ∧
         (∀ t ∈ g.threads, laneBit s.cur.lanes t.lane = false → t ∈ g'.threads) ∧
         ∀ t ∈ run, ∃ q ∈ u.easel, { t with st := .parkedEasel q.slot false, bpSkip := false } ∈ g'.threads ∧
           q.core = g.core ∧ q.live = true ∧ q.posted = true ∧ q.answered = false ∧ q.delivered = none ∧
           q.body.kind = (if w then 2 else 1) ∧ q.body.num = n.toNat ∧ q.body.world = g.world ∧ q.body.dest = w ∧
           q.body.gslot = g.slot ∧ q.body.lane = t.lane ∧ q.body.priv = g.priv ∧ q.body.cls = g.kcls ∧
           q.body.ginst = g.ginst ∧
           (∀ k, k < 6 → q.body.a.getD k 0 = (arg t k).val.setWidth 64 ∧ q.body.apoi.getLsbD k = (arg t k).poison)) ∧
     (s.easelRoom g.core g.world.toNat = false →
       ∃ u g', exec i s = .next u ∧ After u g g' ∧ u.easel = s.easel ∧
         g'.threads = g.threads.map fun t =>
           if laneBit s.cur.lanes t.lane then { t with st := .ecallStall w n.toNat s.fresh, bpSkip := false } else t)) ∧
  (∀ (s : State) (core slot : Nat) (g : Group) (t : Thread) (ts : List Thread),
     s.group? core slot = some g → g.frozen = false → g.dead = false → s.easelRoom core g.world.toNat = true →
     let posts (th : Thread) : Bool := match th.st with | .ecallStall _ _ _ => true | _ => false
     g.threads.filter posts = t :: ts → (∀ th ∈ g.threads, th.lane < 64) → (g.threads.map (·.lane)).Nodup →
     ∃ u g', exec (.ecallRetry core slot t.lane) s = .next u ∧ After u g g' ∧
       (∀ th ∈ g.threads, posts th = false → th ∈ g'.threads) ∧
       let posted (th : Thread) : Prop := ∀ w n b, th.st = .ecallStall w n b → ∃ q ∈ u.easel,
         q.core = core ∧ q.live = true ∧ q.posted = true ∧ q.batch = b ∧ q.body.num = n ∧ q.body.kind = (if w then 2 else 1) ∧
         q.body.lane = th.lane ∧ q.body.gslot = slot ∧ { th with st := .parkedEasel q.slot false, bpSkip := false } ∈ g'.threads
       posted t ∧ (∀ th ∈ ts, posted th ∨ th ∈ g'.threads) ∧
       (s.easelUsed core g.world.toNat + (t :: ts).length ≤ s.quota core g.world.toNat →
         64 + (t :: ts).length ≤ s.easelFree core → ∀ th ∈ ts, posted th)) ∧
  (∀ (s : State) (g : Group) (n : Imm8) (t : Thread) (ts : List Thread) (k : Nat) (i : Instr),
    Issuer s g → g.inMask s.cur.lanes = t :: ts → (k, i) ∈ [(3, Instr.ebreak n), (4, .trap n)] →
    (s.easelRoom g.core g.world.toNat = true →
      ∃ u g', exec i s = .next u ∧ After u g g' ∧ ∃ q ∈ u.easel,
        q.core = g.core ∧ q.live = true ∧ q.posted = true ∧
        q.body = { a := [t.pc, s.cur.lanes, 0], berr := 0, bcnt := 0, apoi := 0, kind := k, num := n.toNat, world := g.world,
                   dest := decide (g.priv ≠ .u), gslot := g.slot, lane := t.lane, priv := g.priv, cls := g.kcls,
                   ginst := g.ginst } ∧
        g'.threads = g.threads.map fun th =>
          if laneBit s.cur.lanes th.lane then { th with st := .parkedEasel q.slot true, bpSkip := false } else th) ∧
    (s.easelRoom g.core g.world.toNat = false → exec i s = .next { s with stalled := true })) ∧
  (∀ (s : State) (core slot lane : Nat) (g : Group) (t : Thread),
    s.group? core slot = some g → g.priv = .u → g.service = none → g.frozen = false → g.dead = false →
    (g.threads.map (·.lane)).Nodup → (∀ th ∈ g.threads, th.lane < 64) → t ∈ g.threads → t.lane = lane →
    let ws := s.peek (g.poster lane) t.pc
    (∀ th, th ∈ s.matchedWith g t ↔ th ∈ g.threads ∧ th.st = .ready ∧ th.pc = t.pc ∧ th.since ≤ s.cycle ∧ th.bpSkip = false ∧
      th.logErr = none ∧ (crossesLanes ws = true → th.setId = t.setId ∧ th.path = t.path)) ∧
    (s.convergingAt g t ws = true → exec (.breakpointMatch core slot lane) s = .next { s with stalled := true }) ∧
    ∀ ts, s.matchedWith g t = t :: ts → s.convergingAt g t ws = false → s.easelRoom core g.world.toNat = true →
    let c := s.core core
    c.bpc.extractLsb' 16 6 = g.world →
    let hits (n : Nat) : Prop := n < 4 ∧ c.bpc.getLsbD n = true ∧ (c.bpa.getD n 0) >>> 2 = t.pc >>> 2
    (∃ n, hits n) →
    ∃ u g', exec (.breakpointMatch core slot lane) s = .next u ∧ After u g g' ∧
      (∃ q ∈ u.easel, q.body.kind = 3 ∧ hits q.body.num ∧ q.body.a = [t.pc, laneMask ((t :: ts).map (·.lane)), 1] ∧
        ∀ th ∈ t :: ts, { th with st := .parkedEasel q.slot true, bpSkip := false } ∈ g'.threads) ∧
      ∀ n, n < 4 → hits n → (u.core core).bpc.getLsbD (8 + n) = true)

/-- R7, R23, R180, R183, R184: an instruction for a higher level than the cohort's raises PRIV for it and has no effect; `ecall`
in F and `wcall` in U do, and so does a call of a service group of the level that answers it. R91: an instruction that names a vector register at or above NREG raises ILL for its cohort, whatever its operands hold; one
that acts for a converged set does so once the set is there (R157). -/
def Obligations.PrivilegeAndNregRefused : Prop :=
  (∀ (s : State) (g : Group) (d a b : Sel) (n : Imm8) (z : BSize) (q : RecQ), Issuer s g →
     let priv (i : Instr) : Prop := exec i s = raiseCohort s g (.plain .priv)
     (g.priv ≠ .f → ∀ i, i ∈ [Instr.halt, .potSet d a b, .potGet d a, .frameCls d a b, .gesso d a b, .keyNew d a b, .clkPlan d,
       .tokLim d a b] → priv i) ∧
     (g.priv = .u → ∀ i, i ∈ [Instr.freeze a, .thaw a, .swapout a, .swapin a, .svcReg a b, .hotRd d a b, .varnishBegin d a,
       .varnishEnd d a, .cntCfg d a b, .cntClr d a, .ebudSet d a b, .ebudRd d a, .tcmpSet d a b, .cancel a, .launch d a b,
       .gang d a b, .vsel d a b, .tlbInv d a, .pop d q, .wcall n] → priv i) ∧
     (g.priv = .u → g.nregOk [(a, 2), (b, 2), (d, 4)] = true →
       ∀ i, i ∈ [Instr.srep a b, .sdone a, .fltDone a, .bld d a b z, .bst d a b z, .tlbProbe d a] → priv i) ∧
     (g.priv = .f ∨ (g.priv = .s ∧ g.service.isSome = true) → priv (.ecall n)) ∧
     (g.priv = .f ∧ g.service.isSome = true → priv (.wcall n))) ∧
  ((∀ (g : Group) (l : List (Sel × Nat)), g.nregOk l = false ↔ ∃ x ∈ l, x.1.toNat < 0x20 ∧ g.nreg < x.1.toNat + x.2) ∧
   ∀ (s : State) (g : Group) (d a b x : Sel) (w : Bool) (p : Option Pfx) (lit : Option Imm) (i8 : Imm8) (imm : Imm),
     Issuer s g →
     let bad (l : List (Sel × Nat)) : Prop := g.nregOk l = false
     let ill (i : Instr) : Prop := exec i s = raiseCohort s g (.plain .ill)
     let k := if w then 2 else 1
     let four (n : Nat) : List (Sel × Nat) := match p with | some q => [(q.c, n)] | none => []
     (bad [(d, k), (a, k), (b, k)] → ∀ i, i ∈ [Instr.add d a b w p, .sub d a b w p, .mul d a b w p, .mulhi d a b w p,
       .mulhn d a b w p, .divI d a b w p, .divN d a b w p, .remI d a b w p, .remN d a b w p, .minI d a b w p, .minN d a b w p,
       .maxI d a b w p, .maxN d a b w p, .and d a b w p, .or d a b w p, .xor d a b w p, .andn d a b w p, .orn d a b w p] → ill i) ∧
     (bad [(d, k), (a, k), (b, 1)] → ∀ i, i ∈ [Instr.shl d a b w p, .shr d a b w p, .sra d a b w p, .rol d a b w p] → ill i) ∧
     (bad ([(d, k), (a, k), (b, k)] ++ four k) → ill (.mad d a b w p)) ∧
     (bad [(d, 2), (a, k), (b, k)] → ill (.addc d a b w p) ∧ ill (.subc d a b w p)) ∧
     (bad [(d, 1), (a, 1), (b, 1)] → ∀ i, i ∈ [Instr.bfxI d a b p, .bfxN d a b p, .dot4Ii d a b p, .dot4Nn d a b p, .dot4In d a b p,
       .dot8Ii d a b p, .dot8Nn d a b p, .dot8In d a b p, .caddCi16 d a b p, .cmulCi16 d a b p] → ill i) ∧
     (bad ([(d, 1), (a, 1), (b, 1)] ++ four 1) → ∀ i, i ∈ [Instr.bfi d a b p, .sel d a b p, .bsel d a b p] → ill i) ∧
     (bad ([(d, 2), (a, 2), (b, 2)] ++ four 1) → ill (.selB64 d a b p)) ∧
     (bad [(d, k), (a, k)] → ∀ i, i ∈ [Instr.abs d a w p, .neg d a w p, .clz d a w p, .ctz d a w p, .popc d a w p, .brev d a w p,
       .mov d a w p] → ill i) ∧
     (bad [(d, 2), (a, 1)] → ∀ i, i ∈ [Instr.extI d a p, .extN d a p, .fsplitBf16 d a p, .cunpkCi8 d a p] → ill i) ∧
     (bad [(d, 4), (a, 1)] → ill (.cunpkCi4 d a p)) ∧
     (bad [(d, 2), (a, 2), (b, 1)] → ill (.lea d a b p)) ∧
     (bad [(d, 2), (a, 2), (b, 2)] → ill (.caddCi32 d a b p)) ∧
     (bad [(d, 2), (a, 1), (b, 1)] → ill (.cmacCi16 d a b p) ∧ ill (.cmacCi8 d a b p)) ∧
     (bad [(d, 1), (a, 1)] → ∀ i, i ∈ [Instr.addImm d a i8 lit p, .mulImm d a i8 lit p, .andImm d a i8 lit p, .orImm d a i8 lit p,
       .xorImm d a i8 lit p, .shlImm d a i8 lit p, .shrImm d a i8 lit p, .sraImm d a i8 lit p, .minIImm d a i8 lit p,
       .maxIImm d a i8 lit p, .cconjCi16 d a p, .cmag2Ci16 d a p] → ill i) ∧
     (bad [(d, 2), (a, 2)] → ∀ i, i ∈ [Instr.add64Imm d a i8 lit p, .leaImm d a i8 lit p, .cconjCi32 d a p, .tlbProbe d a] → ill i) ∧
     (bad [(d, 1)] → ∀ i, i ∈ [Instr.moviB32 d i8 p, .litB32 d imm p] → ill i) ∧
     (bad [(d, 2)] → ∀ i, i ∈ [Instr.moviB64 d i8 p, .litB64 d imm p, .pipeGet d a] → ill i) ∧
     (bad [(d, 1), (a, 2)] → ∀ e, ill (.fpack d a e p) ∧ ill (.funpk d a e p)) ∧
     (∀ t : FTy, let n := (DW.of t.wide).regs
       (bad [(d, n), (a, n), (b, n)] → ∀ i, i ∈ [Instr.fadd d a b t p, .fsub d a b t p, .fmul d a b t p, .fmin d a b t p,
         .fmax d a b t p, .fminm d a b t p, .fmaxm d a b t p, .fdiv d a b t p, .fsgn d a b t p] → ill i) ∧
       (bad ([(d, n), (a, n), (b, n)] ++ four n) → ill (.fma d a b t p) ∧ ill (.fnma d a b t p)) ∧
       (bad [(d, n), (a, n)] → ∀ i, i ∈ [Instr.fsqrt d a t p, .fabs d a t p, .fneg d a t p, .frcp d a t p, .frsq d a t p,
         .fex2 d a t p, .flg2 d a t p, .fsin d a t p, .fcos d a t p, .ftanh d a t p] → ill i) ∧
       (bad [(d, 1), (a, n)] → ill (.fclass d a t p)) ∧ (bad [(d, n), (a, n), (b, 1)] → ill (.fscale d a b t p)) ∧
       (bad [(a, n), (b, n)] → ∀ c, ill (.fcmp d a b t c p))) ∧
     (∀ (t : ITy) (c : Cond), bad [(a, (DW.of t.wide).regs), (b, (DW.of t.wide).regs)] → ill (.cmp d a b t c p)) ∧
     (∀ (n : Bool) (src dst : CvtTy), bad [(d, (DW.of dst.wide).regs), (a, (DW.of src.wide).regs)] → ill (.fcvt d a n src dst p)) ∧
     (∀ t : FmtTy, bad [(d, (DW.of t.wide).regs), (a, (DW.of t.wide).regs)] → ill (.fround d a t p)) ∧
     (participants s g ≠ none →
       (bad [(d, 1), (a, 1), (b, 1)] → ∀ n, ill (.xlPick d a b n p) ∧ ill (.xlSwap d a b n p) ∧ ill (.xlFwd d a b n p) ∧
         ill (.xlBack d a b n p)) ∧
       (∀ o : RedOp, bad [(d, (DW.of o.wide).regs), (a, (DW.of o.wide).regs)] → ill (.red d a o) ∧ ill (.scan d a o)) ∧
       (bad [(a, 1)] → ill (.voteAny d a) ∧ ill (.voteAll d a) ∧ ill (.ballot d a)) ∧
       (bad [(a, 1), (d, 2)] → ill (.matchLanes d a)) ∧ (bad [(d, 1)] → ill (.popm d a))) ∧
     (∀ o : BitVec 14, (bad [(d, 1)] → ill (.brz d o lit) ∧ ill (.brnz d o lit)) ∧
       (bad [(d, 2)] → ill (.call d o lit) ∧ ill (.ret d) ∧ ill (.jmp d))) ∧
     (bad [(a, 1)] → ill (.sRd d a b)) ∧ (bad [(d, 1)] → ill (.sWr d a b)) ∧
     (∀ (z : MemSize) (r : MemOrd) (q : Scope) (m : MemAt) (off : BitVec 32) (sh : BitVec 3),
       let n := match z with | .d => 2 | .q => 4 | _ => 1
       (bad [(d, n), (a, 2)] → ill (.ld d a z r q m lit p) ∧ ill (.st d a z r q m lit p)) ∧
       (bad [(d, n), (a, 2), (x, 1)] → ill (.ldx d a z r q m off sh x p) ∧ ill (.stx d a z r q m off sh x p))) ∧
     (∀ (r : AtomOrd) (q : Scope),
       (bad [(d, k), (a, 2)] → ∀ i, i ∈ [Instr.atomAdd d a r q w, .atomSub d a r q w, .atomMinI d a r q w, .atomMaxI d a r q w,
         .atomMinN d a r q w, .atomMaxN d a r q w, .atomAnd d a r q w, .atomOr d a r q w, .atomXor d a r q w, .atomXchg d a r q w,
         .atomIncw d a r q w, .atomDecw d a r q w, .atomAddF d a r q w] ++
           [MrOp.add, .sub, .minI, .maxI, .minN, .maxN, .and, .or, .xor, .addF].map (fun o => Instr.memoryReduction d a o r q w) → ill i) ∧
       (bad [(d, 2 * k), (a, 2)] → ill (.atomCas d a r q w)) ∧ (bad [(d, 4), (a, 2)] → ill (.atomXchgA16 d a r q)) ∧
       (bad [(d, 8), (a, 2)] → ill (.atomCasA16 d a r q))) ∧
     (bad [(a, 2)] → ∀ i, i ∈ [Instr.pf w a lit, .ipf a lit, .spClr a lit, .spSet a lit] → ill i) ∧
     (bad [(a, 2)] → ∀ q, ill (.cwb a q lit) ∧ ill (.cinv a q lit)) ∧
     (bad [(d, 1), (a, 2)] → ill (.spTest d a lit)) ∧
     (bad [(b, 1)] → ill (.pipePut a b)) ∧
     (bad [(a, 1), (b, 2)] → ill (.srep a b)) ∧ (bad [(a, 1)] → ill (.sdone a) ∧ ill (.fltDone a)) ∧
     (∀ z : BSize, let n := match z with | .d => 2 | .q => 4 | _ => 1
       bad [(d, n), (a, 2), (b, 1)] → ill (.bld d a b z) ∧ ill (.bst d a b z)))

/-- R190 to R197, R203, R205, R354, R366, R423: where an access leads. The windows 0x00 and 0x01, the latter for S and F alone, lead to
the pages that the entries of the TLBs give, if these permit the access; the top of 0x01 to the core's record queues; 0xF0 and 0xF1 to
the scratchpad of the team and of a cluster core; 0xF2 to a vault segment of the world; 0xF4 to the thread's part of the group's stack,
by translation; 0xFE, for F alone, to main memory, the flash and the device's registers. Everything else raises APERTURE, and no kernel
writes memory of a class below its own: that is XCLASS. -/
def Obligations.Windows : Prop :=
  ∀ (s : State) (p : Poster) (ea : DWord) (n : Nat) (kind : AKind), 0 < n → n ≤ 16 →
    let off := (ea.setWidth 56).toNat
    let win := (ea.extractLsb' 56 8).toNat
    let raised (c : FaultCode) : Where :=
      .fault { code := c, addr := ea, addr2 := 0,
               acc := match kind with
                 | .fetch => 0 | .load => 1 | .store => 2 | .atomic => 3 | .reduction => 4 | .refill | .spill => 5
                 | .descriptor => 6 }
    let writes : Bool := kind = .store ∨ kind = .atomic ∨ kind = .reduction ∨ kind = .spill
    let below (c : Cls) : Bool := match p.kcls, c with | .d, .p | .n, .p | .n, .d => true | _, _ => false
    let spad (o : Option Team) (off : Nat) (w : Where) : Prop :=
      match o with
      | none => w = raised .aperture
      | some t =>
        (t.size < off + n → w = raised .aperture) ∧
        (off + n ≤ t.size → writes → below t.kcls → w = raised .xclass) ∧
        (off + n ≤ t.size → ¬ (writes ∧ below t.kcls) → (∀ l ∈ t.uncleared, l < off / 128 ∨ (off + n - 1) / 128 < l) →
          w = .keys ((List.range n).map fun i => spadKey t.core (t.base + off + i)) t.kcls false (some (t.num, off)))
    (win ∉ [0x00, 0x01, 0xF0, 0xF1, 0xF2, 0xF4, 0xFE] → s.resolve p ea n kind = raised .aperture) ∧
    (win = 0x00 → 2 ^ 56 < off + n → s.resolve p ea n kind = raised .aperture) ∧
    (win = 0x01 → p.priv = .u → s.resolve p ea n kind = raised .aperture) ∧
    (win = 0x01 → p.priv ≠ .u → 2 ^ 56 - 2 ^ 24 ≤ off → off + n ≤ 2 ^ 56 →
      s.resolve p ea n kind = if kind = .load then .queue (off - (2 ^ 56 - 2 ^ 24)) else raised .aperture) ∧
    (win = 0xFE → p.priv ≠ .f → s.resolve p ea n kind = raised .aperture) ∧
    (win = 0xF0 → spad (s.team? p.team) off (s.resolve p ea n kind)) ∧
    (win = 0xF1 → (2 ^ 28 ≤ off ∨ 2 ^ 20 < off % 2 ^ 20 + n) → s.resolve p ea n kind = raised .aperture) ∧
    (win = 0xF1 → off < 2 ^ 28 → off % 2 ^ 20 + n ≤ 2 ^ 20 →
      spad (s.clusterTeam p (off / 2 ^ 24) (off / 2 ^ 20 % 16)) (off % 2 ^ 20) (s.resolve p ea n kind)) ∧
    (win = 0xF2 →
      let none_ (o : Nat) : Prop := 2 ^ 33 ≤ o ∨ 144 ≤ o / 2 ^ 24 % 256 ∨ o / 2 ^ 23 % 2 = 1
      let e (o : Nat) : Word := s.vat (o / 2 ^ 32 * 144 + o / 2 ^ 24 % 256) (o % 2 ^ 23 / 65536)
      let shut (o : Nat) : Prop := (e o).getLsbD 29 = true ∨
        (p.priv ≠ .f ∧ ((e o).getLsbD 31 = false ∨ (e o).setWidth 6 ≠ p.world ∨ (p.priv = .u ∧ (e o).getLsbD 11 = false)))
      let last := off + n - 1
      (none_ off ∨ none_ last → s.resolve p ea n kind = raised .aperture) ∧
      (¬none_ off → ¬none_ last → shut off ∨ shut last → s.resolve p ea n kind = raised .owner) ∧
      (¬none_ off → ¬none_ last → ¬shut off → ¬shut last →
        if (e off).getLsbD 30 = true ∨ (e last).getLsbD 30 = true then s.resolve p ea n kind = .wait
        else if writes ∧ (below (s.clsOf (vaultKey off)) ∨ below (s.clsOf (vaultKey last))) then
          s.resolve p ea n kind = raised .xclass
        else s.resolve p ea n kind = .keys ((List.range n).map fun i => vaultKey (off + i)) (s.clsOf (vaultKey off)) false none)) ∧
    (let frame (a b : Nat) (ks : List Nat) (cached : Bool) (f : FaultCode → Where) (w : Where) : Prop :=
       if writes ∧ (below (s.frameCls (a / 1024)) ∨ below (s.frameCls (b / 1024))) then w = f .xclass
       else if s.trainedPage a = true ∧ s.trainedPage b = true then w = .keys ks (s.frameCls (a / 1024)) cached none
       else w = .wait
     let mapped (sup : Bool) (va : Nat) (addr2 : DWord) (w : Where) : Prop :=
       let f (c : FaultCode) : Where := match raised c with
         | .fault i => .fault { i with addr2 := addr2 }
         | x => x
       let v0 := va / 4096
       let v1 := (va + n - 1) / 4096
       ∀ t0 t1, s.tlbFor p sup v0 = some t0 → s.tlbFor p sup v1 = some t1 →
         let may (t : Tlb) : Bool := (p.priv != .u || t.u) && match kind with
           | .fetch => t.x | .load | .refill | .descriptor => t.r
           | .store | .reduction | .spill => t.w | .atomic => t.r && t.w
         let page (t : Tlb) (v : Nat) : Nat := t.ppn + (v - t.vpn)
         (∀ t ∈ [t0, t1], t ∈ s.tlbs ∧ t.core = p.core ∧ t.world = p.world ∧ t.sup = sup ∧ (t.asid = none ∨ t.asid = some p.asid)) ∧
         if !may t0 || !may t1 then w = f .pagePerm
         else if writes ∧ (t0.ro = true ∨ t1.ro = true) then w = f .owner
         else frame (page t0 v0) (page t1 v1) ((List.range n).map fun i =>
           mainKey ((if (va + i) / 4096 = v0 then page t0 v0 else page t1 v1) * 4096 + (va + i) % 4096)) true f w
     (win = 0x00 → off + n ≤ 2 ^ 56 → mapped false off 0 (s.resolve p ea n kind)) ∧
     (win = 0x01 → p.priv ≠ .u → off + n ≤ 2 ^ 56 - 2 ^ 24 → mapped true off 0 (s.resolve p ea n kind)) ∧
     (win = 0xF4 → ∀ g, s.group? p.core p.slot = some g →
       let size := 1024 * 2 ^ g.stkSzc.toNat
       let back := g.stkBase.toNat * 4096 + p.lane * size + off
       if size < off + n ∨ 2 ^ 56 < back + n then s.resolve p ea n kind = raised .aperture
       else mapped false back (BitVec.ofNat 64 back) (s.resolve p ea n kind)) ∧
     (win = 0xFE → p.priv = .f →
       (off + n ≤ 2 ^ 40 →
         if s.slotExists (off / 4096) = true ∧ s.slotExists ((off + n - 1) / 4096) = true then
           frame (off / 4096) ((off + n - 1) / 4096) ((List.range n).map fun i => mainKey (off + i)) false raised
             (s.resolve p ea n kind)
         else s.resolve p ea n kind = raised .decode) ∧
       (2 ^ 40 ≤ off → off + n ≤ 2 ^ 40 + 2 ^ 29 →
         s.resolve p ea n kind =
           if s.busy.any fun b => b.1 / 65536 == (off - 2 ^ 40) / 65536 || b.1 / 65536 == (off - 2 ^ 40 + n - 1) / 65536 then .wait
           else .keys ((List.range n).map fun i => flashKey (off - 2 ^ 40 + i)) .p false none) ∧
       (2 ^ 40 < off + n → (off < 2 ^ 40 ∨ 2 ^ 40 + 2 ^ 29 < off + n) →
         s.resolve p ea n kind =
           if (n = 4 ∨ n = 8) ∧ off % n = 0 ∧ devMapped off = true ∧ devMapped (off + n - 1) = true then .dev off
           else raised .aperture)))

/-- R94, R210, R211, R215, R219, R221: a load whose addresses lead to storage. Each active thread's destination and newest
history entry hold the bytes found, extended as the size says, and wait for the load's data; inactive threads follow the policy;
storage stays as it is. The bytes found are those of storage where no line of the core's L1 serves the load, and those of the
core's lines where these serve all of it. When the data arrive nothing waits for the load any more. That the value is read when
the load issues, and only its arrival waits, is the model's choice (log entry 25). -/
def Obligations.Loads : Prop :=
  (∀ (s : State) (g : Group) (d a ix : Sel) (z : MemSize) (o : MemOrd) (q : Scope) (m : MemAt) (lit : Option Imm)
      (off : BitVec 32) (k : BitVec 3) (p : Option Pfx) (indexed : Bool) (ks : Thread → List Nat) (line : Thread → Option (Nat × Nat)),
    let n := match z with | .b | .bi => 1 | .h | .hi => 2 | .w => 4 | .d => 8 | .q => 16
    let dw : DW := match z with | .d => .w64 | .q => .w128 | _ => .w32
    let base (t : Thread) : Val := vsource s.tick g t true a
    let index (t : Thread) : Val := if indexed then vsource s.tick g t false ix else Val.const 0
    let ea (t : Thread) : DWord := if indexed then
        (base t).val.setWidth 64 + (((index t).val.setWidth 32).signExtend 64 <<< k.toNat) + off.signExtend 64
      else (base t).val.setWidth 64 + lit.getD 0
    let act := (pfxLanes s.tick g p).1
    let run := activeThreads s g p
    let align := match m with
      | .a8 => n
      | .a16 => 16
      | .dflt => if o = .plain ∨ o = .nt then 1 else min n 4
    Issuer s g → s.cur.lanes ≠ 0 → g.nregOk [(d, dw.regs), (a, 2), (if indexed then ix else 0x3E#6, 1)] = true →
    pfxFaults g p = false → (∀ t ∈ run, (base t).wait = [] ∧ (base t).poison = false ∧ (index t).wait = [] ∧
      (index t).poison = false ∧ (ea t).toNat % align = 0) →
    let cached (t : Thread) : Bool := match s.resolve (g.poster t.lane) (ea t) n .load with
      | .keys _ _ c _ => c && !((base t).taint || (index t).taint) && (decide (o = .plain ∨ o = .nt) || decide (q.toNat < 4))
      | _ => false
    let held (t : Thread) (key : Nat) : Option L1Line :=
      if cached t then s.l1.find? fun l => l.core == g.core && l.world == g.world && l.line == key / 128 else none
    Reaches s g run .load ea n ks line →
    ((∀ l ∈ s.l1, l.core ≠ g.core) ∨ (∀ t ∈ run, cached t = false) ∨
      (∀ t ∈ run, ∀ key ∈ ks t, ∃ l, held t key = some l ∧ l.bad = [])) →
    ∃ u g', exec (if indexed then .ldx d a z o q m off k ix p else .ld d a z o q m lit p) s = .next u ∧ After u g g' ∧
      u.mem = s.mem ∧ u.poisoned = s.poisoned ∧ { id := s.fresh, core := g.core, slot := g.slot } ∈ u.flights ∧
      g'.s = g.s ∧ g'.m = g.m ∧ g'.fflags = g.fflags ∧
      ∀ t ∈ g.threads,
        if laneBit s.cur.lanes t.lane then
          if laneBit act t.lane then
            let x := leNat ((ks t).map fun key => match held t key with
              | some l => l.bytes.getD (key % 128) 0
              | none => s.readKeyFor t.lane key)
            ∃ t' ∈ g'.threads, WroteLane s t t' dw d
              { val := match z with
                  | .bi => ((BitVec.ofNat 8 x).signExtend 32).setWidth 128
                  | .hi => ((BitVec.ofNat 16 x).signExtend 32).setWidth 128
                  | _ => BitVec.ofNat 128 x,
                taint := (base t).taint || (index t).taint || o == .csm,
                poison := (ks t).any s.isPoisoned || (pfxLanes s.tick g p).2, wait := [s.fresh] }
          else s.past (inactiveLane s.tick g p dw d [s.fresh] t) ∈ g'.threads
        else t ∈ g'.threads) ∧
  (∀ (s : State) (f : Flight), s.flights.find? (fun x => x.id == f.id) = some f →
    ∃ u, exec (.loadDataArrival f.id) s = .next u ∧ (∀ x ∈ u.flights, x.id ≠ f.id) ∧ u.mem = s.mem ∧
      ∀ g, s.group? f.core f.slot = some g → ∃ g', u.group? f.core f.slot = some g' ∧
        g'.threads = g.threads.map fun t => { t with
          v := t.v.map fun r => { r with wait := r.wait.filter fun i => i != f.id }
          h := t.h.map fun e => { e with wait := e.wait.filter fun i => i != f.id } })

/-- R210, R211, R216, R221: a store whose addresses lead to storage. After it every byte of storage reads as before but the
bytes stored, lanes in ascending order, and without those where a command has landed on a scratchpad line that is absent
(R194); registers, history, masks and flags stay, and the cohort moves past. R218, R309: a thread's store or reduction of any
size whose page does not translate, or whose page the thread's log holds, goes to the side log of its core, where there is
room, while the thread runs on; the thread's first entry posts one record of ACC 7 that nothing parks on, a later one none.
One to another page than the thread's log holds parks it on that record. An entry over two pages counts as one for both, the
model's choice (log entry 81). -/
def Obligations.Stores : Prop :=
  (∀ (s : State) (g : Group) (d a ix : Sel) (z : MemSize) (o : MemOrd) (q : Scope) (m : MemAt) (lit : Option Imm)
       (off : BitVec 32) (k : BitVec 3) (p : Option Pfx) (indexed : Bool) (ks : Thread → List Nat) (line : Thread → Option (Nat × Nat)),
     let n := match z with | .b | .bi => 1 | .h | .hi => 2 | .w => 4 | .d => 8 | .q => 16
     let dw : DW := match z with | .d => .w64 | .q => .w128 | _ => .w32
     let base (t : Thread) : Val := vsource s.tick g t true a
     let index (t : Thread) : Val := if indexed then vsource s.tick g t false ix else Val.const 0
     let ea (t : Thread) : DWord := if indexed then
         (base t).val.setWidth 64 + (((index t).val.setWidth 32).signExtend 64 <<< k.toNat) + off.signExtend 64
       else (base t).val.setWidth 64 + lit.getD 0
     let data (t : Thread) : Val := source s.tick g t dw d
     let run := activeThreads s g p
     let align := match m with
       | .a8 => n
       | .a16 => 16
       | .dflt => if o = .plain ∨ o = .nt then 1 else min n 4
     Issuer s g → g.nregOk [(d, dw.regs), (a, 2), (if indexed then ix else 0x3E#6, 1)] = true → pfxFaults g p = false →
     (∀ t ∈ run, (base t).wait = [] ∧ (base t).poison = false ∧ (index t).wait = [] ∧ (index t).poison = false ∧
       (data t).wait = [] ∧ (data t).poison = false ∧ (ea t).toNat % align = 0) →
     Reaches s g run .store ea n ks line → (o = .rel → g.priv = .f → s.busy = []) →
     ∃ u g', exec (if indexed then .stx d a z o q m off k ix p else .st d a z o q m lit p) s = .next u ∧ After u g g' ∧
       g' = movePast s g ∧
       ∀ lane key, u.readKeyFor lane key = (run.foldl (fun b t =>
         let q := s.unlanded (line t) (ks t) (toBytes (data t).val.toNat n)
         setFor b (q.map (·.1)) (q.map (·.2))) s.readKeyFor) lane key) ∧
  (∀ (s : State) (g : Group) (d a : Sel) (z : MemSize) (o : MemOrd) (m : MrOp) (r : AtomOrd) (q : Scope) (lit : Option Imm) (w red : Bool)
     (t : Thread) (i : Instr) (n : Nat) (dw : DW) (off : DWord),
     (red = true ∧ i = .memoryReduction d a m r q w ∧ n = (if w then 8 else 4) ∧ dw = DW.of w ∧ off = 0 ∧ r ≠ .rel ∧ r ≠ .acqrel) ∨
       (red = false ∧ i = .st d a z o q .dflt lit none ∧ off = lit.getD 0 ∧ o ≠ .rel ∧
         (n, dw) = match z with
           | .b | .bi => (1, DW.w32) | .h | .hi => (2, .w32) | .w => (4, .w32) | .d => (8, .w64) | .q => (16, .w128)) →
     let ea : DWord := (vsource s.tick g t true a).val.setWidth 64 + off
     let data : Val := source s.tick g t dw d
     let pages (x : DWord) (l : Nat) : List Nat := [x.toNat / 4096, (x.toNat + l - 1) / 4096]
     let mine := s.slog.filter fun e => e.core == g.core && e.slot == g.slot && e.lane == t.lane
     Issuer s g → g.inMask s.cur.lanes = [t] → t.lane < 64 → t.lane < g.gw → (g.threads.map (·.lane)).Nodup →
     g.nregOk [(d, dw.regs), (a, 2)] = true →
     (vsource s.tick g t true a).wait = [] → (vsource s.tick g t true a).poison = false → data.wait = [] → data.poison = false →
     ea.toNat % (if red then n else if o = .plain ∨ o = .nt then 1 else min n 4) = 0 →
     (ea.extractLsb' 56 8 = 0x00#8 ∨ ea.extractLsb' 56 8 = 0x01#8) →
     ∀ (c : FaultCode) (acc : Nat) (ks : List Nat) (cls : Cls) (cached : Bool) (line : Option (Nat × Nat)),
     let found := s.resolve (g.poster t.lane) ea n (if red then .reduction else .store)
     ((c = .pageMiss ∨ c = .pagePerm) ∧ found = .fault { code := c, acc := acc, addr := ea, addr2 := 0 }) ∨
       (c = .pageMiss ∧ found = .keys ks cls cached line ∧ ∃ e ∈ mine, ∃ x ∈ pages e.addr e.bytes.length, x ∈ pages ea n) →
     ((∀ e ∈ mine, ∀ x ∈ pages e.addr e.bytes.length, x ∈ pages ea n) → (s.slog.filter fun e => e.core == g.core).length < 256 →
       (t.logRec = none → (s.faultq.filter fun x => x.core == g.core && x.live).length < 2048) →
       ∃ u g', exec i s = .next u ∧ After u g g' ∧ u.mem = s.mem ∧
         (∃ e, u.slog = s.slog ++ [e] ∧ e.core = g.core ∧ e.slot = g.slot ∧ e.lane = t.lane ∧ e.addr = ea ∧
           e.typ = (if red then 1 else 0) ∧ e.bytes = toBytes data.val.toNat n) ∧
         (t.logRec.isSome = true → u.faultq.length = s.faultq.length ∧ s.past t ∈ g'.threads) ∧
         (t.logRec = none → ∃ x ∈ u.faultq, x.core = g.core ∧ x.live = true ∧ x.body.code = c ∧ x.body.acc = 7 ∧ x.body.addr = ea ∧
           x.body.lane = t.lane ∧ { s.past t with logRec := some x.slot } ∈ g'.threads)) ∧
     ∀ rec, t.logRec = some rec → (∃ e ∈ mine, ∃ x ∈ pages e.addr e.bytes.length, x ∉ pages ea n) →
       ∃ u g', exec i s = .next u ∧ After u g g' ∧ u.mem = s.mem ∧ u.slog = s.slog ∧
         { t with st := .parkedFault rec } ∈ g'.threads)

/-- R222 to R225: the atomics and the memory reductions on storage: one read, modify and write for each thread of the cohort, in
ascending lane order; an atomic's destination and newest history entry hold what its thread found. -/
def Obligations.Atomics : Prop :=
  ∀ (s : State) (g : Group) (d a : Sel) (r : AtomOrd) (q : Scope) (ks : Thread → List Nat) (line : Thread → Option (Nat × Nat)) (n : Nat)
      (i : Instr) (f : Nat → Nat → Nat → Nat) (reduce : Bool),
    let big : Bool := n == 8
    let bv (g : BitVec (8 * n) → BitVec (8 * n) → BitVec (8 * n)) (x v _ : Nat) : Nat :=
      (g (BitVec.ofNat (8 * n) x) (BitVec.ofNat (8 * n) v)).toNat
    let pure : List (MrOp × (Nat → Nat → Nat → Nat)) :=
      [(.add, bv fun x v => x + v), (.sub, bv fun x v => x - v), (.minI, bv fun x v => if x.slt v then x else v),
       (.maxI, bv fun x v => if x.slt v then v else x), (.minN, bv fun x v => if x.ult v then x else v),
       (.maxN, bv fun x v => if x.ult v then v else x), (.and, bv fun x v => x &&& v), (.or, bv fun x v => x ||| v),
       (.xor, bv fun x v => x ^^^ v), (.addF, fun x v _ => (fAdd (if big then .f64 else .f32) .rne x v).1)]
    let atom (o : MrOp) : Instr := match o with
      | .add => .atomAdd d a r q big | .sub => .atomSub d a r q big | .minI => .atomMinI d a r q big
      | .maxI => .atomMaxI d a r q big | .minN => .atomMinN d a r q big | .maxN => .atomMaxN d a r q big
      | .and => .atomAnd d a r q big | .or => .atomOr d a r q big | .xor => .atomXor d a r q big
      | .addF => .atomAddF d a r q big
    let swap : List (Instr × (Nat → Nat → Nat → Nat)) :=
      [(if n = 16 then .atomXchgA16 d a r q else .atomXchg d a r q big, fun _ v _ => v),
       (if n = 16 then .atomCasA16 d a r q else .atomCas d a r q big, fun x v w => if x = v then w else x)]
    let wrap : List (Instr × (Nat → Nat → Nat → Nat)) :=
      [(.atomIncw d a r q big, fun x v _ => if v ≤ x then 0 else x + 1),
       (.atomDecw d a r q big, fun x v _ => if x = 0 ∨ v < x then v else x - 1)]
    ((n = 4 ∨ n = 8) ∧ ((reduce = true ∧ ∃ o, i = .memoryReduction d a o r q big ∧ (o, f) ∈ pure) ∨
        (reduce = false ∧ ∃ o, i = atom o ∧ (o, f) ∈ pure) ∨ (reduce = false ∧ (i, f) ∈ wrap))) ∨
      ((n = 4 ∨ n = 8 ∨ n = 16) ∧ reduce = false ∧ (i, f) ∈ swap) →
    let dw : DW := if n = 16 then .w128 else if n = 8 then .w64 else .w32
    let two : Bool := decide (i = .atomCas d a r q big) || decide (i = .atomCasA16 d a r q)
    let run := g.inMask s.cur.lanes
    let base (t : Thread) : Val := vsource s.tick g t true a
    let ea (t : Thread) : DWord := (base t).val.setWidth 64
    let opnd (t : Thread) : Val := source s.tick g t dw d
    let new (t : Thread) : Val := if two then source s.tick g t dw (d + BitVec.ofNat 6 dw.regs) else Val.const 0
    Issuer s g → g.nregOk [(d, if two then 2 * dw.regs else dw.regs), (a, 2)] = true →
    (∀ t ∈ run, (base t).wait = [] ∧ (base t).poison = false ∧ (opnd t).wait = [] ∧ (opnd t).poison = false ∧
      (new t).wait = [] ∧ (new t).poison = false ∧ (ea t).toNat % n = 0 ∧ (ks t).all (fun k => !s.isPoisoned k) = true) →
    Reaches s g run (if reduce then .reduction else .atomic) ea n ks line → (r = .rel ∨ r = .acqrel → g.priv = .f → s.busy = []) →
    let mem (l : List Thread) : Nat → Nat → Byte :=
      l.foldl (rmwBytes n (fun t x => f x ((opnd t).val.toNat % 2 ^ (8 * n)) ((new t).val.toNat % 2 ^ (8 * n))) ks) s.readKeyFor
    ∃ u g', exec i s = .next u ∧ After u g g' ∧ (∀ lane key, u.readKeyFor lane key = mem run lane key) ∧
      g'.s = g.s ∧ g'.m = g.m ∧ g'.fflags = g.fflags ∧
      (∀ t ∈ g.threads, laneBit s.cur.lanes t.lane = false → t ∈ g'.threads) ∧
      ∀ l1 t l2, run = l1 ++ t :: l2 →
        if reduce then s.past t ∈ g'.threads
        else ∃ t' ∈ g'.threads, WroteLane s t t' dw d
          { val := BitVec.ofNat 128 (leNat ((ks t).map (mem l1 t.lane))), taint := (base t).taint, poison := false, wait := [] }

/-- R97, R213, R220, R299, R300: a single thread whose access faults, for its address's alignment or for where it leads, takes a
record of its own with the kind of access and the address, and parks at the instruction; nothing else happens. -/
def Obligations.AccessFaults : Prop :=
  ∀ (s : State) (g : Group) (d a : Sel) (w : Bool) (lit : Option Imm) (o : MrOp) (r : AtomOrd) (q : Scope) (t : Thread)
      (i : Instr) (kind : AKind) (acc : Nat),
    let z : MemSize := if w then .d else .w
    let n := if w then 8 else 4
    (i, kind, acc) ∈ [(Instr.ld d a z .plain q .a8 lit none, AKind.load, 1), (.st d a z .plain q .a8 lit none, .store, 2),
      (.atomAdd d a r q w, .atomic, 3), (.memoryReduction d a o r q w, .reduction, 4)] →
    let base : Val := vsource s.tick g t true a
    let ea : DWord := base.val.setWidth 64 + if acc ≤ 2 then lit.getD 0 else 0
    let data : Val := source s.tick g t (DW.of w) d
    Issuer s g → g.inMask s.cur.lanes = [t] → t.lane < 64 → t.lane < g.gw → t.logRec = none → s.slog = [] →
    (g.threads.map (·.lane)).Nodup → g.nregOk [(d, (DW.of w).regs), (a, 2)] = true →
    base.wait = [] → base.poison = false → data.wait = [] → data.poison = false →
    (s.faultq.filter fun x => x.core == g.core && x.live).length < 2048 →
    ∀ (c : FaultCode) (addr addr2 : DWord),
      (if ea.toNat % n ≠ 0 then c = .align ∧ addr = ea ∧ addr2 = 0
        else s.resolve (g.poster t.lane) ea n kind = .fault { code := c, acc := acc, addr := addr, addr2 := addr2 } ∧
          ((kind = .store ∨ kind = .reduction) → c ≠ .pageMiss ∧ c ≠ .pagePerm)) →
      ∃ u g', exec i s = .next u ∧ After u g g' ∧ u.mem = s.mem ∧
        ∃ x ∈ u.faultq, x.core = g.core ∧ x.live = true ∧
          x.body = { code := c, world := g.world, dest := decide (g.priv ≠ .u), gslot := g.slot % 512, lane := t.lane,
                     priv := g.priv, acc := acc, nw := s.cur.words.length, coh := false, ginst := g.ginst, pc := t.pc,
                     addr := addr, addr2 := addr2, issue := s.cur.lanes, done := s.cur.lanes &&& ~~~(1#64 <<< t.lane),
                     insn := s.cur.words } ∧
          g'.threads = g.threads.map fun h => if h.lane = t.lane then { h with st := .parkedFault x.slot } else h

/-- R212, R218, R228, R241: the phases and the fence. A release waits until the side logs of its threads are empty and, for F,
until the flash has finished; an acquire at cluster scope or wider forgets the core's L1 lines; nothing else changes. That a
release waits for no more than these, and that the lines of every world go, is the model's choice (log entry 72). R227, R229,
R433: prefetches and line maintenance. Once no translation is missing a prefetch changes no byte of storage and moves on. Lanes
that name one line make one request: where the address leads to main memory, and for L1 to a line that L1 serves and does not
hold, or for the instruction cache to a line that is neither present nor on its way, and fewer than sixteen are outstanding, it
asks for the line, and otherwise for none; one for L1 brings the line there when it is performed. The list of outstanding
prefetches, the sixteen over both kinds and the merging of lanes are the model's choice (log entry 97). `cwb` moves on once
the stores of its line are performed, and `cinv` at cluster scope or wider drops the core's copy. R194, R230: scratchpad
lines. `sp.clr` makes the lines that its threads name absent, `sp.set` present, and `sp.test` answers 0 for a present
line, 1 for an absent one and 2 for one whose command has failed. -/
def Obligations.FencesPrefetchesAndLines : Prop :=
  (∀ (s : State) (g : Group) (q : Scope), Issuer s g →
     let done (acq : Bool) : Out := .next { (s.putGroup (movePast s g)) with
       l1 := if acq ∧ 4 ≤ q.toNat then s.l1.filter fun l => l.core != g.core else s.l1 }
     let pending : Prop := ∃ t ∈ g.inMask s.cur.lanes,
       (∃ e ∈ s.slog, e.core = g.core ∧ e.slot = g.slot ∧ e.lane = t.lane) ∨ (g.priv = .f ∧ s.busy ≠ [])
     exec (.phaseBegin q) s = done true ∧
     (¬ pending →
       exec (.phaseEnd q) s = done false ∧ exec (.phase q) s = done true ∧ exec (.fence q) s = done true) ∧
     (pending → ∀ i, i ∈ [Instr.phaseEnd q, .phase q, .fence q] → exec i s = .next { s with stalled := true })) ∧
  ((∀ (s : State) (g : Group) (a : Sel) (q : Scope) (lit : Option Imm) (l : Bool),
      let run := g.inMask s.cur.lanes
      let base (t : Thread) : Val := vsource s.tick g t true a
      let ea (t : Thread) : DWord := (base t).val.setWidth 64 + lit.getD 0
      Issuer s g → g.nregOk [(a, 2)] = true → s.errs = [] → s.slog = [] → (∀ t ∈ run, (base t).wait = []) →
      (g.threads.map (·.lane)).Nodup ∧ (∀ t ∈ g.threads, t.lane < 64) →
      (∀ i, i ∈ [Instr.pf l a lit, .ipf a lit] →
        (∀ t ∈ run, (base t).poison = false → ∀ sup v, (i = .pf l a lit → s.resolve (g.poster t.lane) (ea t) 1 .load ≠ .walk sup v) ∧
          (i = .ipf a lit → s.fetchAt (g.poster t.lane) (ea t &&& ~~~3#64) ≠ .walk sup v)) → ∃ u g', exec i s = .next u ∧ After u g g' ∧
        u.mem = s.mem ∧ u.faultq = s.faultq ∧ g'.threads = (movePast s g).threads ∧
        ∀ t rest k ks c b line, run = t :: rest → (∀ r ∈ rest, (ea r).toNat / 128 = (ea t).toNat / 128) → (base t).poison = false →
          let room : Prop := (s.prefs.filter fun x => x.by_.core == g.core).length +
            (s.icache.filter fun x => x.core == g.core && x.pf && !x.full).length < 16
          (i = .pf l a lit → s.resolve (g.poster t.lane) (ea t) 1 .load = .keys (k :: ks) c b line →
            u.icache = s.icache ∧
            u.prefs = if isMain k = true ∧ room ∧
                (l = true ∨ (b = true ∧ ∀ x ∈ s.l1, ¬ (x.core = g.core ∧ x.world = g.world ∧ x.line = k / 128)))
              then s.prefs ++ [{ by_ := g.poster t.lane, line := k / 128, l2 := l }] else s.prefs) ∧
          (i = .ipf a lit → s.fetchAt (g.poster t.lane) (ea t &&& ~~~3#64) = .keys (k :: ks) c b line →
            u.prefs = s.prefs ∧
            if room ∧ ∀ x ∈ s.icache, ¬ (x.core = g.core ∧ x.world = g.world ∧ x.line = k / 128)
              then ∃ x ∈ u.icache, x.core = g.core ∧ x.world = g.world ∧ x.line = k / 128 ∧ x.pf = true ∧ x.full = false
              else u.icache = s.icache)) ∧
      (∀ r, r ∈ s.prefs → (∀ i, i < 128 → s.openKey (r.line * 128 + i) = false) →
        (s.prefArrive r).prefs = s.prefs.erase r ∧ (s.prefArrive r).mem = s.mem ∧
        (r.l2 = true → (s.prefArrive r).l1 = s.l1) ∧
        (r.l2 = false → ∃ x ∈ (s.prefArrive r).l1, x.core = r.by_.core ∧ x.world = r.by_.world ∧ x.line = r.line)) ∧
      ∀ (key : Thread → Nat),
        (∀ t ∈ run, (base t).poison = false ∧ ∃ ks c b line, s.resolve (g.poster t.lane) (ea t) 1 .load = .keys (key t :: ks) c b line) →
        (∃ u g', exec (.cwb a q lit) s = .next u ∧ After u g g' ∧ g' = movePast s g ∧ u.mem = s.mem ∧ u.l1 = s.l1) ∧
        ∃ u g', exec (.cinv a q lit) s = .next u ∧ After u g g' ∧ g' = movePast s g ∧ u.mem = s.mem ∧
          u.l1 = if 4 ≤ q.toNat then s.l1.filter fun x => !(x.core == g.core && run.any fun t => x.line == key t / 128) else s.l1) ∧
   (∀ (s : State) (g : Group) (d a : Sel) (lit : Option Imm) (off : Thread → Nat) (tm : Team),
      let run := g.inMask s.cur.lanes
      let base (t : Thread) : Val := vsource s.tick g t true a
      let ea (t : Thread) : DWord := (base t).val.setWidth 64 + lit.getD 0
      Issuer s g → g.nregOk [(a, 2), (d, 1)] = true → s.team? tm.num = some tm →
      (g.threads.map (·.lane)).Nodup ∧ (∀ t ∈ g.threads, t.lane < 64) →
      (∀ t ∈ run, (base t).wait = [] ∧ (base t).poison = false ∧ t.st = .ready ∧
        ∃ ks c b, s.resolve (g.poster t.lane) (ea t) 1 .load = .keys ks c b (some (tm.num, off t))) →
      (∃ u g', exec (.spClr a lit) s = .next u ∧ After u g g' ∧ u.mem = s.mem ∧ (∀ t ∈ run, s.past t ∈ g'.threads) ∧
        ∀ t ∈ run, u.presence tm.num (off t) 1 = .absent (off t / 128)) ∧
      (∃ u g', exec (.spSet a lit) s = .next u ∧ After u g g' ∧ u.mem = s.mem ∧ (∀ t ∈ run, s.past t ∈ g'.threads) ∧
        ∀ t ∈ run, u.presence tm.num (off t) 1 = .present) ∧
      ∃ u g', exec (.spTest d a lit) s = .next u ∧ After u g g' ∧ u.mem = s.mem ∧ u.teams = s.teams ∧
        ∀ t ∈ run, ∃ t' ∈ g'.threads, WroteLane s t t' .w32 d
          { val := match tm.lines.find? fun l => l.line == off t / 128 with
              | none => 0
              | some l => if l.failed then 2 else 1,
            taint := (base t).taint, poison := false, wait := [] }))

/-- R262, R263, R266, R267, R270, R271, R273, R414: `mrdy` and the matrix posts. A well-formed solo post of an armed group draws a
token, enters the core's FIFO and takes its accumulators into the command's ownership; without a token it joins the line of its
die, in order of arrival and, within a cycle, of site and quarter (R27). The first post of a joint command opens its assembly,
and the fourth moves it to the FIFO with four tokens. A post of a group that is not armed raises MXE_FMT. -/
def Obligations.MatrixPosts : Prop :=
  ∀ (s : State) (g : Group) (c : BitVec 96), Issuer s g → laneMask (g.live.map (·.lane)) = s.cur.lanes →
    let fmt := (c.extractLsb' 12 4).toNat
    let n := if fmt = 0 ∨ fmt = 0xD ∨ fmt = 0xE then 8 else 4
    let cr := (c.extractLsb' 0 5).toNat
    let br := (c.extractLsb' 38 5).toNat
    let joint : Bool := c.extractLsb' 22 2 == 1#2
    let good : Prop := g.gw = 64 ∧ g.armed = true ∧ (c.getLsbD 10 = true → 10 ≤ fmt) ∧ (c.getLsbD 11 = true → 13 ≤ fmt) ∧
      (c.getLsbD 8 = true → fmt ≠ 7 ∧ fmt ≠ 8 ∧ fmt ≠ 9) ∧ cr % 4 = 0 ∧ cr + n ≤ g.nreg ∧
      (joint = true → br % 4 = 0 ∧ br + 4 ≤ g.nreg ∧ (cr + n ≤ br ∨ br + 4 ≤ cr) ∧ (c.extractLsb' 20 2).toNat = g.quarter) ∧
      ∀ r ∈ cmdRegions c, r.1 + r.2 ≤ g.spadsz
    let die := s.dieOf g.core
    let pool := s.pools.getD die (0, 0)
    let line := s.tokq.filter fun r => r.die == die
    let who := g.poster ((g.live.map (·.lane)).headD 0)
    let part := (g.quarter, g.slot, br, cr)
    let entered (id : Nat) (p : Poster) (x : BitVec 96) (parts : List (Nat × Nat × Nat × Nat)) : MCmd :=
      { id := id, by_ := p, cmd := x, parts := parts, drawn := true, running := false, done := [], dirty := [] }
    let room : Prop := (s.mcmds.filter fun m => m.by_.core == g.core && !m.running).length < 16
    let assembly := s.joints.find? fun j => j.by_.team == g.team && j.cmd.extractLsb' 16 4 == c.extractLsb' 16 4
    let taken (g' : Group) (id : Nat) : Prop := g'.armed = false ∧ g'.threads = (movePast s g).threads ∧
      ∃ o ∈ g'.owned, o.cmd = id ∧ o.input = false ∧ o.lo = cr ∧ o.len = n ∧ o.freed = 0 ∧ o.cb = (c.extractLsb' 16 4).toNat
    ((∀ t ∈ g.inMask s.cur.lanes, s.logPending g t.lane = false) → (∀ f ∈ s.flights, f.core ≠ g.core ∨ f.slot ≠ g.slot) →
      exec .mrdy s = .next (s.putGroup { movePast s g with armed := true, armDirty := [] })) ∧
    (g.armed = false → exec (.mma c) s = raiseCohort s g (.plain .mxeFmt) ∧
      exec (.mmaJ c) s = raiseCohort s g (.plain .mxeFmt)) ∧
    (good → joint = false → room →
      (line = [] → pool.2 + 1 ≤ pool.1 → die < s.pools.length →
        ∃ u g', exec (.mma c) s = .next u ∧ After u g g' ∧ u.pools.getD die (0, 0) = (pool.1, pool.2 + 1) ∧
          u.mcmds = s.mcmds ++ [entered s.fresh who c [part]] ∧ taken g' s.fresh) ∧
      ((∀ r ∈ line, r.core = g.core → r.quarter ≠ g.quarter) → (line ≠ [] ∨ pool.1 < pool.2 + 1) →
        let r : TokReq := { cycle := s.cycle, die := die, core := g.core, quarter := g.quarter, slot := g.slot, k := 1 }
        let key (x : TokReq) : Nat := (x.cycle * 512 + s.siteOf x.core) * 4 + x.quarter
        ∃ l1 l2, s.tokq = l1 ++ l2 ∧ (∀ x ∈ l1, key x ≤ key r) ∧ (∀ x, l2.head? = some x → key r < key x) ∧
          exec (.mma c) s = .next { s with tokq := l1 ++ r :: l2 })) ∧
    (good → joint = true →
      (assembly = none → (s.joints.filter fun j => j.by_.core == g.core).length < 4 →
        ∃ u g', exec (.mmaJ c) s = .next u ∧ After u g g' ∧ u.mcmds = s.mcmds ∧ u.pools = s.pools ∧
          u.joints = s.joints ++ [{ id := s.fresh, by_ := who, cmd := c, parts := [part] }] ∧ taken g' s.fresh) ∧
      ∀ j, assembly = some j → sharedFields j.cmd = sharedFields c → j.parts.length = 3 → (∀ q ∈ j.parts, q.1 ≠ g.quarter) →
        room → line = [] → pool.2 + 4 ≤ pool.1 → die < s.pools.length →
        ∃ u g', exec (.mmaJ c) s = .next u ∧ After u g g' ∧ u.pools.getD die (0, 0) = (pool.1, pool.2 + 4) ∧
          (∀ x ∈ u.joints, x.id ≠ j.id) ∧
          u.mcmds = s.mcmds ++ [entered j.id j.by_ j.cmd (j.parts ++ [part])] ∧ taken g' j.id)

/-- R272 to R275, R414: the life of a matrix command. The FIFO's head starts on arrays that no running command uses, or is dropped
with its tokens where its instance has been cancelled; each array that finishes returns a token; at its end the command leaves, its
last tokens return, and each element of its arrays, of whatever format and solo or joint, with saturation or not, is that of R46 to R48 for its row of A, its
column of B, their scales and C, or a masked element's value (R267, R268), in the place that R265 gives it. The elements are stated where
no soft error, poison, failed line or register written meanwhile is in play. -/
def Obligations.MatrixCommands : Prop :=
  ∀ (s : State) (m : MCmd), (s.mcmds.find? fun x => x.id == m.id) = some m →
    let die := s.dieOf m.by_.core
    let pool := s.pools.getD die (0, 0)
    let left : List Nat := (m.parts.map (·.1)).filter fun q => !m.done.contains q
    ((s.mcmds.filter fun x => x.by_.core == m.by_.core && !x.running).head? = some m →
      (s.cancelled m.by_.world.toNat m.by_.ginst.toNat = false →
        (∀ x ∈ s.mcmds, x.by_.core = m.by_.core → x.running = true →
          (∀ q ∈ x.busy, q ∉ m.busy) ∧ x.before m = false) → s.cmdAbsent m = false → die < s.pools.length →
        (m.drawn = false → pool.2 + m.parts.length ≤ pool.1 ∧ ∀ r ∈ s.tokq, r.die ≠ die) →
        ∃ u, exec (.mmaStart m.id) s = .next u ∧
          u.pools.getD die (0, 0) = (if m.drawn then pool else (pool.1, pool.2 + m.parts.length)) ∧
          u.mcmds = s.mcmds.map fun x => if x.id = m.id then { x with running := true, drawn := true } else x) ∧
      (s.cancelled m.by_.world.toNat m.by_.ginst.toNat = true → die < s.pools.length →
        ∃ u, exec (.mmaStart m.id) s = .next u ∧ u.mcmds = s.mcmds.erase m ∧
          u.pools.getD die (0, 0) = (pool.1, pool.2 - if m.drawn then m.parts.length else 0))) ∧
    (∀ q, m.running = true → q ∈ left → 1 < left.length → die < s.pools.length →
      ∃ u, exec (.arrayFinish m.id q) s = .next u ∧ u.pools.getD die (0, 0) = (pool.1, pool.2 - 1) ∧
        u.mcmds = s.mcmds.map fun x => if x.id = m.id then { x with done := q :: x.done } else x) ∧
    (m.running = true → die < s.pools.length → s.errs = [] →
      ∃ u, exec (.mmaComplete m.id) s = .next u ∧ (∀ x ∈ u.mcmds, x.id ≠ m.id) ∧
        u.pools.getD die (0, 0) = (pool.1, pool.2 - left.length) ∧
        ∀ (tm : Team) (g : Group) (q b creg : Nat) (t : Thread) (k : Nat),
          let c := m.cmd
          let fmt := (c.extractLsb' 12 4).toNat
          let joint : Bool := c.extractLsb' 22 2 == 1#2
          let big : Bool := fmt == 0 || fmt == 0xD || fmt == 0xE
          let n := if big then 8 else 4
          let clean (p : Nat × Nat × Nat × Nat) : Prop := ∃ h, s.group? m.by_.core p.2.1 = some h ∧
            (∀ o ∈ h.owned, o.dirty = [] ∧ o.stale = []) ∧ (h.threads.map (·.lane)).Nodup ∧
            (∀ x ∈ h.threads, (∀ r ∈ x.v, r.poison = false) ∧ p.2.2.2 + n ≤ x.v.length) ∧
            (joint = true → p.2.2.2 + n ≤ p.2.2.1 ∨ p.2.2.1 + 4 ≤ p.2.2.2)
          fmt < 15 → s.team? m.by_.team = some tm → (∀ l ∈ tm.lines, l.failed = false) → m.dirty = [] → s.poisoned = [] →
          (if joint then m.parts.length = 4 else m.parts.length = 1) → (m.parts.map (·.1)).Nodup → (m.parts.map (·.2.1)).Nodup →
          (∀ p ∈ m.parts, p.1 < 4 ∧ clean p) → (q, g.slot, b, creg) ∈ m.parts → s.group? m.by_.core g.slot = some g →
          t ∈ g.threads → t.lane < 64 → k < 4 →
          let e := 64 * k + t.lane
          let ii := e / 16 + if joint then 16 * q else 0
          let jj := e % 16
          let spad (off len : Nat) : List Byte := (List.range len).map fun i => s.readKey (spadKey tm.core (tm.base + off + i))
          let word (h : Option Group) (l r : Nat) : Word := (((h.bind fun h => h.thread? l).bind fun x => x.v[r]?).map (·.val)).getD 0
          let column : List Byte :=
            if joint then match m.parts.find? fun p => p.1 == jj / 4 with
              | some p => (List.range 64).flatMap fun l =>
                  toBytes (word (s.group? m.by_.core p.2.1) l (p.2.2.1 + jj % 4)).toNat 4
              | none => []
            else spad (bits c 50 38 * 128 + 256 * jj) 256
          let blocks := if fmt = 9 then 16 else 8
          let scale (i j : Nat) : Nat := if fmt = 7 ∨ fmt = 8 ∨ fmt = 9
            then (s.readKey (spadKey tm.core (tm.base + (bits c 95 83 * 128 + blocks * i + j)))).toNat else 127
          let lo := creg + if big then 2 * k else k
          let c0 : Nat := if c.getLsbD 9 then 0
            else (word (some g) t.lane lo).toNat + if big then (word (some g) t.lane (lo + 1)).toNat * 2 ^ 32 else 0
          let masked : Prop := c.getLsbD 8 = true ∧
            (c.extractLsb' 64 8).toInt < 16 * (bits c 83 72 : Int) + jj - (16 * (bits c 95 84 : Int) + ii)
          ∃ g' t' x, u.group? m.by_.core g.slot = some g' ∧ t' ∈ g'.threads ∧ t'.lane = t.lane ∧
            (masked → x = match bits c 7 6 with
              | 0 => 0
              | 1 => if fmt = 0 then 0x3FF0000000000000 else if 0xA ≤ fmt then 1 else 0x3F800000
              | _ => c0) ∧
            (¬masked → MatElement fmt (c.getLsbD 10) (c.getLsbD 11) c0 (spad (bits c 63 51 * 128 + 256 * ii) 256) column
              (scale ii) (scale ((if joint then 64 else 16) + jj)) x) ∧
            ∀ i, i < (if big then 2 else 1) →
              (t'.v[lo + i]?).map (fun r => (r.val, r.taint, r.poison)) = some (BitVec.ofNat 32 (x / 2 ^ (32 * i)), false, false))

/-- R258 to R260, R298: `pop` delivers undelivered records of the group's own, oldest first, one to each thread of the cohort: the
thread of rank k receives the number of the slot of the record of rank k, or 0xFFFF when there is none, and the scalar how many
were delivered. With no record the cohort waits. -/
def Obligations.PopDelivers : Prop :=
  (∀ (s : State) (g : Group) (d : Sel) (E : List EaselSlot), Issuer s g → g.priv ≠ .u →
    E = (s.easel.filter fun x => x.core == g.core && x.live && x.delivered.isNone &&
      (if g.priv = .f then x.body.dest else !x.body.dest && x.body.world == g.world)) →
    (E.map (·.seq)).Nodup → (∀ x ∈ E, ∀ k, k ∈ s.tokens → k ≠ (x.body.world.toNat, x.body.ginst.toNat)) →
    let run := g.inMask s.cur.lanes
    let rank (x : EaselSlot) : Nat := (E.filter fun y => y.seq < x.seq).length
    let place (t : Thread) : Nat := (run.filter fun y => y.lane < t.lane).length
    let gets (t : Thread) (n : Nat) : Thread := s.past (t.push { val := BitVec.ofNat 64 n, taint := false, poison := false, wait := [] })
    (E = [] → exec (.pop d .qe) s = .next { s with stalled := true }) ∧
    (E ≠ [] → run ≠ [] → ∃ u g', exec (.pop d .qe) s = .next u ∧ After u g g' ∧
      g'.s = (g.setScalar d { val := BitVec.ofNat 64 (min run.length E.length), taint := false, poison := false }).s ∧
      (∀ x ∈ E, rank x < run.length → { x with delivered := some g.slot, body := { x.body with bcnt := 0 } } ∈ u.easel) ∧
      ∀ t ∈ run, (∀ x ∈ E, rank x = place t → gets t x.slot ∈ g'.threads) ∧ (E.length ≤ place t → gets t 0xFFFF ∈ g'.threads))) ∧
  (∀ (s : State) (g : Group) (d : Sel) (E : List FaultSlot), Issuer s g → g.priv ≠ .u →
    E = (s.faultq.filter fun x => x.core == g.core && x.live && x.delivered.isNone &&
      (if g.priv = .f then x.body.dest else !x.body.dest && x.body.world == g.world)) →
    (E.map (·.seq)).Nodup → (∀ x ∈ E, ∀ k, k ∈ s.tokens → k ≠ (x.body.world.toNat, x.body.ginst.toNat)) →
    let run := g.inMask s.cur.lanes
    let rank (x : FaultSlot) : Nat := (E.filter fun y => y.seq < x.seq).length
    let place (t : Thread) : Nat := (run.filter fun y => y.lane < t.lane).length
    let gets (t : Thread) (n : Nat) : Thread := s.past (t.push { val := BitVec.ofNat 64 n, taint := false, poison := false, wait := [] })
    (E = [] → exec (.pop d .qf) s = .next { s with stalled := true }) ∧
    (E ≠ [] → run ≠ [] → ∃ u g', exec (.pop d .qf) s = .next u ∧ After u g g' ∧
      g'.s = (g.setScalar d { val := BitVec.ofNat 64 (min run.length E.length), taint := false, poison := false }).s ∧
      (∀ x ∈ E, rank x < run.length → { x with delivered := some g.slot } ∈ u.faultq) ∧
      ∀ t ∈ run, (∀ x ∈ E, rank x = place t → gets t x.slot ∈ g'.threads) ∧ (E.length ≤ place t → gets t 0xFFFF ∈ g'.threads)))

/-- R257, R259, R277 to R279, R284, R287 to R289: the posts of copy and network commands, in their own forms and by `push`. A post
whose header and descriptor pass every check appends its command to the copy FIFO or to the core's port, and the cohort goes on; a
`cp.mx` puts the registers of its follow-on into ownership; lines of scratchpad that a copy is to fill are absent from then on. A
bad header or descriptor raises COPY_FMT or NET_FMT, and a full queue makes the cohort wait. Which descriptors are bad is said
field by field, and the checks of a copy's addresses in R279's order: a base outside the poster's windows, the queue window, the
rows in untranslated windows, the class of the destination, and the follow-on. That a U group may set W in RCOMP, and that rows
reach the stack window, are the model's choices (log entries 89 and 82). -/
def Obligations.CommandPosts : Prop :=
  ∀ (s : State) (g : Group) (a b : Sel) (c : BitVec 96) (bs : List Byte) (ds y : DWord) (viaPush : Bool),
    Issuer s g → g.inMask s.cur.lanes ≠ [] → (g.priv = .f → s.busy = []) →
    let d := word512 bs
    let p := g.poster (leadOf s g).1
    let num (hi lo : Nat) : Nat := (d.extractLsb' lo (hi + 1 - lo)).toNat
    (ReadsAt s g (ds + c.extractLsb' 32 64) 64 bs → (ds + c.extractLsb' 32 64).toNat % 64 = 0 →
      (if viaPush then ds = 0 ∧ (ssource g a).poison = false ∧ (ssource g b).poison = false ∧ cpHeaderOk c = true ∧
          (ssource g b).val.extractLsb' 0 32 ++ (ssource g a).val = c ∧ (ssource g b).val.extractLsb' 32 32 = 0
        else consumeS s.tick 100000 g (c.extractLsb' 16 6) = some ds) →
      let i : Instr := if viaPush then .push .qc a b else if cpKind c = 1 then .cpMx c else if cpKind c = 2 then .cpGx c else .cp c
      (cpKind c = 1 → ∀ f ∈ s.flights, f.core ≠ g.core ∨ f.slot ≠ g.slot) →
      ((s.copyFifo g.core).length < 64 → cpDescBad c d = true →
        ∃ u, exec i s = raiseCohort u g (.plain .copyFmt) ∧ u.groups = s.groups ∧ u.mem = s.mem ∧ u.ccmds = s.ccmds) ∧
      (64 ≤ (s.copyFifo g.core).length → exec i s = .next { s with stalled := true }) ∧
      ((s.copyFifo g.core).length < 64 → cpDescBad c d = false → (∀ u : State, (∃ l, u = { s with l1 := l }) → u.cpCheck g p c d = none) →
        ∃ u g', exec i s = .next u ∧ After u g g' ∧ u.mem = s.mem ∧ g'.threads = (movePast s g).threads ∧
          (∃ x, u.ccmds = s.ccmds ++ [x] ∧ x.by_ = p ∧ x.hdr = c ∧ x.desc = d ∧ x.flying = false ∧ x.failed = none) ∧
          (cpKind c ≠ 1 → g'.owned = g.owned) ∧
          (cpKind c = 1 → ∃ o ∈ g'.owned, o.lo = cmdCreg (d.extractLsb' 384 96) ∧ o.len = fmtRegs (cmdFmt (d.extractLsb' 384 96))) ∧
          ∀ r, r < cpRows d → ∀ l ∈ s.linesAt p (cpDst d r) (cpN0 d), ∃ tm ∈ u.teams, tm.num = l.1 ∧
            ∃ x ∈ tm.lines, x.line = l.2 ∧ x.failed = false ∧ x.ties ≠ [])) ∧
    (∀ (op : Option Nat) (i : Instr),
      (op, i) ∈ [(some 0, Instr.netPut a b), (some 1, .netGet a b), (some 2, .netSend a b), (some 3, .netRecv a b),
        (some 4, .netRed a b), (none, .push .qn a b)] →
      (ssource g a).poison = false → (ssource g b).poison = false → ReadsAt s g (ssource g a).val 64 bs →
      (ssource g a).val.toNat % 64 = 0 →
      (32 ≤ (s.port g.core).length → exec i s = .next { s with stalled := true }) ∧
      ((s.port g.core).length < 32 → netBad g.priv d (ssource g b).val op = true →
        ∃ u, exec i s = raiseCohort u g (.plain .netFmt) ∧ u.groups = s.groups ∧ u.mem = s.mem ∧ u.ncmds = s.ncmds) ∧
      ((s.port g.core).length < 32 → netBad g.priv d (ssource g b).val op = false →
        ∃ u g', exec i s = .next u ∧ After u g g' ∧ u.mem = s.mem ∧ g'.threads = (movePast s g).threads ∧
          ∃ x, u.ncmds = s.ncmds ++ [x] ∧ x.by_ = p ∧ x.desc = d ∧ x.addr = (ssource g a).val ∧
            x.comp = (ssource g b).val ∧ x.taken = false ∧ x.acked = none)) ∧
    (s.slog = [] → (s.port g.core).length < 32 → (ssource g b).poison = false → (ssource g b).val = y →
      (compOk g.priv y = true → ∃ u g', exec (.netFence b) s = .next u ∧ After u g g' ∧ g'.threads = (movePast s g).threads ∧
        ∃ x, u.ncmds = s.ncmds ++ [x] ∧ x.by_ = p ∧ x.desc = 5 ∧ x.comp = y ∧ x.taken = false) ∧
      (compOk g.priv y = false → exec (.netFence b) s = raiseCohort s g (.plain .netFmt))) ∧
    (compOk g.priv y = true ↔ y.extractLsb' 62 2 ≠ 3#2 ∧ y.extractLsb' 0 6 = 0#6 ∧ (g.priv = .u → y.getLsbD 56 = false)) ∧
    (∀ f : Option Nat, netBad g.priv d y f = false ↔
      compOk g.priv y = true ∧ num 7 0 ≤ 5 ∧ (∀ x, f = some x → x = num 7 0) ∧
      (num 7 0 = 5 → d = 5) ∧
      (num 7 0 ≠ 5 →
        let size := if num 27 24 = 1 ∨ num 27 24 = 10 ∨ num 27 24 = 13 ∨ num 27 24 = 14 then 8 else 4
        num 511 320 = 0 ∧ num 31 28 = 0 ∧ num 23 18 = 0 ∧ num 15 8 = 0 ∧ 1 ≤ num 63 32 ∧ num 63 32 ≤ 2 ^ 30 ∧ num 27 24 ≠ 15 ∧
        (num 7 0 = 4 → num 17 16 ≠ 3 ∧ num 63 32 % size = 0 ∧ num 127 64 % size = 0 ∧ num 191 128 % size = 0) ∧
        (num 7 0 = 0 ∨ num 7 0 = 2 ∨ num 7 0 = 4 → num 127 120 ≠ 0xF0 ∧ num 127 120 ≠ 0xF1) ∧
        (num 7 0 = 0 ∨ num 7 0 = 4 → (num 319 318 = 0 ∨ num 319 318 = 2) ∧ num 261 256 = 0))) ∧
    let kind := (c.extractLsb' 22 2).toNat
    (cpDescBad c d = false ↔
      num 511 480 = 0 ∧ (kind ≠ 1 → num 479 384 = 0) ∧ (kind ≠ 2 → num 383 320 = 0) ∧ 1 ≤ num 159 128 ∧ num 159 128 ≤ 2 ^ 24 ∧
      (kind = 2 → num 191 176 = 0 ∧ num 383 320 % 4 = 0)) ∧
    let n0 := num 159 128
    let n1 := num 175 160 + 1
    let off (lo i : Nat) : DWord := (d.extractLsb' lo 32).signExtend 64 * BitVec.ofNat 64 i
    let rows : List (DWord × AKind) := (List.range (n1 * (num 191 176 + 1))).flatMap fun r =>
      (if kind = 2 then [] else [(d.extractLsb' 0 64 + off 192 (r % n1) + off 256 (r / n1), AKind.load)]) ++
        [(d.extractLsb' 64 64 + off 224 (r % n1) + off 288 (r / n1), AKind.store)]
    let bases : List DWord := [d.extractLsb' 0 64, d.extractLsb' 64 64] ++ if kind = 2 then [d.extractLsb' 320 64] else []
    let allowed (a : DWord) : Bool := match (a.extractLsb' 56 8).toNat with
      | 0x00 | 0xF0 | 0xF1 | 0xF2 => true
      | 0x01 => decide (g.priv ≠ .u)
      | 0xFE => decide (g.priv = .f)
      | _ => false
    let named : List (DWord × Nat) := (if kind = 2 then [(d.extractLsb' 320 64, 4)] else []) ++ rows.map fun x => (x.1, n0)
    let reaches (x : DWord × Nat) : Bool := decide (2 ^ 57 - 2 ^ 24 < x.1.toNat + x.2) && decide (x.1.toNat < 2 ^ 57)
    let who : Poster := if c.getLsbD 6 && p.prom then { p with kcls := .p } else p
    let faults (k : DWord × AKind) : List FaultInfo := (lineChunks k.1 n0).filterMap fun x =>
      if (x.1.extractLsb' 56 8).toNat ≤ 1 then none
      else match s.chunk who x.1 x.2 k.2 with
        | .fault i => some { i with acc := 6, addr2 := 0 }
        | _ => none
    let early := if kind = 2 then [] else rows
    let aperture (a : DWord) : FaultInfo := { code := .aperture, acc := 6, addr := a, addr2 := 0 }
    (∀ a, bases.find? (fun a => !allowed a) = some a → s.cpCheck g p c d = some (aperture a)) ∧
    ((∀ a ∈ bases, allowed a = true) →
      ((∃ x ∈ named, reaches x = true) → ∃ x ∈ named, reaches x = true ∧
        s.cpCheck g p c d = some (aperture (BitVec.ofNat 64 (max x.1.toNat (2 ^ 57 - 2 ^ 24))))) ∧
      ((∀ x ∈ named, reaches x = false) →
        (∀ i, (early.flatMap faults).find? (fun i => i.code == .aperture || i.code == .owner) = some i → s.cpCheck g p c d = some i) ∧
        ((∀ i ∈ early.flatMap faults, i.code ≠ .aperture ∧ i.code ≠ .owner) →
          (∀ i, ((early.filter fun k => k.2 == .store && (k.1.extractLsb' 56 8).toNat != 0xFE).flatMap faults).find?
              (fun i => i.code == .xclass) = some i → s.cpCheck g p c d = some i) ∧
          ((∀ k ∈ early, k.2 = .store → (k.1.extractLsb' 56 8).toNat ≠ 0xFE → ∀ i ∈ faults k, i.code ≠ .xclass) →
            let f : BitVec 96 := d.extractLsb' 384 96
            let sound : Prop := f.extractLsb' 22 2 = 0#2 ∧ FollowGood g f
            (kind ≠ 1 ∨ (sound ∧ ∀ r ∈ cmdRegions f, r.1 + r.2 ≤ g.spadsz) → s.cpCheck g p c d = none) ∧
            (kind = 1 → ¬sound → s.cpCheck g p c d = some (.plain .mxeFmt)) ∧
            (kind = 1 → sound → ∀ r, (cmdRegions f).find? (fun r => decide (g.spadsz < r.1 + r.2)) = some r →
              s.cpCheck g p c d = some (aperture (BitVec.ofNat 64 (0xF0 * 2 ^ 56 + max r.1 g.spadsz))))))))

/-- R280 to R286, R403: the life of a copy command: its core's oldest enters flight, its pieces land, which moves bytes that nothing
else disturbs from source to destination and leaves all others, and at its end it makes its arrival and leaves, or, with a
follow-on, waits to append it. A piece that meets a fault ends the command: its record is posted and its lines are failed. -/
def Obligations.CopyCommands : Prop :=
  ∀ (s : State) (c : CCmd), (s.ccmds.find? fun x => x.id == c.id) = some c → (s.ccmds.map (·.id)).Nodup →
    let k := cpCb c.hdr
    let flying : Nat := (s.ccmds.filter fun x => x.by_.core == c.by_.core && x.flying).length
    ((s.ccmds.filter fun x => x.by_.core == c.by_.core && !x.flying).head? = some c → c.flying = false →
      (s.cancelled c.by_.world.toNat c.by_.ginst.toNat = false → flying < 48 →
        ∃ u, exec (.copyEnterFlight c.id) s = .next u ∧ { c with flying := true, todo := cpPieces c.desc } ∈ u.ccmds ∧ u.mem = s.mem) ∧
      (s.cancelled c.by_.world.toNat c.by_.ginst.toNat = true →
        ∃ u, exec (.copyEnterFlight c.id) s = .next u ∧ u.ccmds = s.ccmds.filter (fun x => x.id != c.id) ∧ u.mem = s.mem)) ∧
    (∀ (q : Nat) (ks kd : List Nat) (ls ld : List (Nat × Nat)), q ∈ c.todo → s.rowsBefore c q = true →
      s.piece c q = (s, .ready ks ls kd ld) → ks.length = kd.length → kd.Nodup → (∀ x ∈ ks, x ∉ kd) →
      (∀ x ∈ ks, x ∉ c.dirty ∧ x ∉ c.put) → (∀ x ∈ kd, x ∉ c.put ∧ x ∉ c.got ∧ Plainly s x) → (∀ x ∈ ks, s.keyFailed x = false) →
      (∀ x ∈ s.idxKeys c (q / pieceBase), x ∉ c.put ∧ x ∉ kd) → s.errs = [] → s.snaps = [] → s.poisoned = [] → Memory.wf s.mem = true →
      ∃ u, exec (.copyRowLanding c.id q) s = .next u ∧
        (∀ lane x, u.readKeyFor lane x = setBytes (s.readKeyFor lane) kd (ks.map (s.readKeyFor c.by_.lane)) x) ∧
        { c with todo := c.todo.erase q, got := ks ++ s.idxKeys c (q / pieceBase) ++ c.got, put := kd ++ c.put } ∈ u.ccmds) ∧
    (c.flying = true → c.todo = [] → c.ended = false → c.failed = none →
      ∃ u, exec (.copyComplete c.id) s = .next u ∧
        (cpKind c.hdr ≠ 1 → ∀ x ∈ u.ccmds, x.id ≠ c.id) ∧ (cpKind c.hdr = 1 → { c with ended := true } ∈ u.ccmds) ∧
        ∀ (tm : Team) (b : CBar), s.team? c.by_.team = some tm → tm.cbs[k]? = some b →
          ∃ tm', u.team? c.by_.team = some tm' ∧
            tm'.cbs[k]? = some (if cpCben c.hdr = false ∨ b.exp = 0#16 then b
              else if b.cnt + 1#16 = b.exp then { b with cnt := 0, ph := !b.ph, since := none, scp := max b.scp (cpScp c.hdr) }
              else { b with cnt := b.cnt + 1#16, scp := max b.scp (cpScp c.hdr) })) ∧
    (∀ (q code : Nat) (a : DWord), s.errs = [] → q ∈ c.todo → (∀ x ∈ c.todo, q / 2 ^ 18 ≤ x / 2 ^ 18) → s.piece c q = (s, .bad code a) →
      let r : EaselRec := { a := [c.addr, a], berr := 0, bcnt := 0, apoi := 0, kind := 0x0A, num := code, world := c.by_.world,
                            dest := decide (c.by_.priv ≠ .u), gslot := c.by_.slot % 512, lane := c.by_.lane, priv := c.by_.priv,
                            cls := c.by_.kcls, ginst := c.by_.ginst }
      ∃ u, exec (.copyFail c.id q) s = .next u ∧ u.mem = s.mem ∧
        ((∃ e ∈ u.easel, e.core = c.by_.core ∧ e.live = true ∧ e.body = r) ∨ (c.by_.core, r) ∈ u.pending) ∧
        (∀ x ∈ u.ccmds, x.id = c.id → x.todo = []) ∧
        ∀ tm ∈ s.teams, ∀ l ∈ tm.lines, c.id ∈ l.ties → ∃ tm' ∈ u.teams, tm'.num = tm.num ∧
          ∃ l' ∈ tm'.lines, l'.line = l.line ∧ l'.failed = true) ∧
    ∀ g, c.ended = true → s.group? c.by_.core c.by_.slot = some g →
      let die := s.dieOf c.by_.core
      let pool := s.pools.getD die (0, 0)
      (s.mcmds.filter fun m => m.by_.core == c.by_.core && !m.running).length < 16 → (∀ r ∈ s.tokq, r.die ≠ die) →
      pool.2 + 1 ≤ pool.1 → die < s.pools.length →
      ∃ u, exec (.followOnAppend c.id) s = .next u ∧ (∀ x ∈ u.ccmds, x.id ≠ c.id) ∧
        u.pools.getD die (0, 0) = (pool.1, pool.2 + 1) ∧
        ∃ m, u.mcmds = s.mcmds ++ [m] ∧ m.id = c.id ∧ m.by_ = c.by_ ∧ m.cmd = c.desc.extractLsb' 384 96 ∧ m.drawn = true ∧
          m.running = false

/-- R289, R291 to R293, R339 to R342: the network engine. The head of a core's port is taken and its packets leave, or it ends with
PEER_DOWN where its domain is closed, or with its status where its local buffer refuses it; packets that a domain admits, and
that have not been taken before, do what their operation says and are acknowledged, others change nothing; a packet is sent again
RETRY times, and its acknowledgement ends its command; a command that has completed reports it at a barrier, in a ring, or with a
record if it failed; a drained domain is DRAINED once nothing of its is unacknowledged or incomplete. The model's choices in this
are those of log entries 49 (how the port and the domains hold and end commands), 50 (who acts for a peer, and that the data of one
packet land in one step), 51 (the open LEN of a failed `put`, `send` or `red`), 52 (a ring's bad header and the order of completions
that wait for one ring) and 92 (packets of one open size, flows and their turns, and what a packet received twice does). -/
def Obligations.NetworkEngine : Prop :=
  (∀ (s : State) (c : NCmd), s.ncmd? c.id = some c → (s.ncmds.map (·.id)).Nodup → s.errs = [] →
    let w := c.by_.world.toNat
    let op := netOp c.desc
    let taken : NCmd := { c with taken := true }
    let ends (st len : Nat) : Prop :=
      ∃ u, exec (.netCommandStart c.id) s = .next u ∧ { taken with acked := some (st, len) } ∈ u.ncmds ∧ u.mem = s.mem
    let starts (data : List Byte) : Prop :=
      ∃ u, exec (.netCommandStart c.id) s = .next u ∧ taken ∈ u.ncmds ∧ u.mem = s.mem ∧
        ((op = 3 ∨ op = 5) ∨ netMode c.desc = 3 ∨ ∃ x ∈ u.sentq, x.cmd = some c.id ∧ x.retries = 0 ∧ x.pkt.world = w ∧ x.pkt.op = op ∧
          x.pkt.peer = c.peer ∧ x.pkt.remote = netRemote c.desc ∧ x.pkt.len = netLen c.desc ∧ x.pkt.off = 0 ∧ x.pkt.data = data)
    ((s.port c.by_.core).head? = some c → s.fenced c.by_.core = false →
      (2 ≤ s.domState w → exec (.netCommandStart c.id) s = .next { s with stalled := true }) ∧
      (s.domState w < 2 → s.cancelled w c.by_.ginst.toNat = true →
        ∃ u, exec (.netCommandStart c.id) s = .next u ∧ u.ncmds = s.ncmds.filter (fun x => x.id != c.id) ∧ u.mem = s.mem) ∧
      (s.cancelled w c.by_.ginst.toNat = false →
        (s.domState w = 0 → ends 6 0) ∧
        (s.domState w = 1 → netMode c.desc ≠ 3 ∨ s.upPorts (s.dieOf c.by_.core) ≠ [] →
          (op = 1 ∨ op = 5 ∨ (op = 3 ∧ ∀ k ∈ s.sends, c.matches k = false) → starts []) ∧
          (op = 0 ∨ op = 2 ∨ op = 4 →
            (netMode c.desc = 1 → ∀ x ∈ s.ncmds.takeWhile (·.id != c.id), x.by_.core = c.by_.core → x.peer = c.peer →
              netMode x.desc = 1 → netOp x.desc = 1 ∨ netOp x.desc = 3 → x.acked ≠ none) → 0 < netLen c.desc → netLen c.desc ≤ s.payload →
            (∀ i, s.span c.by_ (netLocal c.desc) (netLen c.desc) .load = .fault i → ∃ n, n ≤ netLen c.desc ∧ ends 3 n) ∧
            ∀ ks ls, s.span c.by_ (netLocal c.desc) (netLen c.desc) .load = .keys ks ls → s.teams = [] →
              (ks.any s.isPoisoned = true → ∃ n, n ≤ netLen c.desc ∧ ends 5 n) ∧
              (ks.any s.isPoisoned = false → netMode c.desc = 3 → ends 0 (netLen c.desc)) ∧
              (ks.any s.isPoisoned = false → netMode c.desc ≠ 3 → starts (ks.map (s.readKeyFor c.by_.lane))))))) ∧
    ∀ st len, s.localDone c = some (st, len) →
      (bits c.comp 63 62 = 0 → ∃ u, exec (.netLocalCompletion c.id) s = .next u ∧ (∀ x ∈ u.ncmds, x.id ≠ c.id) ∧ u.mem = s.mem ∧
        (1 < st → ∀ r, r = failRec 0x0B st c.by_ [c.addr] →
          (∃ e ∈ u.easel, e.core = c.by_.core ∧ e.live = true ∧ e.body = r) ∨ (c.by_.core, r) ∈ u.pending) ∧
        (st ≤ 1 → u.easel = s.easel ∧ u.pending = s.pending)) ∧
      (bits c.comp 63 62 = 1 → ∀ (tm : Team) (b : CBar) (k : Nat), s.team? c.by_.team = some tm → bits c.comp 61 58 = k →
        tm.cbs[k]? = some b →
        let sc := if op = 1 ∨ op = 3 then 8 else 7
        ∃ u tm', exec (.netLocalCompletion c.id) s = .next u ∧ (∀ x ∈ u.ncmds, x.id ≠ c.id) ∧ u.team? c.by_.team = some tm' ∧
          tm'.cbs[k]? = some (if b.exp = 0#16 then b
            else if b.cnt + 1#16 = b.exp then { b with cnt := 0, ph := !b.ph, since := none, scp := max b.scp sc }
            else { b with cnt := b.cnt + 1#16, scp := max b.scp sc })) ∧
      (bits c.comp 63 62 = 2 →
        let x : RingWait := { id := s.fresh, by_ := c.by_, ring := compRing c.comp, op := op, status := st, counted := false,
                              tag := c.desc.extractLsb' 224 32, len := len, cmd := some c.id }
        (∀ y ∈ s.ringq, y.same x = false ∧ x.same y = false) → ∀ hk ek wk, RingRoom { s with fresh := s.fresh + 1 } x hk ek wk →
          ∃ u, exec (.netLocalCompletion c.id) s = .next u ∧ (∀ y ∈ u.ncmds, y.id ≠ c.id) ∧
            ∀ lane j, u.readKeyFor lane j = ringBytes s x hk ek wk lane j)) ∧
  (∀ (s : State) (x : Sent), (s.sentq.find? fun y => y.id == x.id) = some x → s.domState x.pkt.world ≠ 0 →
    let retry := bits (s.devGet (domOff x.pkt.world + 8)) 47 40
    (x.retries < retry → ∃ u, exec (.packetRetransmit x.id) s = .next u ∧ { x with retries := x.retries + 1 } ∈ u.sentq ∧
      u.ncmds = s.ncmds ∧ u.mem = s.mem) ∧
    (retry ≤ x.retries → ∃ u, exec (.packetRetransmit x.id) s = .next u ∧ (∀ y ∈ u.sentq, y.id ≠ x.id) ∧ u.mem = s.mem ∧
      ∀ c, (s.ncmds.find? fun c => some c.id == x.cmd && c.acked.isNone) = some c →
        ∃ n, n ≤ netLen c.desc ∧ (netOp c.desc = 1 → n = c.landed) ∧ { c with acked := some (6, n) } ∈ u.ncmds)) ∧
  (∀ (s : State) (x : RingWait) (hk ek wk : List Nat), (s.ringq.find? fun y => y.id == x.id) = some x →
    s.ringq.find? x.same = some x → RingRoom s x hk ek wk →
    ∃ u, exec (.completionRingSpace x.id) s = .next u ∧ (∀ y ∈ u.ringq, y.id ≠ x.id) ∧ (∀ c ∈ u.ncmds, x.cmd ≠ some c.id) ∧
      ((∀ y ∈ s.ringq, y.id ≠ x.id → x.same y = false) → u.ringq = s.ringq.filter (·.id != x.id) ∧
        ∀ lane j, u.readKeyFor lane j = ringBytes s x hk ek wk lane j)) ∧
  (∀ (s : State) (k : NetPacket), k.world < 64 → s.errs = [] → s.snaps = [] → s.poisoned = [] → s.teams = [] → Memory.wf s.mem = true →
    let refused : Prop := s.domState k.world = 0 ∨ k.tagOk = false ∨ k.epoch ≠ bits (s.devGet (domOff k.world + 8)) 39 32 ∨
      4096 < k.data.length
    let before : Prop := ∃ r ∈ s.rx, r.1 = k.world ∧ r.2.1 = k.peer ∧ r.2.2.1 = k.seq
    let turn : Prop := k.mode ≠ 1 ∨ k.rod = (flowOf s.rodIn k).next
    let stores (ks : List Nat) : Prop := ks.Nodup ∧ ∀ x ∈ ks, Plainly s x
    let acks (u : State) (st : Nat) : Prop := k.mode ≠ 3 → s.upPorts (k.port / 4 % 2) ≠ [] →
      ∃ a ∈ u.wire, a.op = 8 ∧ a.world = k.world ∧ a.peer = k.peer ∧ a.seq = k.seq ∧ a.status = st
    let same (u : State) : Prop := u.mem = s.mem ∧ u.ncmds = s.ncmds ∧ u.sends = s.sends ∧ u.teams = s.teams
    (refused ∨ (before ∧ k.op ≠ 8 ∧ (k.op ≠ 0 ∨ k.mode ≠ 2)) ∨ (¬before ∧ ¬turn ∧ k.op ≠ 8) →
      ∃ u, exec (.netPacketReceive k) s = .next u ∧ same u) ∧
    (¬refused → ¬before → turn →
      (∀ ks ls, k.op = 0 → bits k.rcomp 63 62 ≠ 2 → (s.peerSpan k k.off k.data.length .store).2 = .keys ks ls → stores ks →
        ks.length = k.data.length →
        ∃ u, exec (.netPacketReceive k) s = .next u ∧ acks u 0 ∧
          ∀ lane x, u.readKeyFor lane x = setBytes (s.readKeyFor lane) ks k.data x) ∧
      (∀ ks ls, k.op = 1 → (s.peerSpan k 0 k.len .load).2 = .keys ks ls →
        ∃ u, exec (.netPacketReceive k) s = .next u ∧ u.mem = s.mem ∧ u.ncmds = s.ncmds ∧ acks u 0 ∧
          (k.mode ≠ 3 → 0 < k.len → k.len ≤ s.payload → ks.length = k.len →
            ∃ x ∈ u.sentq, x.cmd = none ∧ x.pkt.op = 9 ∧ x.pkt.id = k.id ∧ x.pkt.peer = k.peer ∧ x.pkt.off = 0 ∧
              x.pkt.status = 0 ∧ x.pkt.data = ks.map (s.readKeyFor 0))) ∧
      (k.op = 2 → (∀ c ∈ s.ncmds, c.taken = true → c.acked = none → c.matches k = false) → s.inmsgs = [] →
        (∀ l ∈ s.sends, sameMsg k l = true → l.seq ≠ k.seq) →
        ∃ u, exec (.netPacketReceive k) s = .next u ∧ u.sends = s.sends ++ [k] ∧ u.mem = s.mem) ∧
      (∀ c ks ls, k.op = 2 → (s.ncmds.find? fun c => c.taken && c.acked.isNone && c.matches k) = some c →
        (s.ncmds.map (·.id)).Nodup → c.todo = [(0, netLen c.desc)] → s.inmsgs = [] → (∀ l ∈ s.sends, sameMsg k l = false) →
        s.rodTurn c = true → k.off = 0 → k.data.length = k.len →
        let n := min k.len (netLen c.desc)
        s.span c.by_ (netLocal c.desc) n .store = .keys ks ls → stores ks → ks.length = n →
        ∃ u, exec (.netPacketReceive k) s = .next u ∧ acks u 0 ∧
          (∀ lane x, u.readKeyFor lane x = setBytes (s.readKeyFor lane) ks (k.data.take n) x) ∧
          ∃ c' ∈ u.ncmds, c'.id = c.id ∧ c'.acked = some (if netLen c.desc < k.len then 1 else 0, n)) ∧
      (∀ ks ls, k.op = 4 → bits k.rcomp 63 62 ≠ 2 → k.remote.toNat % ropBytes k.rop = 0 → k.off % ropBytes k.rop = 0 →
        k.data.length % ropBytes k.rop = 0 → (s.peerSpan k k.off k.data.length .reduction).2 = .keys ks ls → stores ks →
        ks.length = k.data.length →
        ∃ u, exec (.netPacketReceive k) s = .next u ∧ acks u 0 ∧ ∀ lane x, u.readKeyFor lane x =
          ((unitsOf (ropBytes k.rop) k.data.length ks).zip (unitsOf (ropBytes k.rop) k.data.length k.data)).foldl
            (fun m e => setFor m e.1 (toBytes (redOp .rne (ropOf k.rop) (leNat (e.1.map (m 0))) (leNat e.2)).1 (ropBytes k.rop)))
            s.readKeyFor lane x) ∧
      (∀ i, k.op = 0 ∨ (k.op = 4 ∧ k.remote.toNat % ropBytes k.rop = 0 ∧ k.off % ropBytes k.rop = 0 ∧
          k.data.length % ropBytes k.rop = 0) →
        (s.peerSpan k k.off k.data.length (if k.op = 0 then .store else .reduction)).2 = .fault i →
        ∃ u, exec (.netPacketReceive k) s = .next u ∧ same u ∧ acks u (if i.code = .xclass then 2 else 4)) ∧
      (∀ c ks ls, k.op = 9 → (s.ncmds.map (·.id)).Nodup → c ∈ s.ncmds → c.id = k.id → c.taken = true → c.acked = none →
        c.by_.world.toNat = k.world → netOp c.desc = 1 → c.peer = k.peer → s.rodTurn c = true →
        (k.status ≠ 0 → ∃ u, exec (.netPacketReceive k) s = .next u ∧ u.mem = s.mem ∧
          { c with acked := some (k.status, c.landed) } ∈ u.ncmds) ∧
        (let n := min k.data.length (netLen c.desc - k.off)
         k.status = 0 → 0 < n → s.span c.by_ (netLocal c.desc + BitVec.ofNat 64 k.off) n .store = .keys ks ls → stores ks →
         ks.length = n →
         ∃ u, exec (.netPacketReceive k) s = .next u ∧
           (∀ lane x, u.readKeyFor lane x = setBytes (s.readKeyFor lane) ks (k.data.take n) x) ∧
           ∃ c' ∈ u.ncmds, c'.id = c.id ∧ c'.todo = cutStretch k.off (k.off + n) c.todo ∧
             (c'.todo = [] → c'.acked = some (0, netLen c.desc)) ∧ (c'.todo ≠ [] → c'.acked = none)))) ∧
    (∀ x c, ¬refused → k.op = 8 → (s.sentq.find? fun y => y.id == k.seq && y.pkt.world == k.world && y.pkt.peer == k.peer) = some x →
      (s.ncmds.find? fun c => some c.id == x.cmd && c.acked.isNone) = some c →
      let last : Prop := ∀ y ∈ s.sentq, y.id ≠ x.id → y.cmd ≠ x.cmd
      ∃ u, exec (.netPacketReceive k) s = .next u ∧ u.mem = s.mem ∧ (∀ y ∈ u.sentq, y.id ≠ x.id) ∧
        (k.status ≠ 0 → ∃ n, n ≤ netLen c.desc ∧ { c with acked := some (k.status, n) } ∈ u.ncmds) ∧
        (k.status = 0 → netOp c.desc ≠ 1 → last → { c with acked := some (0, netLen c.desc) } ∈ u.ncmds) ∧
        (k.status = 0 → netOp c.desc = 1 ∨ ¬last → u.ncmds = s.ncmds))) ∧
  (∀ (s : State) (w port : Nat) (up : Bool) (v : BitVec 2), w < 64 →
    (s.domState w = 2 → (∀ x ∈ s.sentq, x.pkt.world ≠ w) →
      (∀ c ∈ s.ncmds, c.by_.world.toNat = w → c.taken = true → c.waitsRing = true) →
      ∃ u, exec (.domainDrained w) s = .next u ∧ u.domState w = 3 ∧ u.mem = s.mem ∧ u.ncmds = s.ncmds) ∧
    (Rising s.dev → ∃ u, exec (.domainStateWrite w v) s = .next u ∧ u.domState w = v.toNat ∧ (∀ x, x ≠ w → u.domState x = s.domState x) ∧
      u.mem = s.mem) ∧
    ∃ u, exec (.portLinkChange port up) s = .next u ∧ (port ∈ u.down ↔ up = false) ∧ ∀ p, p ≠ port → (p ∈ u.down ↔ p ∈ s.down))

/-- R325, R326, R332 to R334, R383: the instructions of launching. `launch` and `gang` check the record or records, answer
2^63 + status for the first check that fails, and else accept them all with the queue's next numbers; which records, descriptors,
context headers and gangs pass is said field by field. How LAUNCH_WORLD is read, and that a gang's sB is checked with its first
record and the first status in record order counts, are the model's choices (log entries 55 and 56). `cancel` freezes the groups
of an instance, drops its teams that wait to be placed, and tells the cores; `vsel` answers the descriptor of least capacity that
holds the size; `svc.reg` registers or withdraws the group. -/
def Obligations.LaunchInstructions : Prop :=
  ∀ (s : State) (g : Group) (d a b : Sel) (x y : DWord),
    Issuer s g → g.priv ≠ .u → g.inMask s.cur.lanes ≠ [] → consumeS s.tick 100000 g a = some x →
    let answers (i : Instr) (v : Nat) (P : State → Prop) : Prop :=
      ∃ u g', exec i s = .next u ∧ After u g g' ∧
        g' = movePast s (g.setScalar d { val := BitVec.ofNat 64 v, taint := false, poison := false }) ∧ u.mem = s.mem ∧ P u
    (consumeS s.tick 100001 g b = some y →
      (s.rdy = true → s.slog = [] → (g.priv = .f → s.busy = []) →
        (∀ (q : Nat) (r : BitVec 1024 × List (BitVec 512) × BitVec 512), q < 64 → y = BitVec.ofNat 64 q →
          (16 ≤ s.lqCount q → exec (.launch d a b) s = .next { s with stalled := true }) ∧
          (s.lqCount q < 16 → LaunchReads s g q false x r.1 r.2.1 r.2.2 →
            (∀ n, launchVerdict s g q false r = some n →
              answers (.launch d a b) (2 ^ 63 + n) fun u => u.launches = s.launches ∧ u.lqNext = s.lqNext) ∧
            (launchVerdict s g q false r = none → answers (.launch d a b) (s.lqNumber q) fun u =>
              (∃ l, u.launches = s.launches ++ [l] ∧ l.lq = q ∧ l.lseq = s.lqNumber q ∧ l.image = r.1 ∧ l.kd = r.2.1.headD 0 ∧
                l.ctx = r.2.2 ∧ l.gang = none ∧ l.started = none) ∧
              (Rising s.lqNext → u.lqNumber q = (s.lqNumber q + 1) % 2 ^ 32)))) ∧
        (∀ (q : Nat) (rs : List (BitVec 1024 × List (BitVec 512) × BitVec 512)), q < 64 → 2 ≤ rs.length → rs.length ≤ 8 →
          y = BitVec.ofNat 64 (q * 2 ^ 16 + rs.length) →
          (16 < s.lqCount q + rs.length → exec (.gang d a b) s = .next { s with stalled := true }) ∧
          (s.lqCount q + rs.length ≤ 16 →
            (∀ (k : Nat) (r : BitVec 1024 × List (BitVec 512) × BitVec 512), rs[k]? = some r →
              LaunchReads s g q true (x + BitVec.ofNat 64 (128 * k)) r.1 r.2.1 r.2.2) →
            (∀ n, rs.findSome? (launchVerdict s g q true) = some n →
              answers (.gang d a b) (2 ^ 63 + n) fun u => u.launches = s.launches ∧ u.lqNext = s.lqNext) ∧
            (rs.findSome? (launchVerdict s g q true) = none → gangOk (rs.map (·.1)) = false →
              answers (.gang d a b) (2 ^ 63 + 1) fun u => u.launches = s.launches ∧ u.lqNext = s.lqNext) ∧
            (rs.findSome? (launchVerdict s g q true) = none → gangOk (rs.map (·.1)) = true →
              answers (.gang d a b) (s.lqNumber q) fun u =>
                ∃ ls, u.launches = s.launches ++ ls ∧ ls.length = rs.length ∧
                  ∀ (k : Nat) (l : Launch) (r : BitVec 1024 × List (BitVec 512) × BitVec 512), ls[k]? = some l → rs[k]? = some r →
                    l.lq = q ∧ l.lseq = (s.lqNumber q + k) % 2 ^ 32 ∧ l.started = none ∧ l.gang = some (s.lqNumber q, rs.length) ∧
                    l.image = r.1 ∧ l.kd = r.2.1.headD 0 ∧ l.ctx = r.2.2))) ∧
        ∀ rb, x.toNat % 128 = 0 → ReadsAt s g x 128 rb →
          (64 ≤ y.toNat → answers (.launch d a b) (2 ^ 63 + 1) fun u => u.launches = s.launches ∧ u.lqNext = s.lqNext) ∧
          (bits y 15 8 ≠ 0 ∨ bits y 63 22 ≠ 0 ∨ bits y 7 0 < 2 ∨ 8 < bits y 7 0 →
            answers (.gang d a b) (2 ^ 63 + 1) fun u => u.launches = s.launches ∧ u.lqNext = s.lqNext)) ∧
      (∀ vb, x.toNat % 128 = 0 → ReadsAt s g x 128 vb →
        let v := word1024 vb
        (vsBad v = true → ∃ u, exec (.vsel d a b) s = raiseCohort u g (.plain .copyFmt) ∧ u.groups = s.groups ∧ u.mem = s.mem) ∧
        (vsBad v = false → ∀ k, k < vsN v → y.toNat ≤ vsCap v k →
          (∀ j, j < vsN v → y.toNat ≤ vsCap v j → vsCap v k < vsCap v j ∨ (vsCap v k = vsCap v j ∧ k ≤ j)) →
          answers (.vsel d a b) (vsDesc v k).toNat fun u => u.launches = s.launches) ∧
        (vsBad v = false → (∀ k, k < vsN v → vsCap v k < y.toNat) →
          answers (.vsel d a b) 0 fun u => u.launches = s.launches)) ∧
      (let others := s.groups.filter fun h => h.core == g.core && h.world.toNat == g.world.toNat && h.service.isSome &&
         h.slot != g.slot
       (x = 0 → y.toNat ≤ 7 → exec (.svcReg a b) s = .next (s.putGroup { movePast s g with service := none })) ∧
       (x = 1 → y.toNat ≤ 7 → others.length < 4 →
         exec (.svcReg a b) s = .next (s.putGroup { movePast s g with service := some y.toNat })) ∧
       (1 < x.toNat ∨ 7 < y.toNat ∨ (x = 1 ∧ 4 ≤ others.length) → exec (.svcReg a b) s = raiseCohort s g (.plain .svcBad)))) ∧
    (let w := if g.priv = .f then bits x 21 16 else g.world.toNat
     let n := bits x 15 0
     let bad : Prop := if g.priv = .f then bits x 63 22 ≠ 0 else bits x 63 16 ≠ 0
     let hit (h : Group) : Bool := h.world.toNat == w && h.ginst.toNat == n && !h.live.isEmpty
     (bad → exec (.cancel a) s = raiseCohort s g (.plain .svcBad)) ∧
     (¬bad → s.cancelled w n = true → exec (.cancel a) s = .next (s.putGroup (movePast s g))) ∧
     (¬bad → s.cancelled w n = false → 16 ≤ (s.tokens.filter fun t => t.1 == w).length →
       exec (.cancel a) s = .next { s with stalled := true }) ∧
     (¬bad → s.cancelled w n = false → (s.tokens.filter fun t => t.1 == w).length < 16 →
       ∃ u, exec (.cancel a) s = .next u ∧ u.mem = s.mem ∧
         u.groups = (s.putGroup (movePast s g)).groups.map (fun h => if hit h then { h with fzC := true } else h) ∧
         ((∃ h ∈ s.groups, hit h = true) → u.cancelled w n = true) ∧
         (∀ l ∈ u.launches, l.started.isSome = true → lrWorld l.image = w → lrGinst l.image = n → l.queued = []) ∧
         ∀ c, c < Config.cores → (∃ h ∈ s.groups, h.core = c ∧ hit h = true) →
           ∀ r, r = deviceRec 0x09 0 w false [BitVec.ofNat 64 n, BitVec.ofNat 64 (s.groups.filter fun h => h.core == c && hit h).length] →
             (∃ e ∈ u.easel, e.core = c ∧ e.live = true ∧ e.body = r) ∨ (c, r) ∈ u.pending)) ∧
    ∀ (q : Nat) (member : Bool) (r : BitVec 1024) (kd ctx : BitVec 512) (rs : List (BitVec 1024)),
      let status := s.recordStatus g r q false member
      let held : Prop := s.cancelled (bits r 261 256) (bits r 303 288) = true
      (status = some 1 ↔ ¬RecordGood s r member) ∧
      (status = some 2 ↔ RecordGood s r member ∧ ¬WorldGood s g r q) ∧
      (status = some 3 ↔ RecordGood s r member ∧ WorldGood s g r q ∧ held) ∧
      (status = none ↔ RecordGood s r member ∧ WorldGood s g r q ∧ ¬held) ∧
      (kdOk r kd = true ↔ DescriptorGood r kd) ∧ (ctxOk r ctx = true ↔ HeaderGood r ctx) ∧ (everFits r kd = true ↔ FitsSomewhere r kd) ∧
      (gangOk rs = true ↔ GangGood rs)

/-- R331: `pipe.put` appends each thread's word in ascending lane order once there is room for all of them, `pipe.get` hands
each thread the oldest element left, and `pipe.close` ends the stream: what is left can be read, then reads give 2^32, and puts
raise APERTURE. R258: elements of a cancelled instance are dropped when they are popped. R206, R219: an element comes with the poison
of its bytes. R209, R330: an operation writes the bytes of its ring, and no others. That the ring takes 64 bytes and four for each
element, which follow the header in the order of their numbers and around, and which of these bytes an operation writes, is the
model's choice (log entry 61). -/
def Obligations.Pipes : Prop :=
  ∀ (s : State) (g : Group) (d a b : Sel) (x : DWord) (p : Pipe), Issuer s g → s.errs = [] → consumeS s.tick 100000 g a = some x →
    let run := g.inMask s.cur.lanes
    let v (t : Thread) : Val := vsource s.tick g t false b
    let lo := vaultKey (vaultOff p.site (p.seg * 65536))
    let does (i : Instr) (P : State → Group → Prop) : Prop :=
      ∃ u g', exec i s = .next u ∧ After u g g' ∧ P u g' ∧
        (Memory.wf s.mem = true → ∀ lane k, (k < lo ∨ lo + (64 + 4 * p.cap) ≤ k) → u.readKeyFor lane k = s.readKeyFor lane k)
    let becomes (u : State) (q : Pipe) : Prop := ∀ o ∈ s.pipes, o.lq = p.lq ∧ o.first = p.first ∧ o.idx = p.idx → q ∈ u.pipes
    (s.pipeFor g x false = some p → g.nregOk [(b, 1)] = true → (∀ t ∈ run, s.logPending g t.lane = false ∧ (v t).wait = []) →
      (∀ t ∈ run, (v t).poison = false) → run ≠ [] →
      (p.closed = true →
        exec (.pipePut a b) s = .next (raiseLanes s g (run.map fun t => (t.lane, FaultInfo.plain .aperture)))) ∧
      (p.closed = false → p.getGone = true → exec (.pipePut a b) s = .next (s.putGroup (movePast s g))) ∧
      (p.closed = false → p.getGone = false → p.elems.length + run.length ≤ p.cap →
        does (.pipePut a b) fun u g' => g' = movePast s g ∧ becomes u { p with elems := p.elems ++ run.map fun t =>
          { val := (v t).val.setWidth 32, world := g.world, ginst := g.ginst } }) ∧
      (p.closed = false → p.getGone = false → p.cap < p.elems.length + run.length →
        exec (.pipePut a b) s = .next { s with stalled := true })) ∧
    (s.pipeFor g x false = none → g.nregOk [(b, 1)] = true → (∀ t ∈ run, s.logPending g t.lane = false ∧ (v t).wait = []) →
      (∀ t ∈ run, (v t).poison = false) →
      exec (.pipePut a b) s = .next (raiseLanes s g (run.map fun t => (t.lane, FaultInfo.plain .aperture)))) ∧
    (s.pipeFor g x true = some p → g.nregOk [(d, 2)] = true → p.spoilt = false → (g.threads.map (·.lane)).Nodup →
      let lives (l : List PipeElem) : List PipeElem := l.filter fun e => !s.cancelled e.world.toNat e.ginst.toNat
      let left := (((List.range p.elems.length).map (p.popped + ·)).zip p.elems).filter fun e => !s.cancelled e.2.world.toNat e.2.ginst.toNat
      (left.length < run.length → p.closed = false → exec (.pipeGet d a) s = .next { s with stalled := true }) ∧
      (run.length ≤ left.length ∨ p.closed = true → does (.pipeGet d a) fun u g' =>
        (∃ rest, becomes u { p with elems := rest, popped := p.popped + (p.elems.length - rest.length) } ∧ rest <:+ p.elems ∧
          lives rest = (left.drop run.length).map (·.2)) ∧
        ∀ t ∈ g.threads, ∃ t' ∈ g'.threads, t'.lane = t.lane ∧
          (laneBit s.cur.lanes t.lane = false → t' = t) ∧
          (laneBit s.cur.lanes t.lane = true → WroteLane s t t' .w64 d
            (match left[(run.filter fun r => r.lane < t.lane).length]? with
             | some (j, e) => { val := e.val.setWidth 128, taint := false, wait := []
                                poison := (List.range 4).any fun i => s.isPoisoned (lo + (64 + 4 * (j % p.cap)) + i) }
             | none => { val := BitVec.ofNat 128 (2 ^ 32), taint := false, poison := false, wait := [] })))) ∧
    (s.pipeFor g x true = none → g.nregOk [(d, 2)] = true →
      exec (.pipeGet d a) s = .next (raiseLanes s g (run.map fun t => (t.lane, FaultInfo.plain .aperture)))) ∧
    (s.pipeFor g x false = some p →
      does (.pipeClose a) fun u g' => g' = movePast s g ∧ becomes u { p with closed := true }) ∧
    (s.pipeFor g x false = none → exec (.pipeClose a) s = raiseCohort s g (.plain .aperture))

/-- R327 to R329, R335, R376, R378: starting launches and placing teams. The eligible head of the highest priority class, the
oldest of those, starts, with all its teams released where it has no dependence vectors; a team whose predecessors have all
retired is released; the next team goes to the core with the fewest resident threads among those that may take it, where its
threads begin as R92 says; a cluster goes to its rectangle, a service team to its own core. -/
def Obligations.LaunchesStartAndTeamsArePlaced : Prop :=
  (∀ (s : State) (h : List Launch), s.tokens = [] → h ∈ s.eligibleHeads →
    (∀ k ∈ s.eligibleHeads, k ≠ h → headBefore h k = true) → (∀ l ∈ h, lrVar l.image = false ∧ lrNdep l.image = 0) →
    (s.launches.map fun l => (l.lq, l.lseq)).Nodup →
    ∃ u, exec .launchStart s = .next u ∧ u.groups = s.groups ∧ u.mem = s.mem ∧
      (∀ l ∈ s.launches, l ∉ h → l ∈ u.launches) ∧
      ∀ l ∈ h, ∃ l' ∈ u.launches, l'.lq = l.lq ∧ l'.lseq = l.lseq ∧ l'.image = l.image ∧ l'.kd = l.kd ∧ l'.started.isSome = true ∧
        l'.queued = (List.range (lrTeams l.image)).map fun i => (i, s.time.toNat)) ∧
  (∀ (s : State) (q n : Nat) (l : Launch), s.launch? q n = some l →
    let teams := lrTeams l.image
    let (gx, gy, gz) := lrGrid l.image
    let at_ (i : Nat) : Int × Int × Int := ((i % gx : Nat), (i / gx % gy : Nat), (i / (gx * gy) : Nat))
    let pre (i p : Nat) : Prop := ∃ k, k < lrNdep l.image ∧
      at_ p = ((at_ i).1 + (lrDepVec l.image k).1, (at_ i).2.1 + (lrDepVec l.image k).2.1, (at_ i).2.2 + (lrDepVec l.image k).2.2)
    let due (i : Nat) : Prop := i < teams ∧ l.released i = false ∧ ∀ p, p < gx * gy * gz → pre i p → p ∈ l.retired
    l.started.isSome = true → l.stopped = false → lrNdep l.image ≠ 0 → s.cancelled (lrWorld l.image) (lrGinst l.image) = false →
    l.retired.length + l.torn.length < teams → s.errs = [] → s.poisoned = [] →
    (∀ i, i < teams → ∃ k, s.scoreKeys l (i / 8) 1 .atomic = (s, .keys [k]) ∧ (s.readKey k).getLsbD (i % 8) = l.retired.contains i) →
    (∃ i, due i) →
    ∃ u l', exec (.teamRelease q n) s = .next u ∧ u.launch? q n = some l' ∧ u.groups = s.groups ∧ u.mem = s.mem ∧
      ∃ new : List Nat, new.Pairwise (· < ·) ∧ (∀ i, i ∈ new ↔ due i) ∧
        l' = { l with queued := l.queued ++ new.map fun i => (i, s.time.toNat) }) ∧
  (∀ (s : State) (q n i c : Nat) (l : Launch), s.launch? q n = some l → s.heldOff l = false → lrSvc l.image = false →
    l.gang = none → lrCw l.image * lrCh l.image = 1 → l.nextUnit.map (·.1) = some [i] →
    (∀ k ∈ s.launches, k.older l = true → s.placeNext k = none) → c < Config.cores →
    (s.admitted l c && s.hosts l c) = true →
    (∀ e, e < Config.cores → (s.admitted l e && s.hosts l e) = true →
      s.coreThreads c < s.coreThreads e ∨ (s.coreThreads c = s.coreThreads e ∧ c ≤ e)) →
    ∃ u l', exec (.teamPlacement q n) s = .next u ∧ u.launch? q n = some l' ∧
      l' = { l with queued := l.queued.filter (fun t => t.1 != i), placed := l.placed ++ [i], fair := false } ∧
      (∀ h ∈ s.groups, h ∈ u.groups) ∧ u.groups.length = s.groups.length + kdGroups l.kd ∧
      ∃ t ∈ u.teams, t.core = c ∧ t.lq = q ∧ t.lseq = n ∧ t.index = i ∧ t.size = kdSpad l.kd ∧ t.clid = i ∧
        (∀ o, o < kdSpad l.kd → u.readKey (spadKey c (t.base + o)) = 0) ∧
        ∀ gid, gid < kdGroups l.kd → ∃ h ∈ u.groups, h.team = t.num ∧ h.core = c ∧ h.gid = gid ∧ h.priv = .u ∧
          h.world.toNat = lrWorld l.image % 64 ∧ h.asid.toNat = lrAsid l.image % 2 ^ 13 ∧ h.gw = kdGw l.kd ∧ h.nreg = kdNreg l.kd ∧
          h.tx = i % (lrGrid l.image).1 ∧ h.rm = 1 ∧ h.fflags = 0 ∧ h.rcvdepth = 0 ∧ h.frozen = false ∧
          h.s = { val := lrArgp l.image, taint := false, poison := false } ::
            List.replicate 31 { val := 0, taint := false, poison := false } ∧
          h.threads.map (·.lane) = List.range (kdGw l.kd) ∧
          ∀ th ∈ h.threads, th.pc = l.kd.extractLsb' 0 64 &&& ~~~3#64 ∧ th.st = .ready ∧ th.v.length = kdNreg l.kd ∧
            th.h.length = 16 ∧ (∀ r ∈ th.v, r = { val := 0, taint := false, poison := false, wait := [] }) ∧
            ∀ r ∈ th.h, r = { val := 0, taint := false, poison := false, wait := [] }) ∧
  (∀ (s : State) (q n : Nat) (l : Launch), s.launch? q n = some l → s.heldOff l = false → l.gang = none →
    (∀ k ∈ s.launches, k.older l = true → s.placeNext k = none) →
    (∀ (ts cs : List Nat), lrSvc l.image = false → ts.length ≠ 1 → l.nextUnit.map (·.1) = some ts →
      s.clusterCores l (s.admitted l) = some cs →
      ∃ u, exec (.teamPlacement q n) s = .next u ∧
        ∀ (k i c : Nat), ts[k]? = some i → cs[k]? = some c → ∃ t ∈ u.teams, t.index = i ∧ t.core = c ∧ t.lq = q ∧ t.lseq = n) ∧
    (∀ i w, lrSvc l.image = true → (l.queued.find? fun t => s.hostsService l (lrSvcc l.image + t.1)) = some (i, w) →
      ∃ u, exec (.teamPlacement q n) s = .next u ∧ ∃ t ∈ u.teams, t.core = lrSvcc l.image + i ∧ t.index = i ∧ t.svc = true ∧
        ∀ gid, gid < kdGroups l.kd → ∃ h ∈ u.groups, h.team = t.num ∧ h.priv = if lrSvl l.image then .f else .s))

/-- R193, R328, R329, R332, R338, R377: what becomes of teams, groups and their launches. A team all of whose threads have exited
and whose commands are done with retires, unless it is frozen or its core has halted: its groups and storage go, its bit in the scoreboard is set, and the last team takes its
launch with it. A group of a cancelled instance goes once nothing of its is under way, and the last one takes its team. A launch
whose next team has waited 100 µs is fair; a group that has waited another 4,096 cycles rises a class; a line of scratchpad is
cleared. -/
def Obligations.TeamsAndGroupsEnd : Prop :=
  (∀ (s : State) (t : Team) (l : Launch), s.team? t.num = some t → s.launch? t.lq t.lseq = some l →
    (∀ h ∈ s.groups, h.team = t.num → ∀ th ∈ h.threads, th.st = .exited) →
    (∀ e ∈ s.slog, ∀ h ∈ s.groups, h.team = t.num → e.core ≠ h.core ∨ e.slot ≠ h.slot) →
    (∀ c ∈ s.mcmds, c.by_.team ≠ t.num) → (∀ c ∈ s.joints, c.by_.team ≠ t.num) →
    (∀ c ∈ s.ccmds, c.by_.team = t.num → cpRet c.hdr = false ∧ cpKind c.hdr ≠ 1) →
    (∀ c ∈ s.ncmds, c.by_.team = t.num → compRet c.comp = false ∨ c.waitsRing = true) → s.isHalted t.core = false →
    (∀ h ∈ s.groups, h.team = t.num → h.frozen = false) →
    let after : Launch := { l with placed := l.placed.filter (· != t.index), retired := l.retired ++ [t.index] }
    let spent : Bool := after.started.isSome && after.placed.isEmpty &&
      (s.cancelled (lrWorld l.image) (lrGinst l.image) || (l.stopped && l.queued.isEmpty) ||
        lrTeams l.image ≤ after.retired.length + after.torn.length)
    let gone (u : State) : Prop := u.groups = s.groups.filter (fun h => h.team != t.num) ∧
      u.teams = s.teams.filter (fun x => x.num != t.num)
    (lrNdep l.image = 0 ∨ l.stopped = true →
      ∃ u, exec (.teamRetire t.num) s = .next u ∧ gone u ∧
        (∀ o, o < t.size → t.core < 4096 → t.base + o < 2 ^ 20 → u.readKey (spadKey t.core (t.base + o)) = 0) ∧
        u.launch? t.lq t.lseq = (if spent then none else some after)) ∧
    (∀ k, lrNdep l.image ≠ 0 → l.stopped = false → s.errs = [] → s.snaps = [] → s.poisoned = [] → Memory.wf s.mem = true →
      let v := (s.removeTeam t).teamOver t false
      v.scoreKeys after (t.index / 8) 1 .atomic = (v, .keys [k]) → Plainly v k →
      ∃ u, exec (.teamRetire t.num) s = .next u ∧ gone u ∧
        ∀ lane j, u.readKeyFor lane j = setBytes (v.readKeyFor lane) [k] [v.readKey k ||| BitVec.ofNat 8 (2 ^ (t.index % 8))] j)) ∧
  (∀ (s : State) (g : Group) (core slot : Nat), s.group? core slot = some g → g.fzC = true → s.groupBusy g = false →
    ∃ u, exec (.groupTeardown core slot) s = .next u ∧ u.group? core slot = none ∧
      (∀ e ∈ u.slog, ¬(e.core = core ∧ e.slot = slot)) ∧ (∀ r ∈ u.tokq, ¬(r.core = core ∧ r.slot = slot)) ∧
      (∀ h ∈ s.groups, h.team ≠ g.team → (∀ t ∈ s.teams, t.num = g.team → t.sameCluster h = false) → ¬(h.core = core ∧ h.slot = slot) → h ∈ u.groups) ∧
      ((∀ h ∈ s.groups, h.team = g.team → ¬(h.core = core ∧ h.slot = slot) → h.live = []) → ∀ t ∈ u.teams, t.num ≠ g.team)) ∧
  (∀ (s : State) (q n since : Nat) (l : Launch) (ts : List Nat), s.launch? q n = some l → l.nextUnit = some (ts, since) →
    l.fair = false → lrSvc l.image = false → s.heldOff l = false → since + 100000 ≤ s.time.toNat →
    exec (.fairnessExpiry q n) s = .next (s.setLaunch { l with fair := true })) ∧
  (∀ (s : State) (t : Team) (n k : Nat) (r : List Nat), s.team? n = some t → t.uncleared = k :: r →
    exec (.scratchpadClearDone n) s = .next (s.setTeam { t with uncleared := r })) ∧
  (∀ (s : State) (g : Group) (core slot : Nat), s.group? core slot = some g → g.age = true →
    4096 * (g.boost + 1) ≤ g.waited → min 7 (g.service.getD g.pri + g.boost) < 7 →
    exec (.agingPromotion core slot) s = .next (s.putGroup { g with boost := g.boost + 1 }))

/-- R297, R298, R303 to R305, R310, R408: records are answered. `srep` hands each caller its reply in `v0:v1` and moves it past the
call, and lets the threads of a break or trap go on; `sdone` frees the slots; `flt.done` lets the threads parked on a fault retry,
after an ACC 7 record's logged store has been made; a lane that names no record delivered to its group raises SVC_BAD. A
thread's ACC 8 record is posted at its next boundary, a timer posts its record once, with the time of its posting, and its compare value
returns to all ones then, and a record that waits enters the easel when a slot is free. What an ACC 8 record holds as PC and INSN and
what a boundary is are the model's choice (log entry 38), and so are the converged sets that resumed threads form (log entry 76). -/
def Obligations.RecordsAreAnswered : Prop :=
  (∀ (s : State) (g : Group) (a b : Sel), Issuer s g → g.priv ≠ .u → g.nregOk [(a, 1), (b, 2)] = true →
    (∀ h ∈ s.groups, (h.threads.map (·.lane)).Nodup ∧ ∀ t ∈ h.threads, t.lane < 64) →
    let run := g.inMask s.cur.lanes
    let num (t : Thread) : Nat := (vsource s.tick g t false a).val.toNat
    let rv (t : Thread) : Val := vsource s.tick g t true b
    (∀ t ∈ run, s.logPending g t.lane = false) →
    (∀ t ∈ run, ∀ x ∈ [vsource s.tick g t false a, rv t], x.wait = [] ∧ x.poison = false) →
    (∀ t ∈ run, ∀ t' ∈ run, num t = num t' → num t = 0xFFFF ∨ t = t') →
    (let bad (i : Instr) : Prop := exec i s = .next (raiseLanes s g (run.map fun t => (t.lane, FaultInfo.plain .svcBad)))
     ((∀ t ∈ run, num t ≠ 0xFFFF ∧ s.deliveredEasel g (num t) = none) → bad (.sdone a)) ∧
     ((∀ t ∈ run, num t ≠ 0xFFFF ∧ s.deliveredEasel g (num t) = none) → run ≠ [] → ∃ u, exec (.srep a b) s = .next u ∧
       u.groups = (raiseLanes s g (run.map fun t => (t.lane, FaultInfo.plain .svcBad))).groups ∧ u.easel = s.easel) ∧
     ((∀ t ∈ run, num t ≠ 0xFFFF ∧ s.deliveredFault g (num t) = none) → run ≠ [] → ∃ u, exec (.fltDone a) s = .next u ∧
       (∀ t ∈ run, ∀ h ∈ u.groups, h.core = g.core → h.slot = g.slot → ∀ x ∈ h.threads, x.lane = t.lane →
         ∃ k, x.st = .parkedFault k) ∧ u.easel = s.easel)) ∧
    ((∀ t ∈ run, num t = 0xFFFF ∨ (s.deliveredEasel g (num t)).isSome = true) →
      (∃ u g', exec (.sdone a) s = .next u ∧ After u g g' ∧ g'.threads = (movePast s g).threads ∧ u.easel = s.easel.map fun x =>
        if x.core = g.core ∧ ∃ t ∈ run, num t = x.slot ∧ num t ≠ 0xFFFF then { x with live := false, delivered := none } else x) ∧
      ∃ u, exec (.srep a b) s = .next u ∧ u.mem = s.mem ∧
        ∀ t ∈ run, ∀ (q : EaselSlot) (h : Group), s.deliveredEasel g (num t) = some q → num t ≠ 0xFFFF → q.answered = false →
          s.group? g.core q.body.gslot = some h → h.slot ≠ g.slot →
          { q with answered := true } ∈ u.easel ∧
          (q.body.kind = 1 ∨ q.body.kind = 2 → ∀ c ∈ h.threads, c.lane = q.body.lane → c.st = .parkedEasel q.slot false →
            ∃ h' c', u.group? g.core h.slot = some h' ∧ c' ∈ h'.threads ∧
              c' = { pushVal (writeDst c .w64 0 { rv t with taint := false, wait := [] }) .w64
                      { rv t with taint := false, wait := [] } with
                     st := .ready, bpSkip := false, pc := c.pc + 4#64, setId := s.fresh + 64 + q.batch, path := []
                     since := s.cycle + 1 }) ∧
          (q.body.kind = 3 ∨ q.body.kind = 4 → ∀ c ∈ h.threads, laneBit (q.body.a.getD 1 0) c.lane = true →
            c.st = .parkedEasel q.slot true →
            let hw := q.body.a.getD 2 0 == 1#64
            ∃ h' c', u.group? g.core h.slot = some h' ∧ c' ∈ h'.threads ∧ c'.lane = c.lane ∧ c'.st = .ready ∧ c'.bpSkip = hw ∧
              c'.v = c.v ∧ c'.h = c.h ∧
              c'.pc = (if hw || (rv t).val.getLsbD 0 then q.body.a.getD 0 0 else q.body.a.getD 0 0 + 4#64) &&& ~~~3#64)) ∧
    ((∀ t ∈ run, num t = 0xFFFF ∨ (s.deliveredFault g (num t)).isSome = true) → run ≠ [] →
      (∀ t ∈ run, ∀ q, s.deliveredFault g (num t) = some q → q.body.acc ≠ 7) →
      ∃ u, exec (.fltDone a) s = .next u ∧ u.mem = s.mem ∧
        ∀ t ∈ run, ∀ (q : FaultSlot) (h : Group), s.deliveredFault g (num t) = some q → num t ≠ 0xFFFF →
          { q with live := false, delivered := none } ∈ u.faultq ∧
          (s.group? g.core q.body.gslot = some h → h.slot ≠ g.slot → ∀ c ∈ h.threads, c.st = .parkedFault q.slot →
            ∃ h' c', u.group? g.core h.slot = some h' ∧ c' ∈ h'.threads ∧
              c' = { c with st := .ready, pc := c.pc &&& ~~~3#64, setId := s.fresh, path := [], since := s.cycle + 1 })) ∧
    (∀ (t : Thread) (q : FaultSlot) (h : Group) (c : Thread) (e : LogEnt) (ks : List Nat) (cls : Cls) (cached : Bool), run = [t] → s.deliveredFault g (num t) = some q → q.body.acc = 7 →
      s.logHolder g.core q.slot = some (h, c) → s.group? g.core h.slot = some h → h.slot ≠ g.slot →
      num t ≠ 0xFFFF → s.logOf (h.poster c.lane) = [e] → e.typ = 0 → s.snaps = [] → s.errs = [] → Memory.wf s.mem = true →
      (∀ u : State, (∃ f, u = { s with faultq := f }) →
        u.resolveNow { h.poster c.lane with kcls := e.kcls } e.addr e.bytes.length .store = .keys ks cls cached none) →
      ks.Nodup → ks.length = e.bytes.length → ks ≠ [] → (∀ k ∈ ks, Plainly s k) →
      ∃ u h' c', exec (.fltDone a) s = .next u ∧ (∀ lane k, u.readKeyFor lane k = setFor s.readKeyFor ks e.bytes lane k) ∧ e ∉ u.slog ∧
        u.group? g.core h.slot = some h' ∧ c' ∈ h'.threads ∧ c'.lane = c.lane ∧ c'.logRec = none ∧ c'.v = c.v ∧
        (c.st = .parkedFault q.slot → c'.st = .ready ∧ c'.pc = c.pc &&& ~~~3#64))) ∧
  (∀ (s : State) (g : Group) (core slot : Nat) (t : Thread) (c : Nat) (a a2 : DWord) (ws : List Word),
    s.group? core slot = some g → g.thread? t.lane = some t → t.lane < 64 → (g.threads.map (·.lane)).Nodup →
    t.logErr = some (c, a, a2) → t.st = .ready → s.fetch (g.poster t.lane) t.pc = .words ws → s.convergingHere g t = false →
    c ∈ [0x08, 0x09, 0x0A] → (s.faultq.filter fun q => q.core == core && q.live).length < 2048 →
    ∃ u g', exec (.logReplayRecord core slot t.lane) s = .next u ∧ u.mem = s.mem ∧ After u g g' ∧
      ∃ q ∈ u.faultq, q.core = core ∧ q.live = true ∧ q.body.code.code = c ∧ q.body.acc = 8 ∧ q.body.addr = a ∧ q.body.addr2 = a2 ∧ q.body.pc = t.pc ∧
        q.body.lane = t.lane ∧ q.body.coh = false ∧ q.body.insn = ws ∧
        { t with st := .parkedFault q.slot, logErr := none } ∈ g'.threads) ∧
  (∀ (s : State) (core w : Nat),
    (w < 64 → Rising (s.core core).tcmp → s.tcmp core w ≠ BitVec.allOnes 64 → (s.tcmp core w).toNat ≤ s.time.toNat →
      (∀ p ∈ s.pending, p.1 = core → p.2.kind ≠ 0x05) →
      ∃ u, exec (.timerFire core w) s = .next u ∧ u.groups = s.groups ∧ u.mem = s.mem ∧
        ∀ r, r = deviceRec 0x05 0 w (w == 0) [s.time, s.tcmp core w] →
          ((∃ e ∈ u.easel, e.core = core ∧ e.live = true ∧ e.body = r) ∧ u.tcmp core w = BitVec.allOnes 64) ∨
          ((core, r) ∈ u.pending ∧ u.tcmp core w = s.tcmp core w)) ∧
    (∀ r, (s.pending.find? fun p => p.1 == core) = some (core, r) → s.isHalted core = false → s.easelFree core ≠ 0 →
      ∃ u, exec (.deviceRecordPost core) s = .next u ∧ u.pending = s.pending.erase (core, r) ∧ u.groups = s.groups ∧
        (r.kind = 0x05 → Rising (s.core core).tcmp → s.tcmp core r.world.toNat = r.a.getD 1 0 →
          u.tcmp core r.world.toNat = BitVec.allOnes 64) ∧
        ∃ e ∈ u.easel, e.core = core ∧ e.live = true ∧ e.delivered = none ∧ e.posted = false ∧
          e.body = (if r.kind = 0x05 then { r with a := [s.time, r.a.getD 1 0] } else r) ∧
          ∀ x ∈ s.easel, x.core = core → x.live = true → x.slot ≠ e.slot ∧ x ∈ u.easel))

/-- R306: borrowed accesses are made with the rights of the thread whose record the lane names; a refused one sets BERR, counts, and
answers 0 without a fault. -/
def Obligations.BorrowedAccesses : Prop :=
  ∀ (s : State) (g : Group) (d a b : Sel) (z : BSize), Issuer s g → g.priv ≠ .u →
    g.nregOk [(d, (bsizeDW z).regs), (a, 2), (b, 1)] = true → (g.threads.map (·.lane)).Nodup → (∀ t ∈ g.threads, t.lane < 64) →
    s.slog = [] → s.errs = [] → s.snaps = [] → Memory.wf s.mem = true → (∀ l ∈ s.l1, l.core ≠ g.core) →
    let run := g.inMask s.cur.lanes
    let n := bsizeBytes z
    let w := bsizeDW z
    let num (t : Thread) : Nat := (vsource s.tick g t false b).val.toNat
    let ea (t : Thread) : DWord := (vsource s.tick g t true a).val.setWidth 64
    let ops (t : Thread) : List Val := [vsource s.tick g t true a, vsource s.tick g t false b]
    (∀ t ∈ run, ∀ v ∈ ops t, v.wait = [] ∧ v.poison = false) →
    (∀ t ∈ run, ∀ t' ∈ run, num t = num t' → num t = 0xFFFF ∨ t = t') →
    let still (t : Thread) (store : Bool) : Prop :=
      num t ≠ 0xFFFF → ∀ q, s.deliveredEasel g (num t) = some q → s.borrowWalks q (ea t) n store = s
    let berr (u : State) (q : EaselSlot) (e : Nat) : Prop :=
      let c := if e = 0 then q.body.bcnt else min 0xFFFF (q.body.bcnt + 1)
      { q with body := { q.body with berr := e, bcnt := c } } ∈ u.easel
    (∀ kind : Bool, (∀ t ∈ run, num t ≠ 0xFFFF ∧ s.deliveredEasel g (num t) = none) →
      (kind = true → (∀ t ∈ run, (source s.tick g t w d).wait = [] ∧ (source s.tick g t w d).poison = false)) →
      exec (if kind then .bst d a b z else .bld d a b z) s =
        .next (raiseLanes s g (run.map fun t => (t.lane, FaultInfo.plain .svcBad)))) ∧
    ((∀ t ∈ run, still t false) → (∀ t ∈ run, num t = 0xFFFF ∨ ∃ q, s.deliveredEasel g (num t) = some q ∧
        ((∃ e, s.borrow q (ea t) n false = .err e) ∨
         ∃ p ks cls cached line, s.borrow q (ea t) n false = .go p (.keys ks cls cached line) ∧ p.core = g.core)) →
      ∃ u g', exec (.bld d a b z) s = .next u ∧ After u g g' ∧ u.mem = s.mem ∧
        ∀ t ∈ run, ∃ t' ∈ g'.threads, t'.lane = t.lane ∧
          (num t = 0xFFFF → t' = s.past (inactiveLane s.tick g none w d [] t)) ∧
          ∀ q, num t ≠ 0xFFFF → s.deliveredEasel g (num t) = some q →
            let res (x : Nat) (pois : Bool) : Val :=
              { val := BitVec.ofNat 128 x, taint := (ops t).any (·.taint), poison := pois, wait := [] }
            (∀ e, s.borrow q (ea t) n false = .err e → WroteLane s t t' w d (res 0 false) ∧ berr u q e) ∧
            ∀ p ks cls cached line, s.borrow q (ea t) n false = .go p (.keys ks cls cached line) →
              WroteLane s t t' w d (res (leNat (ks.map (s.readKeyFor p.lane))) (ks.any s.isPoisoned)) ∧ berr u q 0) ∧
    (∀ t q, run = [t] → num t ≠ 0xFFFF → still t true → s.deliveredEasel g (num t) = some q →
      (source s.tick g t w d).wait = [] → (source s.tick g t w d).poison = false →
      (∀ e, s.borrow q (ea t) n true = .err e → ∃ u g', exec (.bst d a b z) s = .next u ∧ After u g g' ∧ u.mem = s.mem ∧
        g'.threads = (movePast s g).threads ∧ berr u q e) ∧
      ∀ p ks cls cached line, s.borrow q (ea t) n true = .go p (.keys ks cls cached line) → ks.Nodup → ks.length = n →
        (∀ k ∈ ks, Plainly s k) →
        let bs := s.unlanded line ks (toBytes (source s.tick g t w d).val.toNat n)
        ∃ u g', exec (.bst d a b z) s = .next u ∧ After u g g' ∧ g'.threads = (movePast s g).threads ∧ berr u q 0 ∧
          ∀ lane k, u.readKeyFor lane k = setFor s.readKeyFor (bs.map (·.1)) (bs.map (·.2)) lane k)

/-- R312 to R316, R368: what a supervisor does to other groups and to translations. `freeze` and `thaw` set and clear the freeze
bits of the selected groups and of no other; `swapout` freezes a world's U groups, and once nothing of theirs is under way they leave
the core for shadow storage, from which `swapin` brings them back with their registers; `tlb.inv` removes what it selects, and
`tlb.probe` reports how an address translates. The model's choices in this: the issuer is never selected, and S names no service group
(log entry 41); the image's header lies in the first reserved 64 bytes, its size is an open number of the check, and the issuer freezes
the groups at once and goes on when the image is written (log entry 42); an image comes back at the split it was saved with (log entry
43); bits of `tlb.inv` that are not used are ignored, and a probe of the queue window or of an untranslated one gives 0xFF (log entry
62). -/
def Obligations.PartitionsAndTranslations : Prop :=
  (∀ (s : State) (g : Group) (a sc : Sel) (x : DWord), Issuer s g → g.priv ≠ .u → consumeS s.tick 100000 g a = some x →
    (s.groups.map fun h => (h.core, h.slot)).Nodup →
    let sup : Prop := g.priv = .s
    let hit (h : Group) : Bool := h.core == g.core && h.slot != g.slot &&
      match bits x 63 62 with
      | 0 => h.slot == bits x 8 0
      | 1 => h.lq.toNat == bits x 21 16 && h.lseq.toNat == bits x 61 30
      | _ => h.world.toNat == bits x 5 0 && (bitAt x 9 || h.service.isNone)
    let legal : Prop := bits x 29 22 = 0 ∧ bits x 15 10 = 0 ∧ bits x 63 62 < 3 ∧ (sup → bitAt x 9 = false) ∧
      (sup → bits x 63 62 = 2 → bits x 5 0 = g.world.toNat) ∧
      (sup → bits x 63 62 = 0 → ∀ h ∈ s.groups, h.core = g.core → h.slot = bits x 8 0 → h.world = g.world ∧ h.service = none) ∧
      (sup → bits x 63 62 = 1 → ∀ h ∈ s.groups, hit h = true → h.world = g.world)
    let onto (f : Group → Group) : Out := .next (((s.groups.filter hit).map (·.team)).eraseDups.foldl State.recheck
      { s.putGroup (movePast s g) with
        groups := (s.putGroup (movePast s g)).groups.map fun h => if hit h then f h else h })
    (¬legal → exec (.freeze a) s = raiseCohort s g (.plain .svcBad) ∧ exec (.thaw a) s = raiseCohort s g (.plain .svcBad)) ∧
    (legal → exec (.freeze a) s = onto fun h => if g.priv = .f then { h with fzF := true } else { h with fzS := true }) ∧
    (legal → exec (.thaw a) s = onto fun h =>
      if g.priv = .f then { h with fzS := false, fzF := false, fzB := false }
      else { h with fzS := false, fzB := h.fzB && s.ebud h == 0 }) ∧
    (let w := bits x 5 0
     let bad : Prop := bits x 63 6 ≠ 0 ∨ (sup ∧ w ≠ g.world.toNat)
     let job (size : Nat) (done : Bool) : SwapJob :=
       { core := g.core, slot := g.slot, world := BitVec.ofNat 6 w, byF := g.priv == .f, size := size, done := done }
     (bad → exec (.swapout a) s = raiseCohort s g (.plain .svcBad) ∧ exec (.swapin a) s = raiseCohort s g (.plain .svcBad)) ∧
     (¬bad → (∀ j ∈ s.swaps, j.core ≠ g.core) →
       (s.swapRefused g.core w = true → exec (.swapout a) s = raiseCohort s g (.plain .swapState)) ∧
       (s.swapRefused g.core w = false → exec (.swapout a) s = .next { s with
         groups := s.groups.map (fun h => if h.core = g.core ∧ h.priv = .u ∧ h.world.toNat = w then
           (if g.priv = .f then { h with fzF := true } else { h with fzS := true }) else h),
         swaps := s.swaps ++ [job (s.imageSize (s.partition g.core w)) false] })) ∧
     (∀ size, ¬bad → s.swaps = [job size true] → exec (.swapout a) s = .next ({ s with swaps := [] }.putGroup (movePast s g))) ∧
     (¬bad → s.images.find? (fun i => i.core == g.core) = none →
       exec (.swapin a) s = raiseCohort s g (.plain .swapState)) ∧
     (∀ i, ¬bad → s.images.find? (fun i => i.core == g.core) = some i →
       let v := (s.putGroup (movePast s g)).withSplit g.core i.split
       (i.world.toNat ≠ w ∨ v.takesBack g.core i = false ∨ v.fixedBases g.core i.split i.teams = none →
         exec (.swapin a) s = raiseCohort s g (.plain .swapState)) ∧
       ∀ bases, i.world.toNat = w → v.takesBack g.core i = true → v.fixedBases g.core i.split i.teams = some bases →
         ∃ u, exec (.swapin a) s = .next u ∧ (∀ j ∈ u.images, j.core ≠ g.core) ∧
           u.groups.length = s.groups.length + i.groups.length ∧
           ∀ h ∈ i.groups, ∃ h' ∈ u.groups, h'.core = h.core ∧ h'.team = h.team ∧ h'.gid = h.gid ∧ h'.s = h.s ∧ h'.m = h.m ∧
             h'.frames = h.frames ∧ h'.fzS = h.fzS ∧ h'.fzF = h.fzF ∧
             h'.threads.map (fun t => (t.lane, t.pc, t.v, t.h, t.srg, t.tph)) =
               h.threads.map fun t => (t.lane, t.pc, t.v, t.h, t.srg, t.tph))) ∧
    (s.rdy = true → s.slog = [] → (g.priv = .f → s.busy = []) →
      let asid : BitVec 13 := x.extractLsb' 48 13
      let w := if bits x 63 62 = 2 then bits x 5 0 else s.asidWorld asid.toNat
      let good : Prop := (if bits x 63 62 = 2 then bits x 61 6 = 0 else bits x 47 44 = 0) ∧
        (g.priv ≠ .f → bits x 63 62 ≠ 3 ∧ w = g.world.toNat)
      let entry (t : Tlb) : Bool := match bits x 63 62 with
        | 0 => t.world.toNat == w && (t.asid.isNone || (t.asid == some asid && t.sup == bitAt x 61 &&
            decide (t.vpn ≤ bits x 43 0) && decide (bits x 43 0 < t.vpn + t.pages)))
        | 1 => t.world.toNat == w && t.asid == some asid
        | 2 => t.world.toNat == w
        | _ => true
      let within (c : Nat) : Bool := if sc.toNat = 3 then c == g.core else if sc.toNat = 5 then s.dieOf c == s.dieOf g.core else true
      (¬good → exec (.tlbInv sc a) s = raiseCohort s g (.plain .svcBad)) ∧
      (good → ∃ u g', exec (.tlbInv sc a) s = .next u ∧ After u g g' ∧ g' = movePast s g ∧ u.mem = s.mem ∧
        u.tlbs = s.tlbs.filter (fun t => !(within t.core && entry t)) ∧
        u.l1 = s.l1.filter (fun l => !(within l.core && (bits x 63 62 == 3 || l.world.toNat == w)))))) ∧
  (∀ (s : State) (core : Nat) (j : SwapJob), (s.swaps.find? fun k => k.core == core && !k.done) = some j → s.errs = [] →
    let gs := s.groups.filter fun h => h.core == core && h.priv == .u && h.world.toNat == j.world.toNat
    s.drained gs = true →
    ∃ u, exec (.swapoutDrainDone core) s = .next u ∧ u.groups = s.groups.filter (fun h => !gs.contains h) ∧
      (j.slot ≠ 512 → { j with done := true } ∈ u.swaps) ∧
      (∀ l ∈ u.l1, ¬(l.core = core ∧ l.world = j.world)) ∧
      ∃ i ∈ u.images, i.core = core ∧ i.world = j.world ∧ i.saverF = j.byF ∧ i.size = j.size ∧ i.groups = gs ∧ i.split = (s.core core).split ∧
        i.tsave = s.time.toNat ∧ (∀ t ∈ i.teams, t ∉ u.teams) ∧
        (Memory.wf s.mem = true → (List.range 64).map (fun k => memGet u.mem (s.shadowKey core + k)) = toBytes i.header 64) ∧
        (∀ t ∈ s.teams, (∃ h ∈ gs, h.team = t.num) → t ∈ i.teams ∧ (core < 4096 → t.base + t.size ≤ 2 ^ 20 →
          ∀ o, o < t.size → u.readKey (spadKey core (t.base + o)) = 0 ∧
            (Memory.wf s.mem = true → memGet i.spads (spadKey core (t.base + o)) = s.readKey (spadKey core (t.base + o)))))) ∧
  (∀ (s : State) (g : Group) (d a : Sel) (word : Thread → DWord), Issuer s g → g.priv ≠ .u → s.rdy = true →
    g.nregOk [(d, 2), (a, 2)] = true → (g.threads.map (·.lane)).Nodup → (∀ t ∈ g.threads, t.lane < 64) →
    let run := g.inMask s.cur.lanes
    let addr (t : Thread) : Val := vsource s.tick g t true a
    (∀ t ∈ run, (addr t).wait = [] ∧ (addr t).poison = false) →
    (∀ t ∈ run,
      let p := g.poster t.lane
      let off := bits (addr t).val 55 0
      let win := bits (addr t).val 63 56
      let stack := g.stkBase.toNat * 4096 + t.lane * (1024 * 2 ^ g.stkSzc.toNat) + off
      let page (sup : Bool) (vpn : Nat) : Prop :=
        (∃ c, s.translate p sup vpn .load = .fault c ∧ word t = BitVec.ofNat 64 (c.code * 2 ^ 56)) ∨
        ∃ ppn e, s.translate p sup vpn .load = .page ppn ∧ s.tlbFor p sup vpn = some e ∧
          word t = BitVec.ofNat 64 (e.ppn * 4096 + e.sz * 1024 + (s.frameCls (ppn / 1024)).code * 256 + e.u.toNat * 128 +
            e.x.toNat * 64 + e.w.toNat * 32 + e.r.toNat * 16)
      if win = 0 then page false (off / 4096)
      else if win = 1 ∧ off < 2 ^ 56 - 2 ^ 24 then page true (off / 4096)
      else if win = 0xF4 ∧ off < 1024 * 2 ^ g.stkSzc.toNat ∧ stack < 2 ^ 56 then page false (stack / 4096)
      else if win ∈ [1, 0xF0, 0xF1, 0xF2, 0xFE] then word t = BitVec.ofNat 64 (0xFF * 2 ^ 56)
      else word t = BitVec.ofNat 64 (5 * 2 ^ 56)) →
    ∃ u g', exec (.tlbProbe d a) s = .next u ∧ After u g g' ∧ u.mem = s.mem ∧ ∀ t ∈ run, ∃ t' ∈ g'.threads, t'.lane = t.lane ∧
      WroteLane s t t' .w64 d { val := (word t).setWidth 128, taint := (addr t).taint, poison := false, wait := [] })

/-- R369 to R373, R375, R389, R391, R394: the TBL instructions. Each answers a status in sD and forgets the core's lines in L1:
`pot.get` reads an entry; `pot.set` frees a page or makes it read-only or writable again; `gesso` zeroes pages and assigns them, up
to the first that cannot be; `frame.cls` sets the class of a frame whose pages are all free; `key.new` draws and retires keys;
`hot.rd` copies a list; `varnish.begin` and `varnish.end` bind and end a snapshot; `clk.plan` answers once the clocks have been
set. The model's choices in this: that the lines of every world go (log entry 72); which bad operands of `pot.set` give which status,
and when GLZ is held against META (log entry 63); a bad argument of `key.new` before BUSY (log entry 64); whose pages a snapshot may
name, the open choice of its handle, and what a copy that is under way at its end reads (log entry 65); and, for S, that a page which
has come to belong to another world is left out of a list (log entry 94). -/
def Obligations.TableInstructions : Prop :=
  ∀ (s : State) (g : Group) (d a b : Sel) (x y : DWord), Issuer s g → s.slog = [] → (g.priv = .f → s.busy = []) → consumeS s.tick 100000 g a = some x →
    consumeS s.tick 100001 g b = some y → Rising s.pot → Rising s.dev →
    let done (u : State) (v : Nat) : Out := .next
      { u.putGroup (movePast s (g.setScalar d { val := BitVec.ofNat 64 v, taint := false, poison := false })) with
        l1 := u.l1.filter fun l => l.core != g.core }
    let page := bits x 39 12
    let old := s.potGet page
    let free : BitVec 16 := 0x1000
    (g.priv = .f → s.rdy = true →
      (bits x 63 40 ≠ 0 → exec (.potGet d a) s = done s (2 ^ 63 + 1)) ∧
      (bits x 63 40 = 0 → exec (.potGet d a) s =
        if s.slotExists page then done s old.toNat else done s (2 ^ 63 + 6)) ∧
      (let e : BitVec 16 := y.setWidth 16
       let dead (u : State) : Prop := u.potGet page = free ∧ (∀ t ∈ u.tlbs, ¬(t.ppn ≤ page ∧ page < t.ppn + t.pages)) ∧ u.groups = s.groups
       (bits x 63 40 ≠ 0 ∨ bits y 63 16 ≠ 0 ∨ bits y 11 6 ≠ 0 → exec (.potSet d a b) s = done s (2 ^ 63 + 1)) ∧
       (bits x 63 40 = 0 → bits y 63 16 = 0 → bits y 11 6 = 0 →
         (s.slotExists page = false → exec (.potSet d a b) s = done s (2 ^ 63 + 6)) ∧
         (s.slotExists page = true → s.snaps = [] →
           (potState e = 0 → potWorld e = 0 → potState old = 0 → exec (.potSet d a b) s = done s 0) ∧
           (potState e = 0 → potWorld e = 0 → potState old ∈ [1, 2, 4] →
             ∃ u, exec (.potSet d a b) s = done u 0 ∧ dead u ∧ u.glz (potWorld old) = (s.glz (potWorld old) - 1) % 2 ^ 32) ∧
           (potState e = 0 → potWorld e = 0 → potState old = 3 →
             if 8 * (s.metaPages (potWorld old) - 1) < s.glz (potWorld old) then exec (.potSet d a b) s = done s (2 ^ 63 + 4)
             else ∃ u, exec (.potSet d a b) s = done u 0 ∧ dead u ∧
               u.metaPages (potWorld old) = (s.metaPages (potWorld old) - 1) % 2 ^ 32) ∧
           (potWorld e = potWorld old → (potState old, potState e) ∈ [(1, 2), (2, 1)] →
             ∃ u, exec (.potSet d a b) s = done u 0 ∧ potState (u.potGet page) = potState e ∧ potWorld (u.potGet page) = potWorld old ∧
               u.mem = s.mem ∧ u.groups = s.groups) ∧
           (¬(potState e = 0 ∧ potWorld e = 0) → ¬(potWorld e = potWorld old ∧ (potState old, potState e) ∈ [(1, 2), (2, 1)]) →
             exec (.potSet d a b) s = done s (2 ^ 63 + 5))))) ∧
      (let n := bits x 63 54 + 1
       let w := bits y 5 0
       let st := bits y 10 8
       let bad : Prop := bits x 53 40 ≠ 0 ∨ bits x 11 0 ≠ 0 ∨ bits y 63 11 ≠ 0 ∨ bits y 7 6 ≠ 0 ∨ st = 0 ∨ 4 < st ∨ (st = 4 ∧ w ≠ 0) ∨
         page / 1024 ≠ (page + n - 1) / 1024
       let good (i : Nat) : Prop := s.slotExists (page + i) = true ∧ potState (s.potGet (page + i)) = 0 ∧
         (st ≠ 3 → s.glz w + i + 1 ≤ 8 * s.metaPages w)
       let took (u : State) (k : Nat) : Prop := u.groups = s.groups ∧
         ∀ i, i < k → u.potGet (page + i) = BitVec.ofNat 16 (st * 2 ^ 13 + w) ∧
           (s.en = true → st ≠ 3 → s.snaps = [] → s.potPage (page + i) = false →
             ∀ lane o, o < 4096 → u.readKeyFor lane (mainKey ((page + i) * 4096 + o)) = 0)
       (bad → exec (.gesso d a b) s = done s (2 ^ 63 + 1)) ∧
       (¬bad → s.kstate w ≠ 1 → exec (.gesso d a b) s = done s (2 ^ 63 + 3)) ∧
       (¬bad → s.kstate w = 1 → s.trainedPage page = false → exec (.gesso d a b) s = .next { s with stalled := true }) ∧
       (¬bad → s.kstate w = 1 → s.trainedPage page = true → s.glz w + n < 2 ^ 32 → s.metaPages w + n < 2 ^ 32 →
         ((∀ i, i < n → good i) → ∃ u, exec (.gesso d a b) s = done u (n * 2 ^ 16) ∧ took u n ∧
           (st ≠ 3 → u.glz w = s.glz w + n) ∧ (st = 3 → u.metaPages w = s.metaPages w + n)) ∧
         ∀ k e, k < n → (∀ i, i < k → good i) →
           (e = 6 ∧ s.slotExists (page + k) = false ∨
            e = 5 ∧ s.slotExists (page + k) = true ∧ potState (s.potGet (page + k)) ≠ 0 ∨
            e = 4 ∧ s.slotExists (page + k) = true ∧ potState (s.potGet (page + k)) = 0 ∧ st ≠ 3 ∧ 8 * s.metaPages w < s.glz w + k + 1) →
           ∃ u, exec (.gesso d a b) s = done u (2 ^ 63 + k * 2 ^ 16 + e) ∧ took u k)) ∧
      (let f := bits x 17 0
       (bits x 63 18 ≠ 0 ∨ 3 ≤ y.toNat → exec (.frameCls d a b) s = done s (2 ^ 63 + 1)) ∧
       (bits x 63 18 = 0 → y.toNat < 3 →
         ((∃ i, i < 576 ∧ potState (s.potGet (1024 * f + i)) ≠ 0) → exec (.frameCls d a b) s = done s (2 ^ 63 + 2)) ∧
         ((∀ i, i < 576 → potState (s.potGet (1024 * f + i)) = 0) → s.snaps = [] →
           ∃ u, exec (.frameCls d a b) s = done u 0 ∧ (u.frameCls f).code = y.toNat ∧ u.groups = s.groups ∧ u.mem = s.mem ∧
             (∀ h, h ≠ f → h < 2 ^ 18 → u.frameCls h = s.frameCls h) ∧ ∀ i, i < 576 → u.potGet (1024 * f + i) = free)))) ∧
    (g.priv = .f → bits x 61 6 = 0 → y.toNat % 32 = 0 →
      let w := bits x 5 0
      (bits x 63 62 = 0 → (if s.kstate w = 1 ∨ s.glz w ≠ 0 ∨ s.metaPages w ≠ 0 then exec (.keyNew d a b) s = done s (2 ^ 63 + 2)
        else ∃ u, exec (.keyNew d a b) s = done u 0 ∧ u.kstate w = 1 ∧ u.groups = s.groups ∧ u.mem = s.mem)) ∧
      (bits x 63 62 = 1 → s.kstate w ≠ 1 → exec (.keyNew d a b) s = done s (2 ^ 63 + 5)) ∧
      (bits x 63 62 = 1 → s.kstate w = 1 → ∃ u, exec (.keyNew d a b) s = .next u ∧ u.kstate w = 2 ∧ u.mem = s.mem ∧
        (∀ h ∈ u.groups, h.world.toNat = w → h.dead = true ∨ (h.core = g.core ∧ h.slot = g.slot)) ∧
        (∀ t ∈ u.tlbs, t.world.toNat ≠ w) ∧ ∀ n ∈ u.snaps, n.world.toNat ≠ w) ∧
      (bits x 63 62 = 2 → (s.domState w = 1 ∨ s.domState w = 2 → exec (.keyNew d a b) s = done s (2 ^ 63 + 2)) ∧
        ∀ bs, ¬(s.domState w = 1 ∨ s.domState w = 2) → ReadsAt s g y 32 bs →
          ∃ u g', exec (.keyNew d a b) s = .next u ∧ After u g g' ∧ u.mem = s.mem ∧
            bits (u.devGet (domOff w + 8)) 39 32 = (bits (s.devGet (domOff w + 8)) 39 32 + 1) % 256 ∧ u.devGet (domOff w + 40) = 0 ∧
            g' = movePast s (g.setScalar d { val := 0, taint := false, poison := false })) ∧
      (bits x 63 62 = 3 → exec (.keyNew d a b) s = done s (2 ^ 63 + 1))) ∧
    (g.priv ≠ .u → s.rdy = true →
      let w := if g.priv = .f then bits y 13 8 else g.world.toNat
      let l := s.hotList (bits y 3 0) w (g.priv == .f)
      let p := g.poster (leadOf s g).1
      let bad : Prop := bits y 63 14 ≠ 0 ∨ bits y 7 4 ≠ 0 ∨ (g.priv ≠ .f ∧ bits y 13 8 ≠ 0)
      (bad → exec (.hotRd d a b) s = done s (2 ^ 63 + 1)) ∧
      ((∀ c ∈ s.hot, ∀ q ∈ c.pub, q.2.length ≤ 64 ∧ (q.2.map (·.1)).Nodup) →
        l.length ≤ 64 ∧ (l.map (·.2)).Nodup ∧ (g.priv ≠ .f → ∀ e ∈ l, potState (s.potGet e.2) = 0 ∨ potWorld (s.potGet e.2) = w) ∧
        l.Pairwise (fun e f => f.1 < e.1 ∨ (f.1 = e.1 ∧ e.2 < f.2))) ∧
      (¬bad → l = [] → exec (.hotRd d a b) s = done s 0) ∧
      (¬bad → (∀ i, i < l.length → bits (x + BitVec.ofNat 64 (8 * i)) 63 56 ≤ 1) → ∀ u, storeHot s p x l = .ok u → u.groups = s.groups →
        exec (.hotRd d a b) s = done u l.length)) ∧
    (g.priv ≠ .u → ∀ n ∈ s.snaps, (s.snaps.find? fun m => m.handle == bits x 3 0 && m.world == g.world) = some n →
      bits x 63 4 = 0 → ∃ ks : List Nat,
        (∀ k, k ∈ ks ↔ ∃ p ∈ n.pages, ∃ l i, l < 32 ∧ p.1 * 32 + l ∉ n.kept ∧ i < 128 ∧ k = mainKey (p.2 * 4096 + 128 * l + i)) ∧
        exec (.varnishEnd d a) s = done { s with
          snaps := s.snaps.filter fun m => m.handle != n.handle
          ccmds := s.ccmds.map fun c => { c with dirty := ks ++ c.dirty } } 0) ∧
    (g.priv ≠ .u → bits x 63 4 ≠ 0 ∨ (∀ n ∈ s.snaps, n.handle ≠ bits x 3 0 ∨ n.world ≠ g.world) →
      exec (.varnishEnd d a) s = done s (2 ^ 63 + 1)) ∧
    (∀ db lb, g.priv ≠ .u → x.toNat % 64 = 0 → ReadsAt s g x 64 db →
      let q := word512 db
      let p := g.poster (leadOf s g).1
      let regions := regionPages lb (bits q 7 0 + 1)
      let n := regions.length
      let area : DWord := q.extractLsb' 64 64
      let bmap : DWord := q.extractLsb' 128 64
      let off := bmap.toNat % 4096
      let areas := (List.range n).map fun i => area + BitVec.ofNat 64 (4096 * i)
      let maps := (List.range ((off + 4 * n + 4095) / 4096)).map fun i => BitVec.ofNat 64 (bmap.toNat / 4096 * 4096 + 4096 * i)
      let answers (v : Nat) (P : State → Prop) : Prop := ∃ u g', exec (.varnishBegin d a) s = .next u ∧ After u g g' ∧ P u ∧
        g' = movePast s (g.setScalar d { val := BitVec.ofNat 64 v, taint := false, poison := false })
      let fails (v : Nat) : Prop := answers (2 ^ 63 + v) fun u => u.mem = s.mem ∧ u.snaps = s.snaps
      let wrong : Prop := bits q 511 192 ≠ 0 ∨ bits q 11 8 ≠ 0 ∨ bmap.toNat % 128 ≠ 0 ∨ area.toNat % 4096 ≠ 0
      ReadsAt s g (BitVec.ofNat 64 (bits q 63 12 * 4096)) (8 * (bits q 7 0 + 1)) lb →
      (s.kstate g.world.toNat ≠ 1 → fails 3) ∧
      (s.kstate g.world.toNat = 1 → wrong → fails 1) ∧
      (s.kstate g.world.toNat = 1 → ¬wrong → s.snapPages p regions = some (.error ()) → fails 1) ∧
      ∀ rs as ms, s.kstate g.world.toNat = 1 → ¬wrong → s.snapPages p regions = some (.ok rs) → s.snapPages p areas = some (.ok as) →
        s.snapPages p maps = some (.ok ms) →
        let new (h : Nat) : Snap := { handle := h, world := g.world, pages := rs.zip as, bits := ms, boff := off, kept := [], lost := [] }
        let classes : Bool := (as ++ ms).all fun r => s.frameCls (r / 1024) == .p
        let meets : Bool := anyMeet (new 0).stretches || s.snaps.any fun o => stretchesMeet o.stretches (new 0).stretches
        (classes = false → fails 1) ∧ (classes = true → meets = true → fails 5) ∧
        (classes = true → meets = false → (∀ h, h < 16 → ∃ o ∈ s.snaps, o.handle = h) → fails 2) ∧
        (classes = true → meets = false → (∃ h, h < 16 ∧ ∀ o ∈ s.snaps, o.handle ≠ h) →
          ∃ h, h < 16 ∧ (∀ o ∈ s.snaps, o.handle ≠ h) ∧ answers h fun u => new h ∈ u.snaps ∧
            (s.snaps = [] → s.errs = [] → Memory.wf s.mem = true → ∀ i, i < 4 * n →
              let k := mainKey (ms.getD ((off + i) / 4096) 0 * 4096 + (off + i) % 4096)
              Plainly s k → ∀ lane, u.readKeyFor lane k = 0))) ∧
    (g.priv = .f → s.isHalted g.core = false →
      (∀ q : ClkPlan, s.plan = some q → q.core = g.core → q.slot = g.slot → q.lanes = s.cur.lanes → q.done = true →
        exec (.clkPlan d) s = done { s with plan := none } (q.st.toNat + q.m * 256)) ∧
      (s.plan = none → 16 < bits (s.devGet (dev3 + 0x8100)) 4 0 ∨ (∃ c ∈ s.bands, c.2 < c.1) →
        exec (.clkPlan d) s = done s (2 ^ 63 + 1)) ∧
      (s.plan = none → bits (s.devGet (dev3 + 0x8100)) 4 0 ≤ 16 → (∀ c ∈ s.bands, c.1 ≤ c.2) →
        (planSearch s.bands = none → exec (.clkPlan d) s = done s (2 ^ 63 + 5)) ∧
        ∀ (st : Int) (m : Nat), planSearch s.bands = some (st, m) →
          let q : ClkPlan := ⟨g.core, g.slot, s.cur.lanes, BitVec.ofInt 5 st, m, bits (s.devGet (dev3 + 0x8100)) 4 0 != 0, false⟩
          exec (.clkPlan d) s = .next { s with plan := some q } ∧
          -8 ≤ st ∧ st ≤ 8 ∧ m < 3 ∧
          ∀ c ∈ s.bands, ∀ f ∈ planClocks st m, ∀ n, 1 ≤ n → n ≤ 8 → ¬(4 * c.1 ≤ n * f ∧ n * f ≤ 4 * c.2)))

/-- R411, R412, R415 to R417: the CNT instructions. A counter's configuration and value are read, set and cleared by those that may
use it; budgets are set and read; LIMIT and the timer's compare value are set. sD receives the old value or word, and a rejected
operand answers 2^63 + 1, or 2^63 + 5 where there is no started launch. The model's choice: that S reading a counter of another
world raises PRIV (log entry 67), and that a launch of another world is rejected before one that has not started, and EXH cleared
only by a nonzero REM (log entry 68). -/
def Obligations.CounterInstructions : Prop :=
  ∀ (s : State) (g : Group) (d a b : Sel) (x y : DWord), Issuer s g → consumeS s.tick 100000 g a = some x →
    consumeS s.tick 100001 g b = some y → (s.core g.core).cnt.length = 8 → (s.core g.core).cnsel.length = 8 →
    Rising s.ucnt → Rising s.budgets → Rising (s.core g.core).tcmp →
    let answers (i : Instr) (v : DWord) (P : State → Prop) : Prop :=
      ∃ u g', exec i s = .next u ∧ After u g g' ∧ g' = movePast s (g.setScalar d { val := v, taint := false, poison := false }) ∧
        u.mem = s.mem ∧ P u
    let cfg := s.cntConfig g.core x
    let val := s.cntValue g.core x
    let kept (u : State) : Prop := ∀ z : DWord, cntSelOk z = true → z ≠ x →
      u.cntConfig g.core z = s.cntConfig g.core z ∧ u.cntValue g.core z = s.cntValue g.core z
    let mine : Prop := bits cfg 21 16 = g.world.toNat
    (cntSelOk x = false → (g.priv ≠ .u → answers (.cntCfg d a b) (BitVec.ofNat 64 (2 ^ 63 + 1)) (fun u => u.ucnt = s.ucnt) ∧
        answers (.cntClr d a) (BitVec.ofNat 64 (2 ^ 63 + 1)) (fun u => u.ucnt = s.ucnt)) ∧
      answers (.cntRd d a) (BitVec.ofNat 64 (2 ^ 63 + 1)) (fun u => u.ucnt = s.ucnt)) ∧
    (cntSelOk x = true →
      (g.priv = .f ∨ (g.priv = .s ∧ mine) →
        (let m : DWord := if g.priv = .f then (if bits x 15 12 = 0 then 0x3F073F else 0xFFFF073F) else 0x73F
         answers (.cntCfg d a b) cfg fun u => u.cntConfig g.core x = (cfg &&& ~~~m) ||| (y &&& m) ∧ u.cntValue g.core x = val ∧ kept u) ∧
        answers (.cntClr d a) val fun u => u.cntValue g.core x = 0 ∧ u.cntConfig g.core x = cfg ∧ kept u) ∧
      (g.priv = .f ∨ (g.priv = .s ∧ mine) ∨ (g.priv = .u ∧ mine ∧ bitAt cfg 10 = true) →
        exec (.cntRd d a) s = scalarTo s g d val []) ∧
      (g.priv = .s → ¬mine → ∀ i ∈ [Instr.cntCfg d a b, .cntRd d a, .cntClr d a], exec i s = raiseCohort s g (.plain .priv)) ∧
      (g.priv = .u → ¬(mine ∧ bitAt cfg 10 = true) → exec (.cntRd d a) s = raiseCohort s g (.plain .priv))) ∧
    (g.priv ≠ .u →
      let rem : Word := y.setWidth 32
      let warn : Word := y.extractLsb' 32 32
      let wrong : Prop := bits x 62 54 ≠ 0 ∨ bits x 47 32 ≠ 0
      let fails (v : Nat) : Prop := answers (.ebudSet d a b) (BitVec.ofNat 64 (2 ^ 63 + v)) fun u =>
        u.launches = s.launches ∧ u.budgets = s.budgets
      let failsRd (v : Nat) : Prop := exec (.ebudRd d a) s = scalarTo s g d (BitVec.ofNat 64 (2 ^ 63 + v)) []
      (wrong → fails 1 ∧ failsRd 1) ∧
      (¬wrong → bitAt x 63 = true →
        let w := bits x 5 0
        let ill : Prop := bits x 53 48 ≠ 0 ∨ bits x 31 6 ≠ 0
        (ill ∨ g.priv ≠ .f → fails 1) ∧ (ill ∨ (g.priv ≠ .f ∧ w ≠ g.world.toNat) → failsRd 1) ∧
        (¬ill → g.priv = .f → answers (.ebudSet d a b) ((s.budget w).1.setWidth 64) fun u =>
          u.budget w = (rem, warn, (s.budget w).2.2 && rem == 0#32) ∧ u.launches = s.launches ∧
          ∀ v, v ≠ w → u.budget v = s.budget v) ∧
        (¬ill → g.priv = .f ∨ w = g.world.toNat → exec (.ebudRd d a) s =
          scalarTo s g d (0#1 ++ ((s.budget w).2.1.setWidth 31) ++ (s.budget w).1) [])) ∧
      (¬wrong → bitAt x 63 = false →
        (s.launch? (bits x 53 48) (bits x 31 0) = none → fails 5 ∧ failsRd 5) ∧
        ∀ l, s.launch? (bits x 53 48) (bits x 31 0) = some l →
          (g.priv ≠ .f → lrWorld l.image ≠ g.world.toNat → fails 1 ∧ failsRd 1) ∧
          (g.priv = .f ∨ lrWorld l.image = g.world.toNat →
            (l.started = none → fails 5 ∧ failsRd 5) ∧
            (l.started.isSome = true →
              answers (.ebudSet d a b) (l.rem.setWidth 64) (fun u => u.budgets = s.budgets ∧
                u.launch? l.lq l.lseq = some { l with rem := rem, warn := warn, exh := l.exh && rem == 0#32 }) ∧
              exec (.ebudRd d a) s = scalarTo s g d (0#1 ++ (l.warn.setWidth 31) ++ l.rem) [])))) ∧
    (g.priv = .f → s.pools.length = 2 →
      (1 < x.toNat → exec (.tokLim d a b) s = scalarTo s g d (BitVec.ofNat 64 (2 ^ 63 + 1)) []) ∧
      (x.toNat ≤ 1 →
        let pool := s.pools.getD x.toNat (0, 0)
        let waiting := (s.tokq.filter fun r => r.die == x.toNat).length
        let cores := ((List.range 144).filter fun i => !s.unused.contains (144 * x.toNat + i)).length
        answers (.tokLim d a b) (BitVec.ofNat 64 (waiting % 256 * 2 ^ 32 + pool.2 % 2 ^ 16 * 2 ^ 16 + pool.1 % 2 ^ 16)) fun u =>
          u.pools.getD x.toNat (0, 0) = (min y.toNat (4 * cores), pool.2) ∧
          u.pools.getD (1 - x.toNat) (0, 0) = s.pools.getD (1 - x.toNat) (0, 0))) ∧
    (g.priv ≠ .u →
      let ill : Prop := bits y 63 6 ≠ 0 ∨ (g.priv ≠ .f ∧ bits y 5 0 ≠ g.world.toNat)
      (ill → exec (.tcmpSet d a b) s = scalarTo s g d (BitVec.ofNat 64 (2 ^ 63 + 1)) []) ∧
      (¬ill → answers (.tcmpSet d a b) 0 fun u => u.tcmp g.core (bits y 5 0) = x ∧
        ∀ w, w ≠ bits y 5 0 → u.tcmp g.core w = s.tcmp g.core w))

/-- R27, R103, R206, R207, R374, R394, R414: what the device does of itself to tables, memory and registers. A soft error strikes
only as its class's check can make it: it waits for the read that meets it, sets poison, or alters the value; one in the DRAM cache
layer costs the owner alone, and nothing where the granule is poisoned already; patrol charges what it meets to the owner, but for
what only a glaze check finds; a hotness interval ends and its list is published; the clocks are set. The model's choice: where an
error waits and what meets it (log entries 35 and 91), that a missed error in a shared base makes the word any value in each lane
of its block (log entry 36), and that an error in the cache layer costs at once (log entry 95). -/
def Obligations.ErrorsAndIntervals : Prop :=
  (∀ (s : State) (k : Nat) (e : ErrGrade) (v : DWord), isFlash k = false → (isMain k = true → s.unsettled (pageOf k) = false) →
    (memGrade (s.clsOf k) e = false → exec (.softError (.byte k) e v) s = .next { s with stalled := true }) ∧
    (memGrade (s.clsOf k) e = true →
      ∃ u, exec (.softError (.byte k) e v) s = .next u ∧ u.groups = s.groups ∧
        (e ≠ .missed → u.mem = s.mem ∧ { place := .byte k, grade := e } ∈ u.errs) ∧
        (e = .missed → (isMain k = true → { place := .byte k, grade := e } ∈ u.errs) ∧
          (Memory.wf s.mem = true → ∀ j, memGet u.mem j = if j = k then memGet s.mem k ^^^ v.setWidth 8 else memGet s.mem j)))) ∧
  (∀ (s : State) (c n l r : Nat) (h hi : Bool) (e : ErrGrade) (v : DWord) (g : Group) (t : Thread),
    s.group? c n = some g → g.thread? l = some t → l < 64 → (g.threads.map (·.lane)).Nodup →
    let p : ErrPlace := if h then .hist c n l r hi else .reg c n l r
    let half : DWord := if hi then v <<< 32 else v &&& 0xFFFFFFFF#64
    (regGrade g.kcls e = false → exec (.softError p e v) s = .next { s with stalled := true }) ∧
    (regGrade g.kcls e = true → ∃ u g' t', exec (.softError p e v) s = .next u ∧ After u g g' ∧ t' ∈ g'.threads ∧ t'.lane = l ∧
      u.mem = s.mem ∧ (e ≠ .missed → { place := p, grade := e } ∈ u.errs) ∧
      (∀ x ∈ g.threads, x.lane ≠ l → x ∈ g'.threads) ∧
      (e = .corrected → t' = t) ∧
      (e = .detected → t' = if h then { t with h := t.h.modify r fun q => { q with poison := true } }
        else { t with v := t.v.modify r fun q => { q with poison := true } }) ∧
      (e = .missed → t' = if h then { t with h := t.h.modify r fun q => { q with val := q.val ^^^ half } }
        else { t with v := t.v.modify r fun q => { q with val := q.val ^^^ v.setWidth 32 } }))) ∧
  (∀ (s : State) (c n r : Nat) (m hi : Bool) (e : ErrGrade) (v : DWord) (g : Group),
    s.group? c n = some g → (m = true → 0 < r) → r < (if m then 8 else 32) → regGrade g.kcls e = true →
    let p : ErrPlace := if m then .mask c n r hi else .scal c n r hi
    let half : DWord := if hi then v <<< 32 else v &&& 0xFFFFFFFF#64
    ∃ u g', exec (.softError p e v) s = .next u ∧ After u g g' ∧ u.mem = s.mem ∧ g'.threads = g.threads ∧
      (e ≠ .missed → { place := p, grade := e } ∈ u.errs) ∧ (e = .corrected → g' = g) ∧
      (e = .detected → if m then g'.m = g.m.modify r fun q => { q with poison := true }
        else g'.s = g.s.modify r fun q => { q with poison := true }) ∧
      (e = .missed → if m then g'.m = g.m.modify r fun q => { q with val := q.val ^^^ half }
        else g'.s = g.s.modify r fun q => { q with val := q.val ^^^ half })) ∧
  (∀ (s : State) (c n b r : Nat) (h hi : Bool) (e : ErrGrade) (v : DWord) (g : Group),
    s.group? c n = some g → (∀ t ∈ g.threads, t.lane < 64) → b < (g.gw + 15) / 16 → regGrade g.kcls e = true →
    let p : ErrPlace := if h then .hbase c n b r hi else .base c n b r
    ∃ u g', exec (.softError p e v) s = .next u ∧ After u g g' ∧ u.mem = s.mem ∧
      (e ≠ .missed → { place := p, grade := e } ∈ u.errs) ∧
      (e = .corrected → g' = g) ∧
      ∀ t ∈ g.threads, (t.lane / 16 ≠ b → t ∈ g'.threads) ∧
        (t.lane / 16 = b → e = .detected → (if h then { t with h := t.h.modify r fun q => { q with poison := true } }
          else { t with v := t.v.modify r fun q => { q with poison := true } }) ∈ g'.threads) ∧
        (t.lane / 16 = b → e = .missed → ∃ w : DWord,
          (if h then { t with h := t.h.modify r fun q => { q with
              val := if hi then (w <<< 32) ||| (q.val &&& 0xFFFFFFFF#64) else (q.val &&& ~~~0xFFFFFFFF#64) ||| (w &&& 0xFFFFFFFF#64) } }
           else { t with v := t.v.modify r fun q => { q with val := w.setWidth 32 } }) ∈ g'.threads)) ∧
  (∀ (s : State) (k : Nat) (dirty : Bool) (e : ErrGrade) (v : DWord), isMain k = true → s.unsettled (pageOf k) = false →
    Rising s.budgets →
    let w := potWorld (s.potGet (pageOf k))
    let known : Prop := s.clsOf k ≠ .n ∧ s.isPoisoned k = true
    let cost := if e = .detected ∧ dirty = true then 16 else 1
    (e = .missed → exec (.softError (.layer k dirty) e v) s = .next (s.hitByte k .missed v)) ∧
    (e = .detected → dirty = true → known → exec (.softError (.layer k dirty) e v) s = .next s) ∧
    (e ≠ .missed → ¬(e = .detected ∧ dirty = true ∧ known) →
     ∃ u, exec (.softError (.layer k dirty) e v) s = .next u ∧ u.errs = s.errs ∧ u.launches = s.launches ∧
      (u.budget w).1.toNat = (s.budget w).1.toNat - cost ∧
      (e = .corrected ∨ (e = .detected ∧ dirty = false) → u.mem = s.mem ∧ u.poisoned = s.poisoned) ∧
      (e = .detected → dirty = true → s.clsOf k ≠ .n → u.mem = s.mem ∧ k / 128 * 2 ∈ u.poisoned ∧ k / 128 * 2 + 1 ∈ u.poisoned))) ∧
  (∀ (s : State) (line : Nat),
    let k := 128 * line
    isMain k = true → s.frameCls (pageOf k / 1024) = .p → s.ucnt = [] → s.snaps = [] →
    (s.errs = [] → exec (.patrol line) s = .next s) ∧
    (∀ (o : Nat) (e : ErrGrade), o < 128 → s.errs = [{ place := .byte (k + o), grade := e }] →
      (e = .missed → exec (.patrol line) s = .next s) ∧
      (e ≠ .missed → s.unsettled (pageOf k) = false → s.sealedPage (pageOf k) = false → s.isPoisoned (k + o) = true →
        exec (.patrol line) s = .next { s with errs := [] }) ∧
      (e ≠ .missed → s.unsettled (pageOf k) = false → s.sealedPage (pageOf k) = false → s.isPoisoned (k + o) = false →
        s.launch? 64 0 = none → Rising s.budgets →
        let w := potWorld (s.potGet (pageOf k))
        let cost := if e = .corrected then 1 else 16
        ∃ u, exec (.patrol line) s = .next u ∧ u.errs = [] ∧ u.mem = s.mem ∧
          (u.budget w).1.toNat = (s.budget w).1.toNat - cost ∧
          (e = .detected → k / 64 ∈ u.poisoned ∧ k / 64 + 1 ∈ u.poisoned)))) ∧
  (∀ (s : State) (n : Nat), n < 16 → s.phase = .running →
    let c := s.hotCtl n
    let due : Prop := c.last + 64000 * 2 ^ bits (s.devGet (dev3 + 0x800 + 8 * n)) 3 0 ≤ s.time.toNat
    (due → exec (.hotnessIntervalEnd n) s = .next { s with
      hot := { c with sketch := [], cand := [], pub := c.cand, last := s.time.toNat } :: s.hot.filter fun h => h.n != c.n }) ∧
    (¬due → exec (.hotnessIntervalEnd n) s = .next { s with stalled := true })) ∧
  (∀ (s : State) (q : ClkPlan), s.plan = some q → q.done = false → q.m < 3 → Rising s.dev →
    let p := s.devGet (dev3 + 0x8100)
    ∃ u, exec .clockRelock s = .next u ∧ u.plan = (if q.slot = 512 then none else some { q with done := true }) ∧ u.mem = s.mem ∧
      let r := u.devGet (dev3 + 0x8100)
      r.extractLsb' 8 5 = q.st ∧ bits r 17 16 = q.m ∧ bitAt r 24 = !q.used ∧ bits r 4 0 = bits p 4 0)

/-- R354, R355, R357, R366, R367, R385, R422, R423, R430, R432: the device window's registers and what their stores start, the boot
flash, and the fills of instruction cache and TLB. What reads stacks in training waits for them. The model's choice: that the store
setting EN leaves world 0's GLZ at 144·512 + 64 (log entry 63), that the ASID table's pages hold any value then, and that a store to
the flash takes effect at once and its sectors are busy until the flash has finished (log entry 24). -/
def Obligations.DeviceRegistersAndFills : Prop :=
  (∀ (s : State) (v : DWord), Rising s.dev →
    let f := bits v 57 40
    let a := bits v 39 18
    (s.en = true → exec (.tctlWrite v) s = .next s) ∧
    (s.en = false → bitAt v 63 = false → ∃ u, exec (.tctlWrite v) s = .next u ∧ u.en = false ∧ u.rdy = false ∧
      bits u.tctl 57 40 = f ∧ bits u.tctl 39 18 = a ∧ u.mem = s.mem) ∧
    (s.en = false → bitAt v 63 = true →
      (s.kstate 0 ≠ 1 ∨ (∃ i, i < 144 ∧ (2 ^ 18 ≤ f + i ∨ s.frameCls (f + i) ≠ .p)) → exec (.tctlWrite v) s = .next s) ∧
      (s.kstate 0 = 1 → (∀ i, i < 144 → f + i < 2 ^ 18 ∧ s.frameCls (f + i) = .p) → ∃ u, exec (.tctlWrite v) s = .next u ∧ u.en = true ∧ u.rdy = false ∧
        bits u.tctl 57 40 = f ∧ bits u.tctl 39 18 = a ∧ u.mem = s.mem ∧ u.copy = none ∧ u.glz 0 = 144 * 512 + 64 ∧
        (∀ p, p ∈ u.raw ↔ 64 * a ≤ p ∧ p < 64 * a + 64) ∧
        ∀ p, u.potGet p = if (f ≤ p / 1024 ∧ p / 1024 < f + 144 ∧ p % 1024 < 512) ∨ (64 * a ≤ p ∧ p < 64 * a + 64) then 0x8000
          else 0x1000)) ∧
    (s.en = true → s.rdy = false → (∀ i, i < 144 → s.trainedPage (1024 * (bits s.tctl 57 40 + i)) = true) → ∃ u, exec .potInitialisationDone s = .next u ∧ u.rdy = true ∧ u.en = true ∧
      bits u.tctl 57 40 = bits s.tctl 57 40 ∧ bits u.tctl 39 18 = bits s.tctl 39 18 ∧ u.mem = s.mem ∧ u.pot = s.pot)) ∧
  (∀ (s : State) (w : Nat) (v : DWord), Rising s.dev → Rising s.resv → w < 64 →
    let m : DWord := 0xFFF000
    let pairs (x : Nat) : DWord := s.devGet (worldOff x) &&& m
    let clash : Prop := ∃ x, x < 64 ∧ x ≠ w ∧ ((pairs x ||| (mapGet 0 s.resv x &&& m)) &&& v) ≠ 0
    (clash → exec (.worldTableReserveWrite w v) s = .next s) ∧
    (¬clash → (pairs w &&& ~~~v) ≠ 0 → ∃ u, exec (.worldTableReserveWrite w v) s = .next u ∧ u.devGet (worldOff w) = s.devGet (worldOff w) ∧
      mapGet 0 u.resv w &&& m = v &&& m ∧ mapGet 0 u.resv w ≠ 0) ∧
    (¬clash → (pairs w &&& ~~~v) = 0 → ∃ u, exec (.worldTableReserveWrite w v) s = .next u ∧
      u.devGet (worldOff w) &&& m = v &&& m ∧ u.devGet (worldOff w) &&& ~~~m = s.devGet (worldOff w) &&& ~~~m ∧ mapGet 0 u.resv w = 0) ∧
    (mapGet 0 s.resv w ≠ 0 → ∃ u, exec (.wayGlazingDone w) s = .next u ∧
      u.devGet (worldOff w) &&& m = mapGet 0 s.resv w &&& m ∧ u.devGet (worldOff w) &&& ~~~m = s.devGet (worldOff w) &&& ~~~m ∧
      mapGet 0 u.resv w = 0 ∧ u.kstate w = s.kstate w)) ∧
  (∀ (s : State) (site seg : Nat) (v : Word), Rising s.dev → site < 288 → seg < 128 →
    let e := s.vat site seg
    let n := s.shadowLen site
    let shd := bitAt v 29
    let ignored : Prop := bitAt e 30 = true ∨ bits v 9 8 = 3 ∨ (shd = true ∧ (bits v 5 0 ≠ 0 ∨ bitAt v 11 = true ∨ bits v 9 8 ≠ 0)) ∨
      (shd = true ∧ bitAt e 29 = false ∧ (seg + n ≠ 127 ∨ 32 ≤ n)) ∨
      (shd = false ∧ bitAt e 29 = true ∧ (seg + n ≠ 128 ∨ s.savedAt site = true))
    let zero : Prop := (bitAt v 31 = true ∧ (bitAt e 31 = false ∨ bits v 5 0 ≠ bits e 5 0 ∨ bits v 9 8 ≠ bits e 9 8)) ∨
      (shd = true ∧ bitAt e 29 = false)
    let lo := vaultKey (vaultOff site (seg * 65536))
    (ignored → exec (.vaultAllocationWrite site seg v) s = .next s) ∧
    (¬ignored → ∃ u, exec (.vaultAllocationWrite site seg v) s = .next u ∧ u.mem = s.mem ∧
      bits (u.vat site seg) 5 0 = bits v 5 0 ∧ bits (u.vat site seg) 9 8 = bits v 9 8 ∧ bitAt (u.vat site seg) 11 = bitAt v 11 ∧
      bitAt (u.vat site seg) 29 = shd ∧ bitAt (u.vat site seg) 31 = bitAt v 31 ∧ (bitAt (u.vat site seg) 30 = true ↔ zero) ∧
      ∀ x y, x < 288 → y < 128 → (x, y) ≠ (site, seg) → u.vat x y = s.vat x y) ∧
    (bitAt e 30 = true → ∃ u, exec (.segmentZeroingDone site seg) s = .next u ∧ u.vat site seg = e &&& 0xBFFFFFFF ∧
      (∀ o, o < 65536 → u.readKey (lo + o) = 0 ∧ u.isPoisoned (lo + o) = false) ∧
      (Memory.wf s.mem = true → ∀ k, isVault k = true → (k < lo ∨ lo + 65536 ≤ k) → u.readKey k = s.readKey k))) ∧
  (∀ (s : State) (o : Nat) (bs : List Byte), Memory.wf s.mem = true →
    (∃ u, exec (.flashProgram o bs) s = .next u ∧
      (∀ i, i < bs.length → ∃ p ∈ u.busy, p.1 ≤ o + i ∧ o + i < p.1 + p.2 ∧ p.1 / 65536 = (o + i) / 65536) ∧
      ∀ k, memGet u.mem k = if flashKey o ≤ k ∧ k < flashKey o + bs.length then memGet s.mem k &&& bs.getD (k - flashKey o) 0
        else memGet s.mem k) ∧
    (∃ u, exec (.sectorErase o) s = .next u ∧ (o / 65536 * 65536, 65536) ∈ u.busy ∧
      (∀ f ∈ u.flaky, f.1 / 65536 ≠ o / 65536 ∧ f ∈ s.flaky) ∧
      ∀ k, memGet u.mem k = if flashKey (o / 65536 * 65536) ≤ k ∧ k < flashKey (o / 65536 * 65536) + 65536 ∧ isFlash k = true then 0xFF
        else if flashKey (o / 65536 * 65536) ≤ k ∧ k < flashKey (o / 65536 * 65536) + 65536 then 0 else memGet s.mem k) ∧
    ((∃ b ∈ s.busy, b.1 / 65536 = o / 65536) →
      exec (.flashOperationDone o) s = .next { s with busy := s.busy.filter fun b => b.1 / 65536 != o / 65536 })) ∧
  (∀ (s : State) (o n : Nat) (v : DWord), Rising s.dev → n = 4 ∨ n = 8 →
    let b := o / 8 * 8
    let m := rwMask b &&& coverMask o n
    let x := (s.devGet b &&& ~~~m) ||| ((v <<< (8 * (o % 8))) &&& m)
    ∃ u, exec (.deviceRegisterWrite o n v) s = .next u ∧ u.mem = s.mem ∧ u.groups = s.groups ∧
      (∀ c, c / 8 ≠ o / 8 → u.devGet c = s.devGet c) ∧
      (¬(dev3 + 0x800 ≤ b ∧ b < dev3 + 0x880 ∧ 8 < bits x 3 0) → u.devGet b = x) ∧
      (dev3 + 0x800 ≤ b ∧ b < dev3 + 0x880 ∧ 8 < bits x 3 0 → bits (u.devGet b) 3 0 = 8 ∧ u.devGet b >>> 4 = x >>> 4)) ∧
  (∀ (s : State) (k : Nat), s.phase = .running → k < 8 → k ∉ s.trained →
    exec (.stackTrainingDone k) s = .next { s with trained := k :: s.trained }) ∧
  (∀ (s : State) (core line : Nat), s.errs = [] → (∃ l ∈ s.icache, l.core = core ∧ l.line = line ∧ l.full = false) →
    exec (.icacheFill core line) s = .next { s with icache := s.icache.map fun l =>
      if l.core = core ∧ l.line = line ∧ l.full = false then
        { l with full := true, bytes := (List.range 128).map fun i => s.readKey (line * 128 + i) }
      else l }) ∧
  (∀ (s : State) (w : Walk), (s.walks.find? fun x => x.id == w.id && x.done.isNone) = some w → s.rdy = true → s.errs = [] →
    (s.walkWaits w = true → exec (.translationWalkDone w.id) s = .next { s with stalled := true }) ∧
    (s.walkWaits w = false →
    (∀ c, s.walk w = .error c → exec (.translationWalkDone w.id) s =
      .next { s with walks := s.walks.map fun x => if x.id = w.id then { x with done := some c } else x }) ∧
    (∀ t, s.walk w = .ok t → ∃ u, exec (.translationWalkDone w.id) s = .next u ∧ { t with quarter := none } ∈ u.tlbs ∧
      (∀ q, s.quarterOf w.by_ = some q → { t with quarter := some q } ∈ u.tlbs) ∧
      (∀ x ∈ u.tlbs, { x with quarter := none } = { t with quarter := none } ∨ x ∈ s.tlbs) ∧
      (∀ (c : Nat) (o : Option Nat), let own (x : Tlb) : Bool := x.core == c && x.quarter == o
        let size := if o.isSome then 64 else 4096
        (s.tlbs.filter own).length ≤ size → (u.tlbs.filter own).length ≤ size) ∧
      (∀ x ∈ s.tlbs, x.core ≠ w.core → x ∈ u.tlbs) ∧ u.walks = s.walks.filter (fun x => x.id != w.id) ∧ u.mem = s.mem ∧
      t.core = w.core ∧ t.world = w.world ∧ t.sup = w.sup ∧ t.pages ∈ [1, 16, 512] ∧ t.vpn % t.pages = 0 ∧ t.vpn ≤ w.vpn ∧
      w.vpn < t.vpn + t.pages ∧ t.permits w.kind w.by_.priv = true ∧
      ∀ i, i < t.pages → s.fillCheck w.world.toNat (t.ppn + i) w.kind.writes = none)))

/-- R343 to R350: what comes in from outside. A packet steered to a ring with room is written to its next slot with its
length and addresses, WIDX counts it, and an IRQ record is posted if asked for and none waits; one that does not fit is counted, or
held back under PFC until there is room or the pause budget has run out. Doorbell stores reach their SSD in order; an SSD's
accesses are made for its queue pair or its admin queue and change nothing where they are refused; a completion entry goes to its
queue. The model's choice: the numbering of ports, when PAUSED is written and what a bad header or ring comes to (log entry 53), the
order of doorbells and when a failing DBA is noticed (log entry 54), the way of the admin queue's accesses (log entry 93), and that
main memory counts as any world's while EN is 0 (log entry 104). -/
def Obligations.InputAndStorage : Prop :=
  (∀ (s : State) (k : RawPacket), s.errs = [] → s.snaps = [] → Memory.wf s.mem = true →
    let port := k.port % 8
    let die := port / 4
    let quiet (u : State) : Prop := u.mem = s.mem ∧ u.held = s.held ∧ u.groups = s.groups
    (k.good = false ∨ s.steer die k = none → ∃ u, exec (.ingestPacket k) s = .next u ∧ quiet u) ∧
    (∀ i, k.good = true → s.steer die k = some i →
      let f := s.flowRule die i
      (s.ringHdr (ruleRing f) = none → ∃ u, exec (.ingestPacket k) s = .next u ∧ quiet u) ∧
      ∀ r, s.ringHdr (ruleRing f) = some r → r.keys.Nodup → (∀ x ∈ r.keys, Plainly s x) →
        let logs := bits r.h 447 444
        let word (lo v : Nat) : Nat → Nat → Byte := setFor s.readKeyFor ((r.keys.drop (lo / 8)).take 4) (toBytes (v % 2 ^ 32) 4)
        let bump (u : State) (lo : Nat) : Prop := (∀ l j, u.readKeyFor l j = word lo (bits r.h (lo + 31) lo + 1) l j) ∧ u.held = s.held
        (r.bad = true → ∃ u, exec (.ingestPacket k) s = .next u ∧ bump u 640) ∧
        (r.bad = false → 2 ^ logs < k.data.length + 32 → ∃ u, exec (.ingestPacket k) s = .next u ∧ bump u 608) ∧
        (r.bad = false → k.data.length + 32 ≤ 2 ^ logs →
          (r.full = true ∨ s.heldFor die r.addr ≠ [] → bitAt r.h 463 = false ∨ s.pauseSpent r.addr = true →
            ∃ u, exec (.ingestPacket k) s = .next u ∧ bump u 576) ∧
          (r.full = true ∨ s.heldFor die r.addr ≠ [] → bitAt r.h 463 = true → s.pauseSpent r.addr = false →
            let inBuf := s.held.filter fun h => h.pkt.port % 8 == port && rulePrio (s.flowRule h.die h.rule) == rulePrio f
            if 262144 < (inBuf.map fun h => h.pkt.data.length).sum + k.data.length then
              ∃ u, exec (.ingestPacket k) s = .next u ∧ bump u 576
            else ∃ u h, exec (.ingestPacket k) s = .next u ∧ u.mem = s.mem ∧ u.held = s.held ++ [h] ∧ h.pkt = k ∧ h.ring = r.addr ∧
              u.xoff port (rulePrio f) = true) ∧
          (∀ ks, r.full = false → s.heldFor die r.addr = [] →
            ringKeys (r.h.extractLsb' 0 64 + BitVec.ofNat 64 (2 ^ logs * (bits r.h 511 480 % 2 ^ bits r.h 452 448))) (2 ^ logs) = some ks →
            let used := ks.take (32 + k.data.length)
            let entry := toBytes (bits r.h 511 480 + 1) 8 ++ toBytes k.data.length 4 ++ toBytes k.sport.toNat 2 ++ toBytes port 1 ++
              toBytes k.ipv6.toNat 1 ++ toBytes k.sip.toNat 16 ++ k.data
            (s.ownedBy (ruleWorld f) ks = false ∨ s.ownedBy (ruleWorld f) r.keys = false →
              ∃ u, exec (.ingestPacket k) s = .next u ∧ bump u 640) ∧
            (s.ownedBy (ruleWorld f) ks = true → s.ownedBy (ruleWorld f) r.keys = true → (used ++ r.keys).Nodup →
              (∀ x ∈ used, Plainly s x) →
              ∃ u, exec (.ingestPacket k) s = .next u ∧ u.held = s.held ∧
                (∀ l j, u.readKeyFor l j = setFor (word 480 (bits r.h 511 480 + 1)) used entry l j) ∧
                (bitAt r.h 462 = true → bits r.h 461 453 < Config.cores → s.ucnt = [] →
                  s.irqHeld (bits r.h 461 453) 0 r.addr = false →
                  ∀ q, q = deviceRec 0x06 0 (ruleWorld f) false [BitVec.ofNat 64 port, r.addr] →
                    (∃ e ∈ u.easel, e.core = bits r.h 461 453 ∧ e.live = true ∧ e.body = q) ∨ (bits r.h 461 453, q) ∈ u.pending)))))) ∧
  (∀ (s : State) (h : Held) (r : RingHdr), (s.held.find? fun x => x.id == h.id) = some h → (s.heldFor h.die h.ring).head? = some h →
    s.ringHdr h.ring = some r → r.full = false ∨ r.bad = true →
    ∃ u, exec (.ingestHeldWrite h.id) s = .next u ∧ u.held = s.held.filter (fun x => x.id != h.id) ∧
      ∀ ks, r.bad = false → s.errs = [] → s.snaps = [] → Memory.wf s.mem = true →
        ringKeys (r.h.extractLsb' 0 64 + BitVec.ofNat 64 (2 ^ bits r.h 447 444 * (bits r.h 511 480 % 2 ^ bits r.h 452 448)))
          (2 ^ bits r.h 447 444) = some ks →
        let used := ks.take (32 + h.pkt.data.length)
        let w := ruleWorld (s.flowRule h.die h.rule)
        s.ownedBy w ks = true → s.ownedBy w r.keys = true → (used ++ r.keys).Nodup → (∀ x ∈ used ++ r.keys, Plainly s x) →
        ∀ i b, used[i]? = some b → ∀ l, u.readKeyFor l b = (toBytes (bits r.h 511 480 + 1) 8 ++ toBytes h.pkt.data.length 4 ++
          toBytes h.pkt.sport.toNat 2 ++ toBytes (h.pkt.port % 8) 1 ++ toBytes h.pkt.ipv6.toNat 1 ++ toBytes h.pkt.sip.toNat 16 ++
          h.pkt.data).getD i (s.readKeyFor l b)) ∧
  (∀ (s : State) (die rule : Nat) (p : Pause) (r : RingHdr),
    let ring := ruleRing (s.flowRule die rule)
    s.pauseOf ring = some p → s.ringHdr ring = some r → p.on = true →
    1000 * bits r.h 479 464 ≤ p.used + (s.time.toNat - p.start) →
    ∃ u q, exec (.pauseBudgetExpiry die rule) s = .next u ∧ u.held = s.held.filter (fun h => h.ring != ring) ∧
      u.pauseOf ring = some q ∧ q.on = false ∧ q.spent = true ∧ q.claims = []) ∧
  (∀ (s : State) (port prio : Nat), (∃ p ∈ s.pauses, p.on = true ∧ (port, prio) ∈ p.claims) →
    ∃ u, exec (.xoffRefresh port prio) s = .next u ∧ u.mem = s.mem ∧ u.held = s.held ∧ u.pauses = s.pauses) ∧
  (∀ (s : State) (b : Bell), (s.bells.find? fun c => c.id == b.id) = some b →
    (s.bells.find? fun c => c.port == b.port && c.qid == b.qid) = some b →
    exec (.doorbellWrite b.id) s = .next { s with bells := s.bells.filter (fun c => c.id != b.id), rung := b :: s.rung }) ∧
  (∀ (s : State) (port qid : Nat) (a : DWord) (n : Nat) (data : List Byte) (en : BitVec 128) (slot : Nat) (wr : Bool),
    s.errs = [] → s.snaps = [] → Memory.wf s.mem = true →
    let e := s.dev512 (nvmeOff port qid)
    let valid : Prop := port < 4 ∧ 1 ≤ qid ∧ qid ≤ 64 ∧ bitAt e 258 = true
    let wrote (ks : List Nat) (bs : List Byte) (u : State) : Prop := ∀ l j, u.readKeyFor l j = setFor s.readKeyFor ks bs l j
    (¬valid → (port < 4 → qid ≠ 0) → exec (.ssdDataAccess port qid wr a n data) s = .next s) ∧
    (¬valid → exec (.nvmeCompletion port qid slot en) s = .next s) ∧
    (port < 4 →
      (∀ ks ls, s.adminSpan a n .load = .keys ks ls → exec (.ssdDataAccess port 0 false a n data) s = .next s) ∧
      (∀ i, s.adminSpan a (if wr then data.length else n) (if wr then .store else .load) = .fault i →
        exec (.ssdDataAccess port 0 wr a n data) s = .next s) ∧
      ∀ ks ls, s.adminSpan a data.length .store = .keys ks ls → ks.Nodup → ks.length = data.length → (∀ k ∈ ks, Plainly s k) →
        ∃ u, exec (.ssdDataAccess port 0 true a n data) s = .next u ∧ wrote ks data u ∧ u.easel = s.easel) ∧
    (valid → s.bellOk e = true →
      (∀ ks ls, s.nvmeSpan e a n .load = .keys ks ls →
        ∃ u, exec (.ssdDataAccess port qid false a n data) s = .next u ∧ u.mem = s.mem ∧ u.groups = s.groups ∧ u.easel = s.easel) ∧
      (∀ ks ls, s.nvmeSpan e a data.length .store = .keys ks ls → ks.Nodup → ks.length = data.length → (∀ k ∈ ks, Plainly s k) →
        ∃ u, exec (.ssdDataAccess port qid true a n data) s = .next u ∧ wrote ks data u ∧
          u.easel = s.easel) ∧
      (∀ i, s.nvmeSpan e a (if wr then data.length else n) (if wr then .store else .load) = .fault i → inQueues e a = false →
        exec (.ssdDataAccess port qid wr a n data) s = .next s) ∧
      (∀ ks ls, s.nvmeSpan e (e.extractLsb' 384 64 + BitVec.ofNat 64 (16 * (slot % (bits e 303 288 + 1)))) 16 .store = .keys ks ls →
        ks.Nodup → ks.length = 16 → (∀ k ∈ ks, Plainly s k) →
        ∃ u, exec (.nvmeCompletion port qid slot en) s = .next u ∧ wrote ks (toBytes en.toNat 16) u ∧
          (bitAt e 259 = true → bits e 268 260 < Config.cores → ∀ q, q = deviceRec 0x06 1 (bits e 274 269) false
            [BitVec.ofNat 64 port, BitVec.ofNat 64 qid] →
            (∃ x ∈ u.easel, x.core = bits e 268 260 ∧ x.live = true ∧ x.body.kind = 6 ∧ x.body.num = 1 ∧ x.body.a.getD 0 0 = q.a.getD 0 0 ∧
              bits (x.body.a.getD 1 0) 62 0 = qid) ∨
            ∃ y ∈ u.pending, y.1 = bits e 268 260 ∧ y.2.kind = 6 ∧ y.2.num = 1 ∧ y.2.a.getD 0 0 = q.a.getD 0 0 ∧
              y.2.a.getD 1 0 = q.a.getD 1 0))) ∧
    (valid → s.bellOk e = false → (wr = true ∨ wr = false) → Rising s.dev →
      ∃ u, exec (.ssdDataAccess port qid wr a n data) s = .next u ∧ bitAt (u.dev512 (nvmeOff port qid)) 258 = false ∧ u.mem = s.mem))

/-- R28, R420 to R425, R428: power and resets. Whatever the part was doing, a reset leaves it as `State.reset` says but for the flash,
and the ROM takes it to 280 running F groups at the image's entry or to the boot-failure state with the code of the first step that
failed; a part without power or tripped ignores RESET_N, and one that is too hot stops. Of what the flash was programming or erasing
then, any value is left. The model's choice: the algorithms and constants that the manual only names (log entry 16), the fields of
the header that it does not check (log entry 17), how power, RESET_N and THERMTRIP_N meet (log entry 21), and that the sites other
than 0 are judged after header and record (log entry 22). -/
def Obligations.PowerAndReset : Prop :=
  ∀ (s : State),
    (∃ u, exec .powerRemoval s = .next u ∧ u.phase = .off ∧ u.groups = [] ∧ u.time = 0 ∧ u.easel = [] ∧ u.dev = [] ∧
      (∀ f, f ∈ u.flaky ↔ f ∈ s.busy ∨ f ∈ s.flaky) ∧
      ∀ k, Memory.wf s.mem = true → memGet u.mem k = if isFlash k = false then 0
        else if ∃ f ∈ s.busy, flashKey f.1 ≤ k ∧ k < flashKey (f.1 + f.2) then 0xFF else memGet s.mem k) ∧
    (s.phase = .off ∨ s.phase = .tripped → exec .resetNAsserted s = .next s ∧ exec .pinReset s = .next s) ∧
    (s.phase ≠ .off → s.phase ≠ .tripped →
      exec .resetNAsserted s = .next { s with phase := .held } ∧ exec .thermtrip s = .next { s with phase := .tripped }) ∧
    ∀ i v, (i = .powerOn ∧ s.phase = .off ∧ v = afterReset s 0) ∨ (i = .pinReset ∧ s.phase = .held ∧ v = afterReset s s.time) →
      let h := BootHeader.of (v.flashBytes 0 512)
      let cfg := v.flashBytes h.cfgo 256
      let fails (n : Nat) : Prop := exec i s = .next { v with phase := .failed, bootstat := BitVec.ofNat 4 n }
      (v.groups = [] ∧ v.dev = [] ∧ (∀ f, f ∈ v.flaky ↔ f ∈ s.busy ∨ f ∈ s.flaky) ∧ v.easel = [] ∧ v.faultq = [] ∧ v.tlbs = [] ∧ v.pot = [] ∧ v.launches = [] ∧ v.phase = .rom) ∧
      (v.siteOk 0 = false → fails 2) ∧
      (v.siteOk 0 = true → h.ok = false → fails 3) ∧
      (v.siteOk 0 = true → h.ok = true → cfgOk h.pubk cfg = false → fails 4) ∧
      (v.siteOk 0 = true → h.ok = true → cfgOk h.pubk cfg = true →
        let all : Prop := ∀ x, x < 288 → x ∉ cfgSites cfg → v.siteOk x = true
        let image := v.flashBytes h.imgo h.imgsz
        let sig := pairOf ((h.bytes.drop 164).take 132)
        let good := ecdsaOk (pairOf h.pubk) (sha512 (h.bytes.take 164 ++ image)) sig.1 sig.2
        (¬all → fails 2) ∧
        (all → Config.identity (v.flashBytes h.hlpo 4096) = none → fails 5) ∧
        (∀ d, all → Config.identity (v.flashBytes h.hlpo 4096) = some d → good = false → fails 6) ∧
        (∀ d, all → Config.identity (v.flashBytes h.hlpo 4096) = some d → good = true →
          ∃ u, exec i s = .next u ∧ u.phase = .running ∧ u.bootstat = 1 ∧ u.unused = cfgSites cfg ∧
            u.copy = some (h.imgo, h.imgsz) ∧ u.groups.length = 280 ∧
            ∀ c, c < 280 → ∃ g ∈ u.groups, g.core = c ∧ g.priv = .f ∧ g.world = 0 ∧ g.gw = 8 ∧ g.nreg = 32 ∧ g.frozen = false ∧
              g.s.getD 0 { val := 0, taint := true, poison := true } = { val := 0xF200000000000000, taint := false, poison := false } ∧
              g.threads.map (·.lane) = List.range 8 ∧
              ∀ t ∈ g.threads, t.pc = BitVec.ofNat 64 (flashKey (h.imgo + h.entry)) &&& ~~~3#64 ∧ t.st = .ready))

/-- R50, R53 to R63, R77: words that the tables of chapter 03 give decode to the instructions they stand for, among them the worked
encoding; words that are no instruction are refused (R83). -/
def Obligations.DecodeWords : Prop :=
  decode [0x01FC1082#32] = .ok (.mul 63 1 2 false none) ∧
  decode [0x010C1800#32] = .ok (.add 3 1 32 false none) ∧
  decode [0x7F4A1400#32, 0x03101083#32] =
    .ok (.fma 4 1 2 .f32 (some { msk := 2, inv := false, z := true, rm := 2, c := 5, sat := 0 })) ∧
  decode [0x82041000#32, 0x000003E8#32, 0#32] = .ok (.addImm 1 1 0 (some 1000) none) ∧
  decode [0x0D1CBFF9#32] = .ok (.brnz 7 0x3FF9 none) ∧
  decode [0x0808101A#32] = .ok (.xlBack 2 1 0 2 none) ∧
  decode [0x0B13E805#32] = .ok (.smovi 4 5) ∧
  decode [0x0C140880#32] = .ok (.csrr 5 0x022) ∧
  decode [0x0C0C0801#32] = .ok (.rmWrite .write 3) ∧
  decode [0x0E00C000#32] = .ok .exit ∧
  decode [0x11000500#32] = .ok .fenceI ∧
  (∀ ws ∈ [[0#32], [0x7F000000#32, 0x7F000000#32], [0x7F000000#32, 0x0D000000#32], [0x4D000000#32, 0#32], [0x811C1000#32, 0#32, 0#32]],
    ∃ r, decode ws = .bad r)

/-- R49 to R66: decode and encode agree. The words of every well-formed instruction that has an encoding decode to that
instruction, with each operand at every value that its encoding admits. -/
def Obligations.DecodeEncode : Prop :=
  ∀ (i : Instr), i.wellFormed = true → encode i ≠ [] → decode (encode i) = .ok i

/-- R51, R83, R336: a step that issues a cohort executes the instruction whose words stand at the cohort's `pc`: it is `exec` of that
instruction in the state where the cohort is named, then the accounting of an issued instruction, and then the end of the step, at
which time passes. Words that are no instruction raise ILL for the cohort. The model's choice: which of the possible moves a step
makes (log entries 2 and 102), and that cohorts packed with the lead issue after it in the lead's own step (log entry 7). -/
def Obligations.StepRunsTheDecodedInstruction : Prop :=
  ∀ (s : State) (c : Cohort) (g : Group) (t : Thread) (ts : List Thread) (ws : List Word),
    s.phase = .running → s.chosen s.moves = some (.issue c) →
    s.group? c.core c.slot = some g → g.inMask c.lanes = t :: ts → s.fetch (g.poster t.lane) t.pc = .words ws →
    let s1 := { s with cur := { core := c.core, slot := c.slot, lanes := c.lanes, words := ws } }
    let ready := if s.groups.any (·.age) || !s.cores.isEmpty then s.groups.flatMap s.readyOf else []
    let rest := ready.filter fun d => d != c
    let packed := s.packed c (s.groups.flatMap s.readyOf)
    let issued (u : State) (i : Option Instr) : State :=
      ((u.issuedBy c i u.cur.words (s.worldAt c.core c.slot)).useLines c.core (s.wordLines c)).renew s
    let ends (o : Host.Outcome State Fault Refusal) (f : State → State) := after o fun u => (f u).passOver s (some (.issue c))
    .issue c ∈ s.moves ∧
    (packed ≠ [] → step s = ends (s.issueAll ready (c :: packed) s) id) ∧
    (∀ i, packed = [] → decode ws = .ok i → s1.cohortMarks = [] →
      step s = ends (exec i s1) fun u =>
        if u.stalled = false ∧ u.walks.length ≤ s.walks.length ∧ u.tokq.length ≤ s.tokq.length then finish s rest (issued u (some i))
        else finish s ready u) ∧
    (∀ r, packed = [] → decode ws = .bad r → (actsForGroup ws = true → wholeGroup s1 g = true) →
      step s = ends (raiseCohort s1 g (.plain .ill)) fun u => finish s rest (issued u none))

/-- R332, R414: whatever a step does, no cohort is half executed after it, a token wait queue holds only requests of groups that run,
and a cancel token outlives nothing that carries its instance. -/
def Obligations.EveryStepKeepsTheInvariant : Prop :=
  ∀ (s t : State), Inv s → step s = .next t → Inv t

/-- R414, R417, R421, R424: the device right after reset. The ROM is about to run; there is no group, team, launch, snapshot or
cancel token; every queue, log and record queue is empty; no world has a key; the tables of the device window are at their Reset
columns; each die's pool holds 4 tokens for each of its 140 cores; nothing is listed in memory, which is in its canonical form; and
the invariants of every step hold. The model's choice: the values of the fields that the model alone holds, and of the sites,
pools and ports before the ROM has read the configuration record (log entry 11). -/
def Obligations.ResetState : Prop :=
  let s := State.reset
  Inv s ∧ Canonical s ∧ LanesOk s ∧ s.phase = .rom ∧
  (s.groups = [] ∧ s.teams = [] ∧ s.launches = [] ∧ s.snaps = [] ∧ s.tokens = [] ∧ s.pipes = []) ∧
  (s.mcmds = [] ∧ s.joints = [] ∧ s.ccmds = [] ∧ s.ncmds = [] ∧ s.ringq = [] ∧ s.easel = [] ∧ s.pending = [] ∧ s.faultq = [] ∧
    s.slog = [] ∧ s.tokq = [] ∧ s.swaps = [] ∧ s.images = []) ∧
  (s.wire = [] ∧ s.sentq = [] ∧ s.rx = [] ∧ s.inmsgs = [] ∧ s.rodOut = [] ∧ s.rodIn = [] ∧ s.sends = [] ∧ s.prefs = [] ∧
    s.held = [] ∧ s.pauses = [] ∧ s.bells = [] ∧ s.hot = []) ∧
  (s.tlbs = [] ∧ s.l1 = [] ∧ s.icache = [] ∧ s.walks = [] ∧ s.errs = [] ∧ s.busy = [] ∧ s.flaky = [] ∧ s.due = []) ∧
  (∀ w, w < 64 → s.kstate w = 0) ∧ s.en = false ∧ (∀ q, q < 256 → s.devWord (dev3 + 0x100 + 4 * q) = 0) ∧
  s.devGet (dev3 + 0x8100) = 0x1000000 ∧ (∀ w, w < 64 → bits (s.devGet (dev3 + 0x2000 + 64 * w + 8)) 47 40 = 16) ∧
  (∀ n, n < 16 → bits (s.devGet (dev3 + 0x800 + 8 * n)) 8 0 = 0x104) ∧
  s.pools = [(4 * 140, 0), (4 * 140, 0)] ∧ s.budgets = [] ∧ s.cores = [] ∧ s.ucnt = [] ∧ s.plan = none ∧
  s.mrs = List.replicate 16 0 ∧ s.mem = [] ∧ Memory.wf s.mem = true

/-- R91, R94, R102, R120, R132, R139, R147, R164, R166: the forms that complete whenever they are ready. A vector float form (VFP,
VSFU, VCVT) or a complex form answers the next state of a vector instruction, for some result of each lane; a compare that of a
compare; both need only that no register at or above NREG is named, that the prefix mask is not poisoned or the group may consume
poison, and that the operands of the active lanes have arrived. A scalar form and a mask form need nothing but the cohort. What
each result is, the statements about the single instructions say. -/
def Obligations.FormsComplete : Prop :=
  (∀ (s : State) (g : Group) (d a b : Sel) (t : FTy) (p : Option Pfx),
    let lanes (x : VInst) (is : List Instr) : Prop := VReady s g x → ∀ i ∈ is, ∃ r, exec i s = .next (vecNext s g x r)
    lanes (vin p d (DW.of t.wide) [(a, t.wide), (b, t.wide)] none)
      [.fadd d a b t p, .fsub d a b t p, .fmul d a b t p, .fmin d a b t p, .fmax d a b t p, .fminm d a b t p, .fmaxm d a b t p,
        .fdiv d a b t p, .fsgn d a b t p] ∧
    lanes (vin p d (DW.of t.wide) [(a, t.wide), (b, t.wide)] (some t.wide)) [.fma d a b t p, .fnma d a b t p] ∧
    lanes (vin p d (DW.of t.wide) [(a, t.wide)] none)
      [.fsqrt d a t p, .fabs d a t p, .fneg d a t p, .frcp d a t p, .frsq d a t p, .fex2 d a t p, .flg2 d a t p, .fsin d a t p,
        .fcos d a t p, .ftanh d a t p] ∧
    lanes (vin p d .w32 [(a, t.wide)] none) [.fclass d a t p] ∧
    lanes (vin p d (DW.of t.wide) [(a, t.wide), (b, false)] none) [.fscale d a b t p] ∧
    (∀ (n : Bool) (src dst : CvtTy), lanes (vin p d (DW.of dst.wide) [(a, src.wide)] none) [.fcvt d a n src dst p]) ∧
    (∀ (f : FmtTy), lanes (vin p d (DW.of f.wide) [(a, f.wide)] none) [.fround d a f p]) ∧
    (∀ (e : MxElem), lanes (vin p d .w32 [(a, true)] none) [.fpack d a e p, .funpk d a e p]) ∧
    lanes (vin p d .w64 [(a, false)] none) [.fsplitBf16 d a p, .cunpkCi8 d a p] ∧
    lanes (vin p d .w32 [(a, false), (b, false)] none) [.caddCi16 d a b p, .cmulCi16 d a b p] ∧
    lanes (vin p d .w64 [(a, true), (b, true)] none) [.caddCi32 d a b p] ∧
    lanes { vin p d .w64 [(a, false), (b, false)] none with old := true } [.cmacCi16 d a b p, .cmacCi8 d a b p] ∧
    lanes (vin p d .w32 [(a, false)] none) [.cconjCi16 d a p, .cmag2Ci16 d a p] ∧
    lanes (vin p d .w64 [(a, true)] none) [.cconjCi32 d a p] ∧
    lanes (vin p d .w128 [(a, false)] none) [.cunpkCi4 d a p]) ∧
  (∀ (s : State) (g : Group) (d a b : Sel) (c : Cond) (p : Option Pfx),
    let done (w : Bool) (i : Instr) : Prop :=
      VReady s g (vin p 0x3F#6 (DW.of w) [(a, w), (b, w)] none) →
        ∃ r, exec i s = .next (compareNext s g (vin p 0x3F#6 (DW.of w) [(a, w), (b, w)] none) d r)
    (∀ (t : ITy), done t.wide (.cmp d a b t c p)) ∧ ∀ (t : FTy), done t.wide (.fcmp d a b t c p)) ∧
  (∀ (s : State) (g : Group) (d a b : Sel) (n : Imm8) (k : Imm) (lit : Option Imm), Issuer s g →
    (∀ i ∈ [Instr.sadd d a b, .ssub d a b, .smul d a b, .smulhi d a b, .sdiv d a b, .sdivN d a b, .srem d a b, .sremN d a b,
        .smin d a b, .sminN d a b, .smax d a b, .smaxN d a b, .sand d a b, .sor d a b, .sxor d a b, .sshl d a b, .sshr d a b,
        .ssra d a b, .sclz d a, .spopc d a, .smov d a, .ssel d a b, .scmpEq d a b, .scmpNe d a b, .scmpLt d a b, .scmpLe d a b,
        .scmpLtN d a b, .scmpLeN d a b, .saddImm d a n lit, .smulImm d a n lit, .sandImm d a n lit, .sorImm d a n lit,
        .sxorImm d a n lit, .sshlImm d a n lit, .sshrImm d a n lit, .ssraImm d a n lit, .smovi d n, .slit d k, .mpop d a,
        .mfirst d a, .mget d a], ∃ x srcs, exec i s = scalarTo s g d x srcs) ∧
    (∀ i ∈ [Instr.mand d a b, .mor d a b, .mxor d a b, .mnot d a, .mmov d a, .mset d a], ∃ r : MReg,
      exec i s = .next (s.putGroup (movePast s (g.setMask d.toNat r)))))

/-- R364, R189, R354, R414, R417: whatever a step does, in every state whose storage is in canonical form, the storage stays so:
memory, the device window, the page ownership table and every other sparse table list rising keys, memory nothing that reads as
unlisted does, each core has its eight event counters, and there are the pools of two dies. The form is the model's. -/
def Obligations.EveryStepKeepsStorageCanonical : Prop :=
  ∀ (s t : State), Canonical s → step s = .next t → Canonical t

/-- R88, R322: whatever a step does, the threads of a group, in a core or in a swapped image, have lanes of their own below 64,
and the group width of a queued launch is at most 64. -/
def Obligations.EveryStepKeepsLanes : Prop :=
  ∀ (s t : State), LanesOk s → step s = .next t → LanesOk t

end
end

