-- ==== Sys2Proof/Laws/Encoding.lean ====
section
/-! SUPPORT. The fields of packed words, and how the decoder takes the words of an encoded instruction apart: what the
round trip of decoder and encoder rests on. -/

namespace Sys2Proof

@[simp] theorem packPfx_l (l : BitVec 2) (p : Pfx) : fld (packPfx l p) 30 2 = l := by
  simp (disch := omega) only [packPfx, fld, BitVec.extractLsb'_append_eq_of_add_le, BitVec.extractLsb'_append_eq_of_le]
  all_goals simp

@[simp] theorem packPfx_op (l : BitVec 2) (p : Pfx) : fld (packPfx l p) 24 6 = 0x3F#6 := by
  simp (disch := omega) only [packPfx, fld, BitVec.extractLsb'_append_eq_of_add_le, BitVec.extractLsb'_append_eq_of_le]
  all_goals simp

@[simp] theorem packPfx_msk (l : BitVec 2) (p : Pfx) : fld (packPfx l p) 21 3 = p.msk := by
  simp (disch := omega) only [packPfx, fld, BitVec.extractLsb'_append_eq_of_add_le, BitVec.extractLsb'_append_eq_of_le]
  all_goals simp

@[simp] theorem packPfx_inv (l : BitVec 2) (p : Pfx) : fld (packPfx l p) 20 1 = BitVec.ofBool p.inv := by
  simp (disch := omega) only [packPfx, fld, BitVec.extractLsb'_append_eq_of_add_le, BitVec.extractLsb'_append_eq_of_le]
  all_goals simp

@[simp] theorem packPfx_z (l : BitVec 2) (p : Pfx) : fld (packPfx l p) 19 1 = BitVec.ofBool p.z := by
  simp (disch := omega) only [packPfx, fld, BitVec.extractLsb'_append_eq_of_add_le, BitVec.extractLsb'_append_eq_of_le]
  all_goals simp

@[simp] theorem packPfx_rm (l : BitVec 2) (p : Pfx) : fld (packPfx l p) 16 3 = p.rm := by
  simp (disch := omega) only [packPfx, fld, BitVec.extractLsb'_append_eq_of_add_le, BitVec.extractLsb'_append_eq_of_le]
  all_goals simp

@[simp] theorem packPfx_c (l : BitVec 2) (p : Pfx) : fld (packPfx l p) 10 6 = p.c := by
  simp (disch := omega) only [packPfx, fld, BitVec.extractLsb'_append_eq_of_add_le, BitVec.extractLsb'_append_eq_of_le]
  all_goals simp

@[simp] theorem packPfx_sat (l : BitVec 2) (p : Pfx) : fld (packPfx l p) 8 2 = p.sat := by
  simp (disch := omega) only [packPfx, fld, BitVec.extractLsb'_append_eq_of_add_le, BitVec.extractLsb'_append_eq_of_le]
  all_goals simp

@[simp] theorem packPfx_low (l : BitVec 2) (p : Pfx) : fld (packPfx l p) 0 8 = 0#8 := by
  simp (disch := omega) only [packPfx, fld, BitVec.extractLsb'_append_eq_of_add_le, BitVec.extractLsb'_append_eq_of_le]
  all_goals simp

@[simp] theorem packR_l (op d a b f : BitVec 6) : fld (packR op d a b f) 30 2 = 0#2 := by
  simp (disch := omega) only [packR, fld, BitVec.extractLsb'_append_eq_of_add_le, BitVec.extractLsb'_append_eq_of_le]
  all_goals simp

@[simp] theorem packR_op (op d a b f : BitVec 6) : fld (packR op d a b f) 24 6 = op := by
  simp (disch := omega) only [packR, fld, BitVec.extractLsb'_append_eq_of_add_le, BitVec.extractLsb'_append_eq_of_le]
  all_goals simp

@[simp] theorem packR_d (op d a b f : BitVec 6) : fld (packR op d a b f) 18 6 = d := by
  simp (disch := omega) only [packR, fld, BitVec.extractLsb'_append_eq_of_add_le, BitVec.extractLsb'_append_eq_of_le]
  all_goals simp

@[simp] theorem packR_a (op d a b f : BitVec 6) : fld (packR op d a b f) 12 6 = a := by
  simp (disch := omega) only [packR, fld, BitVec.extractLsb'_append_eq_of_add_le, BitVec.extractLsb'_append_eq_of_le]
  all_goals simp

@[simp] theorem packR_b (op d a b f : BitVec 6) : fld (packR op d a b f) 6 6 = b := by
  simp (disch := omega) only [packR, fld, BitVec.extractLsb'_append_eq_of_add_le, BitVec.extractLsb'_append_eq_of_le]
  all_goals simp

@[simp] theorem packR_f (op d a b f : BitVec 6) : fld (packR op d a b f) 0 6 = f := by
  simp (disch := omega) only [packR, fld, BitVec.extractLsb'_append_eq_of_add_le, BitVec.extractLsb'_append_eq_of_le]
  all_goals simp

@[simp] theorem packR_f_0_4 (op d a b f : BitVec 6) : fld (packR op d a b f) 0 4 = f.extractLsb' 0 4 := by
  simp (disch := omega) only [packR, fld, BitVec.extractLsb'_append_eq_of_add_le, BitVec.extractLsb'_append_eq_of_le]
  all_goals simp

@[simp] theorem packR_f_4_2 (op d a b f : BitVec 6) : fld (packR op d a b f) 4 2 = f.extractLsb' 4 2 := by
  simp (disch := omega) only [packR, fld, BitVec.extractLsb'_append_eq_of_add_le, BitVec.extractLsb'_append_eq_of_le]
  all_goals simp

@[simp] theorem packR_f_0_3 (op d a b f : BitVec 6) : fld (packR op d a b f) 0 3 = f.extractLsb' 0 3 := by
  simp (disch := omega) only [packR, fld, BitVec.extractLsb'_append_eq_of_add_le, BitVec.extractLsb'_append_eq_of_le]
  all_goals simp

@[simp] theorem packR_f_3_3 (op d a b f : BitVec 6) : fld (packR op d a b f) 3 3 = f.extractLsb' 3 3 := by
  simp (disch := omega) only [packR, fld, BitVec.extractLsb'_append_eq_of_add_le, BitVec.extractLsb'_append_eq_of_le]
  all_goals simp

@[simp] theorem packR_f_3_2 (op d a b f : BitVec 6) : fld (packR op d a b f) 3 2 = f.extractLsb' 3 2 := by
  simp (disch := omega) only [packR, fld, BitVec.extractLsb'_append_eq_of_add_le, BitVec.extractLsb'_append_eq_of_le]
  all_goals simp

@[simp] theorem packR_f_5_1 (op d a b f : BitVec 6) : fld (packR op d a b f) 5 1 = f.extractLsb' 5 1 := by
  simp (disch := omega) only [packR, fld, BitVec.extractLsb'_append_eq_of_add_le, BitVec.extractLsb'_append_eq_of_le]
  all_goals simp

@[simp] theorem packR_f_2_2 (op d a b f : BitVec 6) : fld (packR op d a b f) 2 2 = f.extractLsb' 2 2 := by
  simp (disch := omega) only [packR, fld, BitVec.extractLsb'_append_eq_of_add_le, BitVec.extractLsb'_append_eq_of_le]
  all_goals simp

@[simp] theorem packR_f_0_2 (op d a b f : BitVec 6) : fld (packR op d a b f) 0 2 = f.extractLsb' 0 2 := by
  simp (disch := omega) only [packR, fld, BitVec.extractLsb'_append_eq_of_add_le, BitVec.extractLsb'_append_eq_of_le]
  all_goals simp

@[simp] theorem packR_f_4_1 (op d a b f : BitVec 6) : fld (packR op d a b f) 4 1 = f.extractLsb' 4 1 := by
  simp (disch := omega) only [packR, fld, BitVec.extractLsb'_append_eq_of_add_le, BitVec.extractLsb'_append_eq_of_le]
  all_goals simp

@[simp] theorem packR_b_0_4 (op d a b f : BitVec 6) : fld (packR op d a b f) 6 4 = b.extractLsb' 0 4 := by
  simp (disch := omega) only [packR, fld, BitVec.extractLsb'_append_eq_of_add_le, BitVec.extractLsb'_append_eq_of_le]
  all_goals simp

@[simp] theorem packR_b_4_1 (op d a b f : BitVec 6) : fld (packR op d a b f) 10 1 = b.extractLsb' 4 1 := by
  simp (disch := omega) only [packR, fld, BitVec.extractLsb'_append_eq_of_add_le, BitVec.extractLsb'_append_eq_of_le]
  all_goals simp

@[simp] theorem packR_b_5_1 (op d a b f : BitVec 6) : fld (packR op d a b f) 11 1 = b.extractLsb' 5 1 := by
  simp (disch := omega) only [packR, fld, BitVec.extractLsb'_append_eq_of_add_le, BitVec.extractLsb'_append_eq_of_le]
  all_goals simp

@[simp] theorem packR_b_2_4 (op d a b f : BitVec 6) : fld (packR op d a b f) 8 4 = b.extractLsb' 2 4 := by
  simp (disch := omega) only [packR, fld, BitVec.extractLsb'_append_eq_of_add_le, BitVec.extractLsb'_append_eq_of_le]
  all_goals simp

@[simp] theorem packR_b_0_2 (op d a b f : BitVec 6) : fld (packR op d a b f) 6 2 = b.extractLsb' 0 2 := by
  simp (disch := omega) only [packR, fld, BitVec.extractLsb'_append_eq_of_add_le, BitVec.extractLsb'_append_eq_of_le]
  all_goals simp

@[simp] theorem packI_l (l : BitVec 2) (op d a : BitVec 6) (f : BitVec 4) (i : Imm8) : fld (packI l op d a f i) 30 2 = l := by
  simp (disch := omega) only [packI, fld, BitVec.extractLsb'_append_eq_of_add_le, BitVec.extractLsb'_append_eq_of_le]
  all_goals simp

@[simp] theorem packI_op (l : BitVec 2) (op d a : BitVec 6) (f : BitVec 4) (i : Imm8) : fld (packI l op d a f i) 24 6 = op := by
  simp (disch := omega) only [packI, fld, BitVec.extractLsb'_append_eq_of_add_le, BitVec.extractLsb'_append_eq_of_le]
  all_goals simp

@[simp] theorem packI_d (l : BitVec 2) (op d a : BitVec 6) (f : BitVec 4) (i : Imm8) : fld (packI l op d a f i) 18 6 = d := by
  simp (disch := omega) only [packI, fld, BitVec.extractLsb'_append_eq_of_add_le, BitVec.extractLsb'_append_eq_of_le]
  all_goals simp

@[simp] theorem packI_a (l : BitVec 2) (op d a : BitVec 6) (f : BitVec 4) (i : Imm8) : fld (packI l op d a f i) 12 6 = a := by
  simp (disch := omega) only [packI, fld, BitVec.extractLsb'_append_eq_of_add_le, BitVec.extractLsb'_append_eq_of_le]
  all_goals simp

@[simp] theorem packI_f (l : BitVec 2) (op d a : BitVec 6) (f : BitVec 4) (i : Imm8) : fld (packI l op d a f i) 8 4 = f := by
  simp (disch := omega) only [packI, fld, BitVec.extractLsb'_append_eq_of_add_le, BitVec.extractLsb'_append_eq_of_le]
  all_goals simp

@[simp] theorem packI_i (l : BitVec 2) (op d a : BitVec 6) (f : BitVec 4) (i : Imm8) : fld (packI l op d a f i) 0 8 = i := by
  simp (disch := omega) only [packI, fld, BitVec.extractLsb'_append_eq_of_add_le, BitVec.extractLsb'_append_eq_of_le]
  all_goals simp

@[simp] theorem packB_l (l : BitVec 2) (op c : BitVec 6) (k : BitVec 4) (o : BitVec 14) : fld (packB l op c k o) 30 2 = l := by
  simp (disch := omega) only [packB, fld, BitVec.extractLsb'_append_eq_of_add_le, BitVec.extractLsb'_append_eq_of_le]
  all_goals simp

@[simp] theorem packB_op (l : BitVec 2) (op c : BitVec 6) (k : BitVec 4) (o : BitVec 14) : fld (packB l op c k o) 24 6 = op := by
  simp (disch := omega) only [packB, fld, BitVec.extractLsb'_append_eq_of_add_le, BitVec.extractLsb'_append_eq_of_le]
  all_goals simp

@[simp] theorem packB_c (l : BitVec 2) (op c : BitVec 6) (k : BitVec 4) (o : BitVec 14) : fld (packB l op c k o) 18 6 = c := by
  simp (disch := omega) only [packB, fld, BitVec.extractLsb'_append_eq_of_add_le, BitVec.extractLsb'_append_eq_of_le]
  all_goals simp

@[simp] theorem packB_k (l : BitVec 2) (op c : BitVec 6) (k : BitVec 4) (o : BitVec 14) : fld (packB l op c k o) 14 4 = k := by
  simp (disch := omega) only [packB, fld, BitVec.extractLsb'_append_eq_of_add_le, BitVec.extractLsb'_append_eq_of_le]
  all_goals simp

@[simp] theorem packB_o (l : BitVec 2) (op c : BitVec 6) (k : BitVec 4) (o : BitVec 14) : fld (packB l op c k o) 0 14 = o := by
  simp (disch := omega) only [packB, fld, BitVec.extractLsb'_append_eq_of_add_le, BitVec.extractLsb'_append_eq_of_le]
  all_goals simp

@[simp] theorem packM_l (l : BitVec 2) (op d a : BitVec 6) (z o : BitVec 3) (q : Scope) (t : BitVec 2) : fld (packM l op d a z o q t) 30 2 = l := by
  simp (disch := omega) only [packM, fld, BitVec.extractLsb'_append_eq_of_add_le, BitVec.extractLsb'_append_eq_of_le]
  all_goals simp

@[simp] theorem packM_op (l : BitVec 2) (op d a : BitVec 6) (z o : BitVec 3) (q : Scope) (t : BitVec 2) : fld (packM l op d a z o q t) 24 6 = op := by
  simp (disch := omega) only [packM, fld, BitVec.extractLsb'_append_eq_of_add_le, BitVec.extractLsb'_append_eq_of_le]
  all_goals simp

@[simp] theorem packM_d (l : BitVec 2) (op d a : BitVec 6) (z o : BitVec 3) (q : Scope) (t : BitVec 2) : fld (packM l op d a z o q t) 18 6 = d := by
  simp (disch := omega) only [packM, fld, BitVec.extractLsb'_append_eq_of_add_le, BitVec.extractLsb'_append_eq_of_le]
  all_goals simp

@[simp] theorem packM_a (l : BitVec 2) (op d a : BitVec 6) (z o : BitVec 3) (q : Scope) (t : BitVec 2) : fld (packM l op d a z o q t) 12 6 = a := by
  simp (disch := omega) only [packM, fld, BitVec.extractLsb'_append_eq_of_add_le, BitVec.extractLsb'_append_eq_of_le]
  all_goals simp

@[simp] theorem packM_z (l : BitVec 2) (op d a : BitVec 6) (z o : BitVec 3) (q : Scope) (t : BitVec 2) : fld (packM l op d a z o q t) 9 3 = z := by
  simp (disch := omega) only [packM, fld, BitVec.extractLsb'_append_eq_of_add_le, BitVec.extractLsb'_append_eq_of_le]
  all_goals simp

@[simp] theorem packM_o (l : BitVec 2) (op d a : BitVec 6) (z o : BitVec 3) (q : Scope) (t : BitVec 2) : fld (packM l op d a z o q t) 6 3 = o := by
  simp (disch := omega) only [packM, fld, BitVec.extractLsb'_append_eq_of_add_le, BitVec.extractLsb'_append_eq_of_le]
  all_goals simp

@[simp] theorem packM_q (l : BitVec 2) (op d a : BitVec 6) (z o : BitVec 3) (q : Scope) (t : BitVec 2) : fld (packM l op d a z o q t) 2 4 = q := by
  simp (disch := omega) only [packM, fld, BitVec.extractLsb'_append_eq_of_add_le, BitVec.extractLsb'_append_eq_of_le]
  all_goals simp

@[simp] theorem packM_t (l : BitVec 2) (op d a : BitVec 6) (z o : BitVec 3) (q : Scope) (t : BitVec 2) : fld (packM l op d a z o q t) 0 2 = t := by
  simp (disch := omega) only [packM, fld, BitVec.extractLsb'_append_eq_of_add_le, BitVec.extractLsb'_append_eq_of_le]
  all_goals simp

@[simp] theorem packAtom_l (d a : Sel) (op : BitVec 4) (r : AtomOrd) (nr : Bool) (q : Scope) (w : Bool) : fld (packAtom d a op r nr q w) 30 2 = 0#2 := by
  simp (disch := omega) only [packAtom, packAtomBits, fld, BitVec.extractLsb'_append_eq_of_add_le, BitVec.extractLsb'_append_eq_of_le]
  all_goals simp

@[simp] theorem packAtom_major (d a : Sel) (op : BitVec 4) (r : AtomOrd) (nr : Bool) (q : Scope) (w : Bool) : fld (packAtom d a op r nr q w) 24 6 = 0x14#6 := by
  simp (disch := omega) only [packAtom, packAtomBits, fld, BitVec.extractLsb'_append_eq_of_add_le, BitVec.extractLsb'_append_eq_of_le]
  all_goals simp

@[simp] theorem packAtom_d (d a : Sel) (op : BitVec 4) (r : AtomOrd) (nr : Bool) (q : Scope) (w : Bool) : fld (packAtom d a op r nr q w) 18 6 = d := by
  simp (disch := omega) only [packAtom, packAtomBits, fld, BitVec.extractLsb'_append_eq_of_add_le, BitVec.extractLsb'_append_eq_of_le]
  all_goals simp

@[simp] theorem packAtom_a (d a : Sel) (op : BitVec 4) (r : AtomOrd) (nr : Bool) (q : Scope) (w : Bool) : fld (packAtom d a op r nr q w) 12 6 = a := by
  simp (disch := omega) only [packAtom, packAtomBits, fld, BitVec.extractLsb'_append_eq_of_add_le, BitVec.extractLsb'_append_eq_of_le]
  all_goals simp

@[simp] theorem packAtom_op (d a : Sel) (op : BitVec 4) (r : AtomOrd) (nr : Bool) (q : Scope) (w : Bool) : fld (packAtom d a op r nr q w) 8 4 = op := by
  simp (disch := omega) only [packAtom, packAtomBits, fld, BitVec.extractLsb'_append_eq_of_add_le, BitVec.extractLsb'_append_eq_of_le]
  all_goals simp

@[simp] theorem packAtom_r (d a : Sel) (op : BitVec 4) (r : AtomOrd) (nr : Bool) (q : Scope) (w : Bool) : fld (packAtom d a op r nr q w) 6 2 = r.code := by
  simp (disch := omega) only [packAtom, packAtomBits, fld, BitVec.extractLsb'_append_eq_of_add_le, BitVec.extractLsb'_append_eq_of_le]
  all_goals simp

@[simp] theorem packAtom_nr (d a : Sel) (op : BitVec 4) (r : AtomOrd) (nr : Bool) (q : Scope) (w : Bool) : fld (packAtom d a op r nr q w) 5 1 = BitVec.ofBool nr := by
  simp (disch := omega) only [packAtom, packAtomBits, fld, BitVec.extractLsb'_append_eq_of_add_le, BitVec.extractLsb'_append_eq_of_le]
  all_goals simp

@[simp] theorem packAtom_q (d a : Sel) (op : BitVec 4) (r : AtomOrd) (nr : Bool) (q : Scope) (w : Bool) : fld (packAtom d a op r nr q w) 1 4 = q := by
  simp (disch := omega) only [packAtom, packAtomBits, fld, BitVec.extractLsb'_append_eq_of_add_le, BitVec.extractLsb'_append_eq_of_le]
  all_goals simp

@[simp] theorem packAtom_w (d a : Sel) (op : BitVec 4) (r : AtomOrd) (nr : Bool) (q : Scope) (w : Bool) : fld (packAtom d a op r nr q w) 0 1 = BitVec.ofBool w := by
  simp (disch := omega) only [packAtom, packAtomBits, fld, BitVec.extractLsb'_append_eq_of_add_le, BitVec.extractLsb'_append_eq_of_le]
  all_goals simp

@[simp] theorem packMemc_l (l : BitVec 2) (d a m : BitVec 6) (q : Scope) : fld (packMemc l d a m q) 30 2 = l := by
  simp (disch := omega) only [packMemc, fld, BitVec.extractLsb'_append_eq_of_add_le, BitVec.extractLsb'_append_eq_of_le]
  all_goals simp

@[simp] theorem packMemc_op (l : BitVec 2) (d a m : BitVec 6) (q : Scope) : fld (packMemc l d a m q) 24 6 = 0x15#6 := by
  simp (disch := omega) only [packMemc, fld, BitVec.extractLsb'_append_eq_of_add_le, BitVec.extractLsb'_append_eq_of_le]
  all_goals simp

@[simp] theorem packMemc_d (l : BitVec 2) (d a m : BitVec 6) (q : Scope) : fld (packMemc l d a m q) 18 6 = d := by
  simp (disch := omega) only [packMemc, fld, BitVec.extractLsb'_append_eq_of_add_le, BitVec.extractLsb'_append_eq_of_le]
  all_goals simp

@[simp] theorem packMemc_a (l : BitVec 2) (d a m : BitVec 6) (q : Scope) : fld (packMemc l d a m q) 12 6 = a := by
  simp (disch := omega) only [packMemc, fld, BitVec.extractLsb'_append_eq_of_add_le, BitVec.extractLsb'_append_eq_of_le]
  all_goals simp

@[simp] theorem packMemc_m (l : BitVec 2) (d a m : BitVec 6) (q : Scope) : fld (packMemc l d a m q) 6 6 = m := by
  simp (disch := omega) only [packMemc, fld, BitVec.extractLsb'_append_eq_of_add_le, BitVec.extractLsb'_append_eq_of_le]
  all_goals simp

@[simp] theorem packMemc_q (l : BitVec 2) (d a m : BitVec 6) (q : Scope) : fld (packMemc l d a m q) 2 4 = q := by
  simp (disch := omega) only [packMemc, fld, BitVec.extractLsb'_append_eq_of_add_le, BitVec.extractLsb'_append_eq_of_le]
  all_goals simp

@[simp] theorem packMemc_low (l : BitVec 2) (d a m : BitVec 6) (q : Scope) : fld (packMemc l d a m q) 0 2 = 0#2 := by
  simp (disch := omega) only [packMemc, fld, BitVec.extractLsb'_append_eq_of_add_le, BitVec.extractLsb'_append_eq_of_le]
  all_goals simp

@[simp] theorem packMemc_d_low (l : BitVec 2) (d a m : BitVec 6) (q : Scope) : fld (packMemc l d a m q) 18 1 = d.extractLsb' 0 1 := by
  simp (disch := omega) only [packMemc, fld, BitVec.extractLsb'_append_eq_of_add_le, BitVec.extractLsb'_append_eq_of_le]
  all_goals simp

@[simp] theorem packMemc_d_high (l : BitVec 2) (d a m : BitVec 6) (q : Scope) : fld (packMemc l d a m q) 19 5 = d.extractLsb' 1 5 := by
  simp (disch := omega) only [packMemc, fld, BitVec.extractLsb'_append_eq_of_add_le, BitVec.extractLsb'_append_eq_of_le]
  all_goals simp

@[simp] theorem extWord_dir (dir : Bool) (k : BitVec 3) (x : Sel) : fld (BitVec.ofBool dir ++ 0#22 ++ k ++ x) 31 1 = BitVec.ofBool dir := by
  simp (disch := omega) only [fld, BitVec.extractLsb'_append_eq_of_add_le, BitVec.extractLsb'_append_eq_of_le]
  all_goals simp

@[simp] theorem extWord_zero (dir : Bool) (k : BitVec 3) (x : Sel) : fld (BitVec.ofBool dir ++ 0#22 ++ k ++ x) 9 22 = 0#22 := by
  simp (disch := omega) only [fld, BitVec.extractLsb'_append_eq_of_add_le, BitVec.extractLsb'_append_eq_of_le]
  all_goals simp

@[simp] theorem extWord_k (dir : Bool) (k : BitVec 3) (x : Sel) : fld (BitVec.ofBool dir ++ 0#22 ++ k ++ x) 6 3 = k := by
  simp (disch := omega) only [fld, BitVec.extractLsb'_append_eq_of_add_le, BitVec.extractLsb'_append_eq_of_le]
  all_goals simp

@[simp] theorem extWord_x (dir : Bool) (k : BitVec 3) (x : Sel) : fld (BitVec.ofBool dir ++ 0#22 ++ k ++ x) 0 6 = x := by
  simp (disch := omega) only [fld, BitVec.extractLsb'_append_eq_of_add_le, BitVec.extractLsb'_append_eq_of_le]
  all_goals simp

@[simp] theorem packCsr_l (d : Sel) (c : BitVec 12) (f : BitVec 6) : fld (packCsr d c f) 30 2 = 0#2 := by
  simp (disch := omega) only [packCsr, fld, BitVec.extractLsb'_append_eq_of_add_le, BitVec.extractLsb'_append_eq_of_le]
  all_goals simp

@[simp] theorem packCsr_op (d : Sel) (c : BitVec 12) (f : BitVec 6) : fld (packCsr d c f) 24 6 = 0x0C#6 := by
  simp (disch := omega) only [packCsr, fld, BitVec.extractLsb'_append_eq_of_add_le, BitVec.extractLsb'_append_eq_of_le]
  all_goals simp

@[simp] theorem packCsr_d (d : Sel) (c : BitVec 12) (f : BitVec 6) : fld (packCsr d c f) 18 6 = d := by
  simp (disch := omega) only [packCsr, fld, BitVec.extractLsb'_append_eq_of_add_le, BitVec.extractLsb'_append_eq_of_le]
  all_goals simp

@[simp] theorem packCsr_c (d : Sel) (c : BitVec 12) (f : BitVec 6) : fld (packCsr d c f) 6 12 = c := by
  simp (disch := omega) only [packCsr, fld, BitVec.extractLsb'_append_eq_of_add_le, BitVec.extractLsb'_append_eq_of_le]
  all_goals simp

@[simp] theorem packCsr_f (d : Sel) (c : BitVec 12) (f : BitVec 6) : fld (packCsr d c f) 0 6 = f := by
  simp (disch := omega) only [packCsr, fld, BitVec.extractLsb'_append_eq_of_add_le, BitVec.extractLsb'_append_eq_of_le]
  all_goals simp

/-- The prefix fields of a packed prefix word are the prefix. -/
@[simp] theorem readPfx_packPfx (l : BitVec 2) (p : Pfx) : readPfx (packPfx l p) = some p := by
  obtain ⟨msk, inv, z, rm, c, sat⟩ := p
  cases inv <;> cases z <;> simp [readPfx]

/-- A base word with its prefix and literal is taken apart into just those, if its major opcode has no extended form. -/
theorem decode_base (p : Option Pfx) (lit : Option Imm) (w : Word) (hl : fld w 30 2 = litL lit)
    (h : (fld w 24 6).toNat < 0x30) :
    decode (pfxWords p lit.isSome ++ w :: litWords lit) = match decodeBase p lit w with
      | none => .bad .encoding
      | some i => if i.wellFormed then .ok i else .bad .operand := by
  have hop : fld w 24 6 ≠ 0x3F#6 := by intro e; rw [e] at h; simp at h
  have h1 : ¬ (0x30 ≤ (fld w 24 6).toNat) := by omega
  cases lit with
  | none =>
    cases p <;> simp [decode, pfxWords, litWords, wordsNeeded, hl, litL, splitWords, hop, splitBase, decodeParts, h1] <;> rfl
  | some k =>
    have hk : k.extractLsb' 32 32 ++ k.extractLsb' 0 32 = k := by
      apply BitVec.eq_of_getLsbD_eq
      intro i hi
      rw [BitVec.getLsbD_append]
      by_cases c : i < 32
      · simp [c]
      · simp only [c, ↓reduceIte, BitVec.getLsbD_extractLsb']
        have : i - 32 < 32 := by omega
        simp [this, show 32 + (i - 32) = i by omega]
    cases p <;>
      simp [decode, pfxWords, litWords, wordsNeeded, hl, litL, splitWords, hop, splitBase, decodeParts, h1, hk] <;> rfl

/-- The same for the majors 0x30 to 0x32, whose two further words are their own. -/
theorem decode_ext (p : Option Pfx) (w x y : Word) (hl : fld w 30 2 = 2#2) (h : 0x30 ≤ (fld w 24 6).toNat)
    (h' : (fld w 24 6).toNat ≤ 0x32) :
    decode (pfxWords p true ++ [w, x, y]) = match decodeExt p w x y with
      | none => .bad .encoding
      | some i => if i.wellFormed then .ok i else .bad .operand := by
  have hop : fld w 24 6 ≠ 0x3F#6 := by intro e; rw [e] at h'; simp at h'
  cases p <;> simp [decode, pfxWords, wordsNeeded, hl, splitWords, hop, splitBase, decodeParts, h, h'] <;> rfl

/-- R format. -/
theorem decode_encR (p : Option Pfx) (op d a b f : BitVec 6) (h : op.toNat < 0x30) :
    decode (encR p op d a b f) = match decodeBase p none (packR op d a b f) with
      | none => .bad .encoding
      | some i => if i.wellFormed then .ok i else .bad .operand :=
  decode_base p none _ (by simp [litL]) (by simpa using h)

/-- I format. -/
theorem decode_encI (p : Option Pfx) (lit : Option Imm) (op d a : BitVec 6) (f : BitVec 4) (i : Imm8) (h : op.toNat < 0x30) :
    decode (encI p lit op d a f i) = match decodeBase p lit (packI (litL lit) op d a f i) with
      | none => .bad .encoding
      | some i => if i.wellFormed then .ok i else .bad .operand :=
  decode_base p lit _ (by simp) (by simpa using h)

/-- B format. -/
theorem decode_encB (lit : Option Imm) (op c : BitVec 6) (k : BitVec 4) (o : BitVec 14) (h : op.toNat < 0x30) :
    decode (encB lit op c k o) = match decodeBase none lit (packB (litL lit) op c k o) with
      | none => .bad .encoding
      | some i => if i.wellFormed then .ok i else .bad .operand :=
  decode_base none lit _ (by simp) (by simpa using h)

/-- M format. -/
theorem decode_encM (p : Option Pfx) (lit : Option Imm) (op d a : BitVec 6) (s : MemSize) (o : MemOrd) (q : Scope) (t : MemAt)
    (h : op.toNat < 0x30) :
    decode (encM p lit op d a s o q t) = match decodeBase p lit (packM (litL lit) op d a s.code o.code q t.code) with
      | none => .bad .encoding
      | some i => if i.wellFormed then .ok i else .bad .operand :=
  decode_base p lit _ (by simp) (by simpa using h)

/-- Indexed loads and stores. -/
theorem decode_encX (p : Option Pfx) (dir : Bool) (d a : Sel) (s : MemSize) (o : MemOrd) (q : Scope) (t : MemAt) (off : Word)
    (k : BitVec 3) (x : Sel) :
    decode (encX p dir d a s o q t off k x) =
      match decodeExt p (packM 0b10#2 0x32#6 d a s.code o.code q t.code) off (BitVec.ofBool dir ++ 0#22 ++ k ++ x) with
      | none => .bad .encoding
      | some i => if i.wellFormed then .ok i else .bad .operand :=
  decode_ext p _ _ _ (by simp) (by simp) (by simp)

/-- MEMC format. -/
theorem decode_encMemc (lit : Option Imm) (d a m : BitVec 6) (q : Scope) :
    decode (encMemc lit d a m q) = match decodeBase none lit (packMemc (litL lit) d a m q) with
      | none => .bad .encoding
      | some i => if i.wellFormed then .ok i else .bad .operand :=
  decode_base none lit _ (by simp) (by simp)

/-- Atomics and memory reductions. -/
theorem decode_packAtom (d a : Sel) (op : BitVec 4) (r : AtomOrd) (nr : Bool) (q : Scope) (w : Bool) :
    decode [packAtom d a op r nr q w] = match decodeBase none none (packAtom d a op r nr q w) with
      | none => .bad .encoding
      | some i => if i.wellFormed then .ok i else .bad .operand :=
  decode_base none none _ (by simp [litL]) (by simp)

/-- CSR format. -/
theorem decode_packCsr (d : Sel) (c : BitVec 12) (f : BitVec 6) :
    decode [packCsr d c f] = match decodeBase none none (packCsr d c f) with
      | none => .bad .encoding
      | some i => if i.wellFormed then .ok i else .bad .operand :=
  decode_base none none _ (by simp [litL]) (by simp)

end Sys2Proof
end

