-- ==== Sys2Proof/Laws/State.lean ====
section
/-! SUPPORT. What the updates of the state, of a group and of a thread leave alone: one lemma per field and update. -/

namespace Sys2Proof.Machine

/-! ## Replacing a group -/

@[simp] theorem State.putGroup_tick (s : State) (g : Group) : (s.putGroup g).tick = s.tick := rfl
@[simp] theorem State.putGroup_cycle (s : State) (g : Group) : (s.putGroup g).cycle = s.cycle := rfl
@[simp] theorem State.putGroup_time (s : State) (g : Group) : (s.putGroup g).time = s.time := rfl
@[simp] theorem State.putGroup_cur (s : State) (g : Group) : (s.putGroup g).cur = s.cur := rfl
@[simp] theorem State.putGroup_stalled (s : State) (g : Group) : (s.putGroup g).stalled = s.stalled := rfl
@[simp] theorem State.putGroup_fresh (s : State) (g : Group) : (s.putGroup g).fresh = s.fresh := rfl
@[simp] theorem State.putGroup_inputs (s : State) (g : Group) : (s.putGroup g).inputs = s.inputs := rfl
@[simp] theorem State.putGroup_due (s : State) (g : Group) : (s.putGroup g).due = s.due := rfl
@[simp] theorem State.putGroup_phase (s : State) (g : Group) : (s.putGroup g).phase = s.phase := rfl
@[simp] theorem State.putGroup_bootstat (s : State) (g : Group) : (s.putGroup g).bootstat = s.bootstat := rfl
@[simp] theorem State.putGroup_unused (s : State) (g : Group) : (s.putGroup g).unused = s.unused := rfl
@[simp] theorem State.putGroup_mrs (s : State) (g : Group) : (s.putGroup g).mrs = s.mrs := rfl
@[simp] theorem State.putGroup_copy (s : State) (g : Group) : (s.putGroup g).copy = s.copy := rfl
@[simp] theorem State.putGroup_copyMem (s : State) (g : Group) : (s.putGroup g).copyMem = s.copyMem := rfl
@[simp] theorem State.putGroup_trained (s : State) (g : Group) : (s.putGroup g).trained = s.trained := rfl
@[simp] theorem State.putGroup_teams (s : State) (g : Group) : (s.putGroup g).teams = s.teams := rfl
@[simp] theorem State.putGroup_launches (s : State) (g : Group) : (s.putGroup g).launches = s.launches := rfl
@[simp] theorem State.putGroup_lqNext (s : State) (g : Group) : (s.putGroup g).lqNext = s.lqNext := rfl
@[simp] theorem State.putGroup_tokens (s : State) (g : Group) : (s.putGroup g).tokens = s.tokens := rfl
@[simp] theorem State.putGroup_pipes (s : State) (g : Group) : (s.putGroup g).pipes = s.pipes := rfl
@[simp] theorem State.putGroup_cores (s : State) (g : Group) : (s.putGroup g).cores = s.cores := rfl
@[simp] theorem State.putGroup_faultq (s : State) (g : Group) : (s.putGroup g).faultq = s.faultq := rfl
@[simp] theorem State.putGroup_easel (s : State) (g : Group) : (s.putGroup g).easel = s.easel := rfl
@[simp] theorem State.putGroup_pending (s : State) (g : Group) : (s.putGroup g).pending = s.pending := rfl
@[simp] theorem State.putGroup_flights (s : State) (g : Group) : (s.putGroup g).flights = s.flights := rfl
@[simp] theorem State.putGroup_slog (s : State) (g : Group) : (s.putGroup g).slog = s.slog := rfl
@[simp] theorem State.putGroup_tlbs (s : State) (g : Group) : (s.putGroup g).tlbs = s.tlbs := rfl
@[simp] theorem State.putGroup_walks (s : State) (g : Group) : (s.putGroup g).walks = s.walks := rfl
@[simp] theorem State.putGroup_l1 (s : State) (g : Group) : (s.putGroup g).l1 = s.l1 := rfl
@[simp] theorem State.putGroup_icache (s : State) (g : Group) : (s.putGroup g).icache = s.icache := rfl
@[simp] theorem State.putGroup_prefs (s : State) (g : Group) : (s.putGroup g).prefs = s.prefs := rfl
@[simp] theorem State.putGroup_mem (s : State) (g : Group) : (s.putGroup g).mem = s.mem := rfl
@[simp] theorem State.putGroup_poisoned (s : State) (g : Group) : (s.putGroup g).poisoned = s.poisoned := rfl
@[simp] theorem State.putGroup_seen (s : State) (g : Group) : (s.putGroup g).seen = s.seen := rfl
@[simp] theorem State.putGroup_raw (s : State) (g : Group) : (s.putGroup g).raw = s.raw := rfl
@[simp] theorem State.putGroup_busy (s : State) (g : Group) : (s.putGroup g).busy = s.busy := rfl
@[simp] theorem State.putGroup_flaky (s : State) (g : Group) : (s.putGroup g).flaky = s.flaky := rfl
@[simp] theorem State.putGroup_dev (s : State) (g : Group) : (s.putGroup g).dev = s.dev := rfl
@[simp] theorem State.putGroup_pot (s : State) (g : Group) : (s.putGroup g).pot = s.pot := rfl
@[simp] theorem State.putGroup_resv (s : State) (g : Group) : (s.putGroup g).resv = s.resv := rfl
@[simp] theorem State.putGroup_hot (s : State) (g : Group) : (s.putGroup g).hot = s.hot := rfl
@[simp] theorem State.putGroup_snaps (s : State) (g : Group) : (s.putGroup g).snaps = s.snaps := rfl
@[simp] theorem State.putGroup_errs (s : State) (g : Group) : (s.putGroup g).errs = s.errs := rfl
@[simp] theorem State.putGroup_mcmds (s : State) (g : Group) : (s.putGroup g).mcmds = s.mcmds := rfl
@[simp] theorem State.putGroup_joints (s : State) (g : Group) : (s.putGroup g).joints = s.joints := rfl
@[simp] theorem State.putGroup_ccmds (s : State) (g : Group) : (s.putGroup g).ccmds = s.ccmds := rfl
@[simp] theorem State.putGroup_ncmds (s : State) (g : Group) : (s.putGroup g).ncmds = s.ncmds := rfl
@[simp] theorem State.putGroup_ringq (s : State) (g : Group) : (s.putGroup g).ringq = s.ringq := rfl
@[simp] theorem State.putGroup_wire (s : State) (g : Group) : (s.putGroup g).wire = s.wire := rfl
@[simp] theorem State.putGroup_sentq (s : State) (g : Group) : (s.putGroup g).sentq = s.sentq := rfl
@[simp] theorem State.putGroup_rx (s : State) (g : Group) : (s.putGroup g).rx = s.rx := rfl
@[simp] theorem State.putGroup_inmsgs (s : State) (g : Group) : (s.putGroup g).inmsgs = s.inmsgs := rfl
@[simp] theorem State.putGroup_rodOut (s : State) (g : Group) : (s.putGroup g).rodOut = s.rodOut := rfl
@[simp] theorem State.putGroup_rodIn (s : State) (g : Group) : (s.putGroup g).rodIn = s.rodIn := rfl
@[simp] theorem State.putGroup_sends (s : State) (g : Group) : (s.putGroup g).sends = s.sends := rfl
@[simp] theorem State.putGroup_pools (s : State) (g : Group) : (s.putGroup g).pools = s.pools := rfl
@[simp] theorem State.putGroup_tokq (s : State) (g : Group) : (s.putGroup g).tokq = s.tokq := rfl
@[simp] theorem State.putGroup_budgets (s : State) (g : Group) : (s.putGroup g).budgets = s.budgets := rfl
@[simp] theorem State.putGroup_ucnt (s : State) (g : Group) : (s.putGroup g).ucnt = s.ucnt := rfl
@[simp] theorem State.putGroup_images (s : State) (g : Group) : (s.putGroup g).images = s.images := rfl
@[simp] theorem State.putGroup_swaps (s : State) (g : Group) : (s.putGroup g).swaps = s.swaps := rfl
@[simp] theorem State.putGroup_plan (s : State) (g : Group) : (s.putGroup g).plan = s.plan := rfl
@[simp] theorem State.putGroup_down (s : State) (g : Group) : (s.putGroup g).down = s.down := rfl
@[simp] theorem State.putGroup_held (s : State) (g : Group) : (s.putGroup g).held = s.held := rfl
@[simp] theorem State.putGroup_pauses (s : State) (g : Group) : (s.putGroup g).pauses = s.pauses := rfl
@[simp] theorem State.putGroup_bells (s : State) (g : Group) : (s.putGroup g).bells = s.bells := rfl
@[simp] theorem State.putGroup_rung (s : State) (g : Group) : (s.putGroup g).rung = s.rung := rfl

/-! ## Changing the threads of a mask -/

@[simp] theorem State.mapLanes_tick (s : State) (c n : Nat) (m : DWord) (f : Thread → Thread) : (s.mapLanes c n m f).tick = s.tick := rfl
@[simp] theorem State.mapLanes_cycle (s : State) (c n : Nat) (m : DWord) (f : Thread → Thread) : (s.mapLanes c n m f).cycle = s.cycle := rfl
@[simp] theorem State.mapLanes_time (s : State) (c n : Nat) (m : DWord) (f : Thread → Thread) : (s.mapLanes c n m f).time = s.time := rfl
@[simp] theorem State.mapLanes_cur (s : State) (c n : Nat) (m : DWord) (f : Thread → Thread) : (s.mapLanes c n m f).cur = s.cur := rfl
@[simp] theorem State.mapLanes_stalled (s : State) (c n : Nat) (m : DWord) (f : Thread → Thread) : (s.mapLanes c n m f).stalled = s.stalled := rfl
@[simp] theorem State.mapLanes_fresh (s : State) (c n : Nat) (m : DWord) (f : Thread → Thread) : (s.mapLanes c n m f).fresh = s.fresh := rfl
@[simp] theorem State.mapLanes_inputs (s : State) (c n : Nat) (m : DWord) (f : Thread → Thread) : (s.mapLanes c n m f).inputs = s.inputs := rfl
@[simp] theorem State.mapLanes_due (s : State) (c n : Nat) (m : DWord) (f : Thread → Thread) : (s.mapLanes c n m f).due = s.due := rfl
@[simp] theorem State.mapLanes_phase (s : State) (c n : Nat) (m : DWord) (f : Thread → Thread) : (s.mapLanes c n m f).phase = s.phase := rfl
@[simp] theorem State.mapLanes_bootstat (s : State) (c n : Nat) (m : DWord) (f : Thread → Thread) : (s.mapLanes c n m f).bootstat = s.bootstat := rfl
@[simp] theorem State.mapLanes_unused (s : State) (c n : Nat) (m : DWord) (f : Thread → Thread) : (s.mapLanes c n m f).unused = s.unused := rfl
@[simp] theorem State.mapLanes_mrs (s : State) (c n : Nat) (m : DWord) (f : Thread → Thread) : (s.mapLanes c n m f).mrs = s.mrs := rfl
@[simp] theorem State.mapLanes_copy (s : State) (c n : Nat) (m : DWord) (f : Thread → Thread) : (s.mapLanes c n m f).copy = s.copy := rfl
@[simp] theorem State.mapLanes_copyMem (s : State) (c n : Nat) (m : DWord) (f : Thread → Thread) : (s.mapLanes c n m f).copyMem = s.copyMem := rfl
@[simp] theorem State.mapLanes_trained (s : State) (c n : Nat) (m : DWord) (f : Thread → Thread) : (s.mapLanes c n m f).trained = s.trained := rfl
@[simp] theorem State.mapLanes_teams (s : State) (c n : Nat) (m : DWord) (f : Thread → Thread) : (s.mapLanes c n m f).teams = s.teams := rfl
@[simp] theorem State.mapLanes_launches (s : State) (c n : Nat) (m : DWord) (f : Thread → Thread) : (s.mapLanes c n m f).launches = s.launches := rfl
@[simp] theorem State.mapLanes_lqNext (s : State) (c n : Nat) (m : DWord) (f : Thread → Thread) : (s.mapLanes c n m f).lqNext = s.lqNext := rfl
@[simp] theorem State.mapLanes_tokens (s : State) (c n : Nat) (m : DWord) (f : Thread → Thread) : (s.mapLanes c n m f).tokens = s.tokens := rfl
@[simp] theorem State.mapLanes_pipes (s : State) (c n : Nat) (m : DWord) (f : Thread → Thread) : (s.mapLanes c n m f).pipes = s.pipes := rfl
@[simp] theorem State.mapLanes_cores (s : State) (c n : Nat) (m : DWord) (f : Thread → Thread) : (s.mapLanes c n m f).cores = s.cores := rfl
@[simp] theorem State.mapLanes_faultq (s : State) (c n : Nat) (m : DWord) (f : Thread → Thread) : (s.mapLanes c n m f).faultq = s.faultq := rfl
@[simp] theorem State.mapLanes_easel (s : State) (c n : Nat) (m : DWord) (f : Thread → Thread) : (s.mapLanes c n m f).easel = s.easel := rfl
@[simp] theorem State.mapLanes_pending (s : State) (c n : Nat) (m : DWord) (f : Thread → Thread) : (s.mapLanes c n m f).pending = s.pending := rfl
@[simp] theorem State.mapLanes_flights (s : State) (c n : Nat) (m : DWord) (f : Thread → Thread) : (s.mapLanes c n m f).flights = s.flights := rfl
@[simp] theorem State.mapLanes_slog (s : State) (c n : Nat) (m : DWord) (f : Thread → Thread) : (s.mapLanes c n m f).slog = s.slog := rfl
@[simp] theorem State.mapLanes_tlbs (s : State) (c n : Nat) (m : DWord) (f : Thread → Thread) : (s.mapLanes c n m f).tlbs = s.tlbs := rfl
@[simp] theorem State.mapLanes_walks (s : State) (c n : Nat) (m : DWord) (f : Thread → Thread) : (s.mapLanes c n m f).walks = s.walks := rfl
@[simp] theorem State.mapLanes_l1 (s : State) (c n : Nat) (m : DWord) (f : Thread → Thread) : (s.mapLanes c n m f).l1 = s.l1 := rfl
@[simp] theorem State.mapLanes_icache (s : State) (c n : Nat) (m : DWord) (f : Thread → Thread) : (s.mapLanes c n m f).icache = s.icache := rfl
@[simp] theorem State.mapLanes_prefs (s : State) (c n : Nat) (m : DWord) (f : Thread → Thread) : (s.mapLanes c n m f).prefs = s.prefs := rfl
@[simp] theorem State.mapLanes_mem (s : State) (c n : Nat) (m : DWord) (f : Thread → Thread) : (s.mapLanes c n m f).mem = s.mem := rfl
@[simp] theorem State.mapLanes_poisoned (s : State) (c n : Nat) (m : DWord) (f : Thread → Thread) : (s.mapLanes c n m f).poisoned = s.poisoned := rfl
@[simp] theorem State.mapLanes_seen (s : State) (c n : Nat) (m : DWord) (f : Thread → Thread) : (s.mapLanes c n m f).seen = s.seen := rfl
@[simp] theorem State.mapLanes_raw (s : State) (c n : Nat) (m : DWord) (f : Thread → Thread) : (s.mapLanes c n m f).raw = s.raw := rfl
@[simp] theorem State.mapLanes_busy (s : State) (c n : Nat) (m : DWord) (f : Thread → Thread) : (s.mapLanes c n m f).busy = s.busy := rfl
@[simp] theorem State.mapLanes_flaky (s : State) (c n : Nat) (m : DWord) (f : Thread → Thread) : (s.mapLanes c n m f).flaky = s.flaky := rfl
@[simp] theorem State.mapLanes_dev (s : State) (c n : Nat) (m : DWord) (f : Thread → Thread) : (s.mapLanes c n m f).dev = s.dev := rfl
@[simp] theorem State.mapLanes_pot (s : State) (c n : Nat) (m : DWord) (f : Thread → Thread) : (s.mapLanes c n m f).pot = s.pot := rfl
@[simp] theorem State.mapLanes_resv (s : State) (c n : Nat) (m : DWord) (f : Thread → Thread) : (s.mapLanes c n m f).resv = s.resv := rfl
@[simp] theorem State.mapLanes_hot (s : State) (c n : Nat) (m : DWord) (f : Thread → Thread) : (s.mapLanes c n m f).hot = s.hot := rfl
@[simp] theorem State.mapLanes_snaps (s : State) (c n : Nat) (m : DWord) (f : Thread → Thread) : (s.mapLanes c n m f).snaps = s.snaps := rfl
@[simp] theorem State.mapLanes_errs (s : State) (c n : Nat) (m : DWord) (f : Thread → Thread) : (s.mapLanes c n m f).errs = s.errs := rfl
@[simp] theorem State.mapLanes_mcmds (s : State) (c n : Nat) (m : DWord) (f : Thread → Thread) : (s.mapLanes c n m f).mcmds = s.mcmds := rfl
@[simp] theorem State.mapLanes_joints (s : State) (c n : Nat) (m : DWord) (f : Thread → Thread) : (s.mapLanes c n m f).joints = s.joints := rfl
@[simp] theorem State.mapLanes_ccmds (s : State) (c n : Nat) (m : DWord) (f : Thread → Thread) : (s.mapLanes c n m f).ccmds = s.ccmds := rfl
@[simp] theorem State.mapLanes_ncmds (s : State) (c n : Nat) (m : DWord) (f : Thread → Thread) : (s.mapLanes c n m f).ncmds = s.ncmds := rfl
@[simp] theorem State.mapLanes_ringq (s : State) (c n : Nat) (m : DWord) (f : Thread → Thread) : (s.mapLanes c n m f).ringq = s.ringq := rfl
@[simp] theorem State.mapLanes_wire (s : State) (c n : Nat) (m : DWord) (f : Thread → Thread) : (s.mapLanes c n m f).wire = s.wire := rfl
@[simp] theorem State.mapLanes_sentq (s : State) (c n : Nat) (m : DWord) (f : Thread → Thread) : (s.mapLanes c n m f).sentq = s.sentq := rfl
@[simp] theorem State.mapLanes_rx (s : State) (c n : Nat) (m : DWord) (f : Thread → Thread) : (s.mapLanes c n m f).rx = s.rx := rfl
@[simp] theorem State.mapLanes_inmsgs (s : State) (c n : Nat) (m : DWord) (f : Thread → Thread) : (s.mapLanes c n m f).inmsgs = s.inmsgs := rfl
@[simp] theorem State.mapLanes_rodOut (s : State) (c n : Nat) (m : DWord) (f : Thread → Thread) : (s.mapLanes c n m f).rodOut = s.rodOut := rfl
@[simp] theorem State.mapLanes_rodIn (s : State) (c n : Nat) (m : DWord) (f : Thread → Thread) : (s.mapLanes c n m f).rodIn = s.rodIn := rfl
@[simp] theorem State.mapLanes_sends (s : State) (c n : Nat) (m : DWord) (f : Thread → Thread) : (s.mapLanes c n m f).sends = s.sends := rfl
@[simp] theorem State.mapLanes_pools (s : State) (c n : Nat) (m : DWord) (f : Thread → Thread) : (s.mapLanes c n m f).pools = s.pools := rfl
@[simp] theorem State.mapLanes_tokq (s : State) (c n : Nat) (m : DWord) (f : Thread → Thread) : (s.mapLanes c n m f).tokq = s.tokq := rfl
@[simp] theorem State.mapLanes_budgets (s : State) (c n : Nat) (m : DWord) (f : Thread → Thread) : (s.mapLanes c n m f).budgets = s.budgets := rfl
@[simp] theorem State.mapLanes_ucnt (s : State) (c n : Nat) (m : DWord) (f : Thread → Thread) : (s.mapLanes c n m f).ucnt = s.ucnt := rfl
@[simp] theorem State.mapLanes_images (s : State) (c n : Nat) (m : DWord) (f : Thread → Thread) : (s.mapLanes c n m f).images = s.images := rfl
@[simp] theorem State.mapLanes_swaps (s : State) (c n : Nat) (m : DWord) (f : Thread → Thread) : (s.mapLanes c n m f).swaps = s.swaps := rfl
@[simp] theorem State.mapLanes_plan (s : State) (c n : Nat) (m : DWord) (f : Thread → Thread) : (s.mapLanes c n m f).plan = s.plan := rfl
@[simp] theorem State.mapLanes_down (s : State) (c n : Nat) (m : DWord) (f : Thread → Thread) : (s.mapLanes c n m f).down = s.down := rfl
@[simp] theorem State.mapLanes_held (s : State) (c n : Nat) (m : DWord) (f : Thread → Thread) : (s.mapLanes c n m f).held = s.held := rfl
@[simp] theorem State.mapLanes_pauses (s : State) (c n : Nat) (m : DWord) (f : Thread → Thread) : (s.mapLanes c n m f).pauses = s.pauses := rfl
@[simp] theorem State.mapLanes_bells (s : State) (c n : Nat) (m : DWord) (f : Thread → Thread) : (s.mapLanes c n m f).bells = s.bells := rfl
@[simp] theorem State.mapLanes_rung (s : State) (c n : Nat) (m : DWord) (f : Thread → Thread) : (s.mapLanes c n m f).rung = s.rung := rfl

/-! ## Replacing a team -/

@[simp] theorem State.setTeam_tick (s : State) (x : Team) : (s.setTeam x).tick = s.tick := rfl
@[simp] theorem State.setTeam_cycle (s : State) (x : Team) : (s.setTeam x).cycle = s.cycle := rfl
@[simp] theorem State.setTeam_time (s : State) (x : Team) : (s.setTeam x).time = s.time := rfl
@[simp] theorem State.setTeam_cur (s : State) (x : Team) : (s.setTeam x).cur = s.cur := rfl
@[simp] theorem State.setTeam_stalled (s : State) (x : Team) : (s.setTeam x).stalled = s.stalled := rfl
@[simp] theorem State.setTeam_fresh (s : State) (x : Team) : (s.setTeam x).fresh = s.fresh := rfl
@[simp] theorem State.setTeam_inputs (s : State) (x : Team) : (s.setTeam x).inputs = s.inputs := rfl
@[simp] theorem State.setTeam_due (s : State) (x : Team) : (s.setTeam x).due = s.due := rfl
@[simp] theorem State.setTeam_phase (s : State) (x : Team) : (s.setTeam x).phase = s.phase := rfl
@[simp] theorem State.setTeam_bootstat (s : State) (x : Team) : (s.setTeam x).bootstat = s.bootstat := rfl
@[simp] theorem State.setTeam_unused (s : State) (x : Team) : (s.setTeam x).unused = s.unused := rfl
@[simp] theorem State.setTeam_mrs (s : State) (x : Team) : (s.setTeam x).mrs = s.mrs := rfl
@[simp] theorem State.setTeam_copy (s : State) (x : Team) : (s.setTeam x).copy = s.copy := rfl
@[simp] theorem State.setTeam_copyMem (s : State) (x : Team) : (s.setTeam x).copyMem = s.copyMem := rfl
@[simp] theorem State.setTeam_trained (s : State) (x : Team) : (s.setTeam x).trained = s.trained := rfl
@[simp] theorem State.setTeam_groups (s : State) (x : Team) : (s.setTeam x).groups = s.groups := rfl
@[simp] theorem State.setTeam_launches (s : State) (x : Team) : (s.setTeam x).launches = s.launches := rfl
@[simp] theorem State.setTeam_lqNext (s : State) (x : Team) : (s.setTeam x).lqNext = s.lqNext := rfl
@[simp] theorem State.setTeam_tokens (s : State) (x : Team) : (s.setTeam x).tokens = s.tokens := rfl
@[simp] theorem State.setTeam_pipes (s : State) (x : Team) : (s.setTeam x).pipes = s.pipes := rfl
@[simp] theorem State.setTeam_cores (s : State) (x : Team) : (s.setTeam x).cores = s.cores := rfl
@[simp] theorem State.setTeam_faultq (s : State) (x : Team) : (s.setTeam x).faultq = s.faultq := rfl
@[simp] theorem State.setTeam_easel (s : State) (x : Team) : (s.setTeam x).easel = s.easel := rfl
@[simp] theorem State.setTeam_pending (s : State) (x : Team) : (s.setTeam x).pending = s.pending := rfl
@[simp] theorem State.setTeam_flights (s : State) (x : Team) : (s.setTeam x).flights = s.flights := rfl
@[simp] theorem State.setTeam_slog (s : State) (x : Team) : (s.setTeam x).slog = s.slog := rfl
@[simp] theorem State.setTeam_tlbs (s : State) (x : Team) : (s.setTeam x).tlbs = s.tlbs := rfl
@[simp] theorem State.setTeam_walks (s : State) (x : Team) : (s.setTeam x).walks = s.walks := rfl
@[simp] theorem State.setTeam_l1 (s : State) (x : Team) : (s.setTeam x).l1 = s.l1 := rfl
@[simp] theorem State.setTeam_icache (s : State) (x : Team) : (s.setTeam x).icache = s.icache := rfl
@[simp] theorem State.setTeam_prefs (s : State) (x : Team) : (s.setTeam x).prefs = s.prefs := rfl
@[simp] theorem State.setTeam_mem (s : State) (x : Team) : (s.setTeam x).mem = s.mem := rfl
@[simp] theorem State.setTeam_poisoned (s : State) (x : Team) : (s.setTeam x).poisoned = s.poisoned := rfl
@[simp] theorem State.setTeam_seen (s : State) (x : Team) : (s.setTeam x).seen = s.seen := rfl
@[simp] theorem State.setTeam_raw (s : State) (x : Team) : (s.setTeam x).raw = s.raw := rfl
@[simp] theorem State.setTeam_busy (s : State) (x : Team) : (s.setTeam x).busy = s.busy := rfl
@[simp] theorem State.setTeam_flaky (s : State) (x : Team) : (s.setTeam x).flaky = s.flaky := rfl
@[simp] theorem State.setTeam_dev (s : State) (x : Team) : (s.setTeam x).dev = s.dev := rfl
@[simp] theorem State.setTeam_pot (s : State) (x : Team) : (s.setTeam x).pot = s.pot := rfl
@[simp] theorem State.setTeam_resv (s : State) (x : Team) : (s.setTeam x).resv = s.resv := rfl
@[simp] theorem State.setTeam_hot (s : State) (x : Team) : (s.setTeam x).hot = s.hot := rfl
@[simp] theorem State.setTeam_snaps (s : State) (x : Team) : (s.setTeam x).snaps = s.snaps := rfl
@[simp] theorem State.setTeam_errs (s : State) (x : Team) : (s.setTeam x).errs = s.errs := rfl
@[simp] theorem State.setTeam_mcmds (s : State) (x : Team) : (s.setTeam x).mcmds = s.mcmds := rfl
@[simp] theorem State.setTeam_joints (s : State) (x : Team) : (s.setTeam x).joints = s.joints := rfl
@[simp] theorem State.setTeam_ccmds (s : State) (x : Team) : (s.setTeam x).ccmds = s.ccmds := rfl
@[simp] theorem State.setTeam_ncmds (s : State) (x : Team) : (s.setTeam x).ncmds = s.ncmds := rfl
@[simp] theorem State.setTeam_ringq (s : State) (x : Team) : (s.setTeam x).ringq = s.ringq := rfl
@[simp] theorem State.setTeam_wire (s : State) (x : Team) : (s.setTeam x).wire = s.wire := rfl
@[simp] theorem State.setTeam_sentq (s : State) (x : Team) : (s.setTeam x).sentq = s.sentq := rfl
@[simp] theorem State.setTeam_rx (s : State) (x : Team) : (s.setTeam x).rx = s.rx := rfl
@[simp] theorem State.setTeam_inmsgs (s : State) (x : Team) : (s.setTeam x).inmsgs = s.inmsgs := rfl
@[simp] theorem State.setTeam_rodOut (s : State) (x : Team) : (s.setTeam x).rodOut = s.rodOut := rfl
@[simp] theorem State.setTeam_rodIn (s : State) (x : Team) : (s.setTeam x).rodIn = s.rodIn := rfl
@[simp] theorem State.setTeam_sends (s : State) (x : Team) : (s.setTeam x).sends = s.sends := rfl
@[simp] theorem State.setTeam_pools (s : State) (x : Team) : (s.setTeam x).pools = s.pools := rfl
@[simp] theorem State.setTeam_tokq (s : State) (x : Team) : (s.setTeam x).tokq = s.tokq := rfl
@[simp] theorem State.setTeam_budgets (s : State) (x : Team) : (s.setTeam x).budgets = s.budgets := rfl
@[simp] theorem State.setTeam_ucnt (s : State) (x : Team) : (s.setTeam x).ucnt = s.ucnt := rfl
@[simp] theorem State.setTeam_images (s : State) (x : Team) : (s.setTeam x).images = s.images := rfl
@[simp] theorem State.setTeam_swaps (s : State) (x : Team) : (s.setTeam x).swaps = s.swaps := rfl
@[simp] theorem State.setTeam_plan (s : State) (x : Team) : (s.setTeam x).plan = s.plan := rfl
@[simp] theorem State.setTeam_down (s : State) (x : Team) : (s.setTeam x).down = s.down := rfl
@[simp] theorem State.setTeam_held (s : State) (x : Team) : (s.setTeam x).held = s.held := rfl
@[simp] theorem State.setTeam_pauses (s : State) (x : Team) : (s.setTeam x).pauses = s.pauses := rfl
@[simp] theorem State.setTeam_bells (s : State) (x : Team) : (s.setTeam x).bells = s.bells := rfl
@[simp] theorem State.setTeam_rung (s : State) (x : Team) : (s.setTeam x).rung = s.rung := rfl

/-! ## Replacing a launch -/

@[simp] theorem State.setLaunch_tick (s : State) (x : Launch) : (s.setLaunch x).tick = s.tick := rfl
@[simp] theorem State.setLaunch_cycle (s : State) (x : Launch) : (s.setLaunch x).cycle = s.cycle := rfl
@[simp] theorem State.setLaunch_time (s : State) (x : Launch) : (s.setLaunch x).time = s.time := rfl
@[simp] theorem State.setLaunch_cur (s : State) (x : Launch) : (s.setLaunch x).cur = s.cur := rfl
@[simp] theorem State.setLaunch_stalled (s : State) (x : Launch) : (s.setLaunch x).stalled = s.stalled := rfl
@[simp] theorem State.setLaunch_fresh (s : State) (x : Launch) : (s.setLaunch x).fresh = s.fresh := rfl
@[simp] theorem State.setLaunch_inputs (s : State) (x : Launch) : (s.setLaunch x).inputs = s.inputs := rfl
@[simp] theorem State.setLaunch_due (s : State) (x : Launch) : (s.setLaunch x).due = s.due := rfl
@[simp] theorem State.setLaunch_phase (s : State) (x : Launch) : (s.setLaunch x).phase = s.phase := rfl
@[simp] theorem State.setLaunch_bootstat (s : State) (x : Launch) : (s.setLaunch x).bootstat = s.bootstat := rfl
@[simp] theorem State.setLaunch_unused (s : State) (x : Launch) : (s.setLaunch x).unused = s.unused := rfl
@[simp] theorem State.setLaunch_mrs (s : State) (x : Launch) : (s.setLaunch x).mrs = s.mrs := rfl
@[simp] theorem State.setLaunch_copy (s : State) (x : Launch) : (s.setLaunch x).copy = s.copy := rfl
@[simp] theorem State.setLaunch_copyMem (s : State) (x : Launch) : (s.setLaunch x).copyMem = s.copyMem := rfl
@[simp] theorem State.setLaunch_trained (s : State) (x : Launch) : (s.setLaunch x).trained = s.trained := rfl
@[simp] theorem State.setLaunch_groups (s : State) (x : Launch) : (s.setLaunch x).groups = s.groups := rfl
@[simp] theorem State.setLaunch_teams (s : State) (x : Launch) : (s.setLaunch x).teams = s.teams := rfl
@[simp] theorem State.setLaunch_lqNext (s : State) (x : Launch) : (s.setLaunch x).lqNext = s.lqNext := rfl
@[simp] theorem State.setLaunch_tokens (s : State) (x : Launch) : (s.setLaunch x).tokens = s.tokens := rfl
@[simp] theorem State.setLaunch_pipes (s : State) (x : Launch) : (s.setLaunch x).pipes = s.pipes := rfl
@[simp] theorem State.setLaunch_cores (s : State) (x : Launch) : (s.setLaunch x).cores = s.cores := rfl
@[simp] theorem State.setLaunch_faultq (s : State) (x : Launch) : (s.setLaunch x).faultq = s.faultq := rfl
@[simp] theorem State.setLaunch_easel (s : State) (x : Launch) : (s.setLaunch x).easel = s.easel := rfl
@[simp] theorem State.setLaunch_pending (s : State) (x : Launch) : (s.setLaunch x).pending = s.pending := rfl
@[simp] theorem State.setLaunch_flights (s : State) (x : Launch) : (s.setLaunch x).flights = s.flights := rfl
@[simp] theorem State.setLaunch_slog (s : State) (x : Launch) : (s.setLaunch x).slog = s.slog := rfl
@[simp] theorem State.setLaunch_tlbs (s : State) (x : Launch) : (s.setLaunch x).tlbs = s.tlbs := rfl
@[simp] theorem State.setLaunch_walks (s : State) (x : Launch) : (s.setLaunch x).walks = s.walks := rfl
@[simp] theorem State.setLaunch_l1 (s : State) (x : Launch) : (s.setLaunch x).l1 = s.l1 := rfl
@[simp] theorem State.setLaunch_icache (s : State) (x : Launch) : (s.setLaunch x).icache = s.icache := rfl
@[simp] theorem State.setLaunch_prefs (s : State) (x : Launch) : (s.setLaunch x).prefs = s.prefs := rfl
@[simp] theorem State.setLaunch_mem (s : State) (x : Launch) : (s.setLaunch x).mem = s.mem := rfl
@[simp] theorem State.setLaunch_poisoned (s : State) (x : Launch) : (s.setLaunch x).poisoned = s.poisoned := rfl
@[simp] theorem State.setLaunch_seen (s : State) (x : Launch) : (s.setLaunch x).seen = s.seen := rfl
@[simp] theorem State.setLaunch_raw (s : State) (x : Launch) : (s.setLaunch x).raw = s.raw := rfl
@[simp] theorem State.setLaunch_busy (s : State) (x : Launch) : (s.setLaunch x).busy = s.busy := rfl
@[simp] theorem State.setLaunch_flaky (s : State) (x : Launch) : (s.setLaunch x).flaky = s.flaky := rfl
@[simp] theorem State.setLaunch_dev (s : State) (x : Launch) : (s.setLaunch x).dev = s.dev := rfl
@[simp] theorem State.setLaunch_pot (s : State) (x : Launch) : (s.setLaunch x).pot = s.pot := rfl
@[simp] theorem State.setLaunch_resv (s : State) (x : Launch) : (s.setLaunch x).resv = s.resv := rfl
@[simp] theorem State.setLaunch_hot (s : State) (x : Launch) : (s.setLaunch x).hot = s.hot := rfl
@[simp] theorem State.setLaunch_snaps (s : State) (x : Launch) : (s.setLaunch x).snaps = s.snaps := rfl
@[simp] theorem State.setLaunch_errs (s : State) (x : Launch) : (s.setLaunch x).errs = s.errs := rfl
@[simp] theorem State.setLaunch_mcmds (s : State) (x : Launch) : (s.setLaunch x).mcmds = s.mcmds := rfl
@[simp] theorem State.setLaunch_joints (s : State) (x : Launch) : (s.setLaunch x).joints = s.joints := rfl
@[simp] theorem State.setLaunch_ccmds (s : State) (x : Launch) : (s.setLaunch x).ccmds = s.ccmds := rfl
@[simp] theorem State.setLaunch_ncmds (s : State) (x : Launch) : (s.setLaunch x).ncmds = s.ncmds := rfl
@[simp] theorem State.setLaunch_ringq (s : State) (x : Launch) : (s.setLaunch x).ringq = s.ringq := rfl
@[simp] theorem State.setLaunch_wire (s : State) (x : Launch) : (s.setLaunch x).wire = s.wire := rfl
@[simp] theorem State.setLaunch_sentq (s : State) (x : Launch) : (s.setLaunch x).sentq = s.sentq := rfl
@[simp] theorem State.setLaunch_rx (s : State) (x : Launch) : (s.setLaunch x).rx = s.rx := rfl
@[simp] theorem State.setLaunch_inmsgs (s : State) (x : Launch) : (s.setLaunch x).inmsgs = s.inmsgs := rfl
@[simp] theorem State.setLaunch_rodOut (s : State) (x : Launch) : (s.setLaunch x).rodOut = s.rodOut := rfl
@[simp] theorem State.setLaunch_rodIn (s : State) (x : Launch) : (s.setLaunch x).rodIn = s.rodIn := rfl
@[simp] theorem State.setLaunch_sends (s : State) (x : Launch) : (s.setLaunch x).sends = s.sends := rfl
@[simp] theorem State.setLaunch_pools (s : State) (x : Launch) : (s.setLaunch x).pools = s.pools := rfl
@[simp] theorem State.setLaunch_tokq (s : State) (x : Launch) : (s.setLaunch x).tokq = s.tokq := rfl
@[simp] theorem State.setLaunch_budgets (s : State) (x : Launch) : (s.setLaunch x).budgets = s.budgets := rfl
@[simp] theorem State.setLaunch_ucnt (s : State) (x : Launch) : (s.setLaunch x).ucnt = s.ucnt := rfl
@[simp] theorem State.setLaunch_images (s : State) (x : Launch) : (s.setLaunch x).images = s.images := rfl
@[simp] theorem State.setLaunch_swaps (s : State) (x : Launch) : (s.setLaunch x).swaps = s.swaps := rfl
@[simp] theorem State.setLaunch_plan (s : State) (x : Launch) : (s.setLaunch x).plan = s.plan := rfl
@[simp] theorem State.setLaunch_down (s : State) (x : Launch) : (s.setLaunch x).down = s.down := rfl
@[simp] theorem State.setLaunch_held (s : State) (x : Launch) : (s.setLaunch x).held = s.held := rfl
@[simp] theorem State.setLaunch_pauses (s : State) (x : Launch) : (s.setLaunch x).pauses = s.pauses := rfl
@[simp] theorem State.setLaunch_bells (s : State) (x : Launch) : (s.setLaunch x).bells = s.bells := rfl
@[simp] theorem State.setLaunch_rung (s : State) (x : Launch) : (s.setLaunch x).rung = s.rung := rfl

/-! ## Replacing a core's registers -/

@[simp] theorem State.setCore_tick (s : State) (x : CoreRec) : (s.setCore x).tick = s.tick := rfl
@[simp] theorem State.setCore_cycle (s : State) (x : CoreRec) : (s.setCore x).cycle = s.cycle := rfl
@[simp] theorem State.setCore_time (s : State) (x : CoreRec) : (s.setCore x).time = s.time := rfl
@[simp] theorem State.setCore_cur (s : State) (x : CoreRec) : (s.setCore x).cur = s.cur := rfl
@[simp] theorem State.setCore_stalled (s : State) (x : CoreRec) : (s.setCore x).stalled = s.stalled := rfl
@[simp] theorem State.setCore_fresh (s : State) (x : CoreRec) : (s.setCore x).fresh = s.fresh := rfl
@[simp] theorem State.setCore_inputs (s : State) (x : CoreRec) : (s.setCore x).inputs = s.inputs := rfl
@[simp] theorem State.setCore_due (s : State) (x : CoreRec) : (s.setCore x).due = s.due := rfl
@[simp] theorem State.setCore_phase (s : State) (x : CoreRec) : (s.setCore x).phase = s.phase := rfl
@[simp] theorem State.setCore_bootstat (s : State) (x : CoreRec) : (s.setCore x).bootstat = s.bootstat := rfl
@[simp] theorem State.setCore_unused (s : State) (x : CoreRec) : (s.setCore x).unused = s.unused := rfl
@[simp] theorem State.setCore_mrs (s : State) (x : CoreRec) : (s.setCore x).mrs = s.mrs := rfl
@[simp] theorem State.setCore_copy (s : State) (x : CoreRec) : (s.setCore x).copy = s.copy := rfl
@[simp] theorem State.setCore_copyMem (s : State) (x : CoreRec) : (s.setCore x).copyMem = s.copyMem := rfl
@[simp] theorem State.setCore_trained (s : State) (x : CoreRec) : (s.setCore x).trained = s.trained := rfl
@[simp] theorem State.setCore_groups (s : State) (x : CoreRec) : (s.setCore x).groups = s.groups := rfl
@[simp] theorem State.setCore_teams (s : State) (x : CoreRec) : (s.setCore x).teams = s.teams := rfl
@[simp] theorem State.setCore_launches (s : State) (x : CoreRec) : (s.setCore x).launches = s.launches := rfl
@[simp] theorem State.setCore_lqNext (s : State) (x : CoreRec) : (s.setCore x).lqNext = s.lqNext := rfl
@[simp] theorem State.setCore_tokens (s : State) (x : CoreRec) : (s.setCore x).tokens = s.tokens := rfl
@[simp] theorem State.setCore_pipes (s : State) (x : CoreRec) : (s.setCore x).pipes = s.pipes := rfl
@[simp] theorem State.setCore_faultq (s : State) (x : CoreRec) : (s.setCore x).faultq = s.faultq := rfl
@[simp] theorem State.setCore_easel (s : State) (x : CoreRec) : (s.setCore x).easel = s.easel := rfl
@[simp] theorem State.setCore_pending (s : State) (x : CoreRec) : (s.setCore x).pending = s.pending := rfl
@[simp] theorem State.setCore_flights (s : State) (x : CoreRec) : (s.setCore x).flights = s.flights := rfl
@[simp] theorem State.setCore_slog (s : State) (x : CoreRec) : (s.setCore x).slog = s.slog := rfl
@[simp] theorem State.setCore_tlbs (s : State) (x : CoreRec) : (s.setCore x).tlbs = s.tlbs := rfl
@[simp] theorem State.setCore_walks (s : State) (x : CoreRec) : (s.setCore x).walks = s.walks := rfl
@[simp] theorem State.setCore_l1 (s : State) (x : CoreRec) : (s.setCore x).l1 = s.l1 := rfl
@[simp] theorem State.setCore_icache (s : State) (x : CoreRec) : (s.setCore x).icache = s.icache := rfl
@[simp] theorem State.setCore_prefs (s : State) (x : CoreRec) : (s.setCore x).prefs = s.prefs := rfl
@[simp] theorem State.setCore_mem (s : State) (x : CoreRec) : (s.setCore x).mem = s.mem := rfl
@[simp] theorem State.setCore_poisoned (s : State) (x : CoreRec) : (s.setCore x).poisoned = s.poisoned := rfl
@[simp] theorem State.setCore_seen (s : State) (x : CoreRec) : (s.setCore x).seen = s.seen := rfl
@[simp] theorem State.setCore_raw (s : State) (x : CoreRec) : (s.setCore x).raw = s.raw := rfl
@[simp] theorem State.setCore_busy (s : State) (x : CoreRec) : (s.setCore x).busy = s.busy := rfl
@[simp] theorem State.setCore_flaky (s : State) (x : CoreRec) : (s.setCore x).flaky = s.flaky := rfl
@[simp] theorem State.setCore_dev (s : State) (x : CoreRec) : (s.setCore x).dev = s.dev := rfl
@[simp] theorem State.setCore_pot (s : State) (x : CoreRec) : (s.setCore x).pot = s.pot := rfl
@[simp] theorem State.setCore_resv (s : State) (x : CoreRec) : (s.setCore x).resv = s.resv := rfl
@[simp] theorem State.setCore_hot (s : State) (x : CoreRec) : (s.setCore x).hot = s.hot := rfl
@[simp] theorem State.setCore_snaps (s : State) (x : CoreRec) : (s.setCore x).snaps = s.snaps := rfl
@[simp] theorem State.setCore_errs (s : State) (x : CoreRec) : (s.setCore x).errs = s.errs := rfl
@[simp] theorem State.setCore_mcmds (s : State) (x : CoreRec) : (s.setCore x).mcmds = s.mcmds := rfl
@[simp] theorem State.setCore_joints (s : State) (x : CoreRec) : (s.setCore x).joints = s.joints := rfl
@[simp] theorem State.setCore_ccmds (s : State) (x : CoreRec) : (s.setCore x).ccmds = s.ccmds := rfl
@[simp] theorem State.setCore_ncmds (s : State) (x : CoreRec) : (s.setCore x).ncmds = s.ncmds := rfl
@[simp] theorem State.setCore_ringq (s : State) (x : CoreRec) : (s.setCore x).ringq = s.ringq := rfl
@[simp] theorem State.setCore_wire (s : State) (x : CoreRec) : (s.setCore x).wire = s.wire := rfl
@[simp] theorem State.setCore_sentq (s : State) (x : CoreRec) : (s.setCore x).sentq = s.sentq := rfl
@[simp] theorem State.setCore_rx (s : State) (x : CoreRec) : (s.setCore x).rx = s.rx := rfl
@[simp] theorem State.setCore_inmsgs (s : State) (x : CoreRec) : (s.setCore x).inmsgs = s.inmsgs := rfl
@[simp] theorem State.setCore_rodOut (s : State) (x : CoreRec) : (s.setCore x).rodOut = s.rodOut := rfl
@[simp] theorem State.setCore_rodIn (s : State) (x : CoreRec) : (s.setCore x).rodIn = s.rodIn := rfl
@[simp] theorem State.setCore_sends (s : State) (x : CoreRec) : (s.setCore x).sends = s.sends := rfl
@[simp] theorem State.setCore_pools (s : State) (x : CoreRec) : (s.setCore x).pools = s.pools := rfl
@[simp] theorem State.setCore_tokq (s : State) (x : CoreRec) : (s.setCore x).tokq = s.tokq := rfl
@[simp] theorem State.setCore_budgets (s : State) (x : CoreRec) : (s.setCore x).budgets = s.budgets := rfl
@[simp] theorem State.setCore_ucnt (s : State) (x : CoreRec) : (s.setCore x).ucnt = s.ucnt := rfl
@[simp] theorem State.setCore_images (s : State) (x : CoreRec) : (s.setCore x).images = s.images := rfl
@[simp] theorem State.setCore_swaps (s : State) (x : CoreRec) : (s.setCore x).swaps = s.swaps := rfl
@[simp] theorem State.setCore_plan (s : State) (x : CoreRec) : (s.setCore x).plan = s.plan := rfl
@[simp] theorem State.setCore_down (s : State) (x : CoreRec) : (s.setCore x).down = s.down := rfl
@[simp] theorem State.setCore_held (s : State) (x : CoreRec) : (s.setCore x).held = s.held := rfl
@[simp] theorem State.setCore_pauses (s : State) (x : CoreRec) : (s.setCore x).pauses = s.pauses := rfl
@[simp] theorem State.setCore_bells (s : State) (x : CoreRec) : (s.setCore x).bells = s.bells := rfl
@[simp] theorem State.setCore_rung (s : State) (x : CoreRec) : (s.setCore x).rung = s.rung := rfl

/-! ## Setting a register of the device window -/

@[simp] theorem State.devSet_tick (s : State) (o : Nat) (v : DWord) : (s.devSet o v).tick = s.tick := rfl
@[simp] theorem State.devSet_cycle (s : State) (o : Nat) (v : DWord) : (s.devSet o v).cycle = s.cycle := rfl
@[simp] theorem State.devSet_time (s : State) (o : Nat) (v : DWord) : (s.devSet o v).time = s.time := rfl
@[simp] theorem State.devSet_cur (s : State) (o : Nat) (v : DWord) : (s.devSet o v).cur = s.cur := rfl
@[simp] theorem State.devSet_stalled (s : State) (o : Nat) (v : DWord) : (s.devSet o v).stalled = s.stalled := rfl
@[simp] theorem State.devSet_fresh (s : State) (o : Nat) (v : DWord) : (s.devSet o v).fresh = s.fresh := rfl
@[simp] theorem State.devSet_inputs (s : State) (o : Nat) (v : DWord) : (s.devSet o v).inputs = s.inputs := rfl
@[simp] theorem State.devSet_due (s : State) (o : Nat) (v : DWord) : (s.devSet o v).due = s.due := rfl
@[simp] theorem State.devSet_phase (s : State) (o : Nat) (v : DWord) : (s.devSet o v).phase = s.phase := rfl
@[simp] theorem State.devSet_bootstat (s : State) (o : Nat) (v : DWord) : (s.devSet o v).bootstat = s.bootstat := rfl
@[simp] theorem State.devSet_unused (s : State) (o : Nat) (v : DWord) : (s.devSet o v).unused = s.unused := rfl
@[simp] theorem State.devSet_mrs (s : State) (o : Nat) (v : DWord) : (s.devSet o v).mrs = s.mrs := rfl
@[simp] theorem State.devSet_copy (s : State) (o : Nat) (v : DWord) : (s.devSet o v).copy = s.copy := rfl
@[simp] theorem State.devSet_copyMem (s : State) (o : Nat) (v : DWord) : (s.devSet o v).copyMem = s.copyMem := rfl
@[simp] theorem State.devSet_trained (s : State) (o : Nat) (v : DWord) : (s.devSet o v).trained = s.trained := rfl
@[simp] theorem State.devSet_groups (s : State) (o : Nat) (v : DWord) : (s.devSet o v).groups = s.groups := rfl
@[simp] theorem State.devSet_teams (s : State) (o : Nat) (v : DWord) : (s.devSet o v).teams = s.teams := rfl
@[simp] theorem State.devSet_launches (s : State) (o : Nat) (v : DWord) : (s.devSet o v).launches = s.launches := rfl
@[simp] theorem State.devSet_lqNext (s : State) (o : Nat) (v : DWord) : (s.devSet o v).lqNext = s.lqNext := rfl
@[simp] theorem State.devSet_tokens (s : State) (o : Nat) (v : DWord) : (s.devSet o v).tokens = s.tokens := rfl
@[simp] theorem State.devSet_pipes (s : State) (o : Nat) (v : DWord) : (s.devSet o v).pipes = s.pipes := rfl
@[simp] theorem State.devSet_cores (s : State) (o : Nat) (v : DWord) : (s.devSet o v).cores = s.cores := rfl
@[simp] theorem State.devSet_faultq (s : State) (o : Nat) (v : DWord) : (s.devSet o v).faultq = s.faultq := rfl
@[simp] theorem State.devSet_easel (s : State) (o : Nat) (v : DWord) : (s.devSet o v).easel = s.easel := rfl
@[simp] theorem State.devSet_pending (s : State) (o : Nat) (v : DWord) : (s.devSet o v).pending = s.pending := rfl
@[simp] theorem State.devSet_flights (s : State) (o : Nat) (v : DWord) : (s.devSet o v).flights = s.flights := rfl
@[simp] theorem State.devSet_slog (s : State) (o : Nat) (v : DWord) : (s.devSet o v).slog = s.slog := rfl
@[simp] theorem State.devSet_tlbs (s : State) (o : Nat) (v : DWord) : (s.devSet o v).tlbs = s.tlbs := rfl
@[simp] theorem State.devSet_walks (s : State) (o : Nat) (v : DWord) : (s.devSet o v).walks = s.walks := rfl
@[simp] theorem State.devSet_l1 (s : State) (o : Nat) (v : DWord) : (s.devSet o v).l1 = s.l1 := rfl
@[simp] theorem State.devSet_icache (s : State) (o : Nat) (v : DWord) : (s.devSet o v).icache = s.icache := rfl
@[simp] theorem State.devSet_prefs (s : State) (o : Nat) (v : DWord) : (s.devSet o v).prefs = s.prefs := rfl
@[simp] theorem State.devSet_mem (s : State) (o : Nat) (v : DWord) : (s.devSet o v).mem = s.mem := rfl
@[simp] theorem State.devSet_poisoned (s : State) (o : Nat) (v : DWord) : (s.devSet o v).poisoned = s.poisoned := rfl
@[simp] theorem State.devSet_seen (s : State) (o : Nat) (v : DWord) : (s.devSet o v).seen = s.seen := rfl
@[simp] theorem State.devSet_raw (s : State) (o : Nat) (v : DWord) : (s.devSet o v).raw = s.raw := rfl
@[simp] theorem State.devSet_busy (s : State) (o : Nat) (v : DWord) : (s.devSet o v).busy = s.busy := rfl
@[simp] theorem State.devSet_flaky (s : State) (o : Nat) (v : DWord) : (s.devSet o v).flaky = s.flaky := rfl
@[simp] theorem State.devSet_pot (s : State) (o : Nat) (v : DWord) : (s.devSet o v).pot = s.pot := rfl
@[simp] theorem State.devSet_resv (s : State) (o : Nat) (v : DWord) : (s.devSet o v).resv = s.resv := rfl
@[simp] theorem State.devSet_hot (s : State) (o : Nat) (v : DWord) : (s.devSet o v).hot = s.hot := rfl
@[simp] theorem State.devSet_snaps (s : State) (o : Nat) (v : DWord) : (s.devSet o v).snaps = s.snaps := rfl
@[simp] theorem State.devSet_errs (s : State) (o : Nat) (v : DWord) : (s.devSet o v).errs = s.errs := rfl
@[simp] theorem State.devSet_mcmds (s : State) (o : Nat) (v : DWord) : (s.devSet o v).mcmds = s.mcmds := rfl
@[simp] theorem State.devSet_joints (s : State) (o : Nat) (v : DWord) : (s.devSet o v).joints = s.joints := rfl
@[simp] theorem State.devSet_ccmds (s : State) (o : Nat) (v : DWord) : (s.devSet o v).ccmds = s.ccmds := rfl
@[simp] theorem State.devSet_ncmds (s : State) (o : Nat) (v : DWord) : (s.devSet o v).ncmds = s.ncmds := rfl
@[simp] theorem State.devSet_ringq (s : State) (o : Nat) (v : DWord) : (s.devSet o v).ringq = s.ringq := rfl
@[simp] theorem State.devSet_wire (s : State) (o : Nat) (v : DWord) : (s.devSet o v).wire = s.wire := rfl
@[simp] theorem State.devSet_sentq (s : State) (o : Nat) (v : DWord) : (s.devSet o v).sentq = s.sentq := rfl
@[simp] theorem State.devSet_rx (s : State) (o : Nat) (v : DWord) : (s.devSet o v).rx = s.rx := rfl
@[simp] theorem State.devSet_inmsgs (s : State) (o : Nat) (v : DWord) : (s.devSet o v).inmsgs = s.inmsgs := rfl
@[simp] theorem State.devSet_rodOut (s : State) (o : Nat) (v : DWord) : (s.devSet o v).rodOut = s.rodOut := rfl
@[simp] theorem State.devSet_rodIn (s : State) (o : Nat) (v : DWord) : (s.devSet o v).rodIn = s.rodIn := rfl
@[simp] theorem State.devSet_sends (s : State) (o : Nat) (v : DWord) : (s.devSet o v).sends = s.sends := rfl
@[simp] theorem State.devSet_pools (s : State) (o : Nat) (v : DWord) : (s.devSet o v).pools = s.pools := rfl
@[simp] theorem State.devSet_tokq (s : State) (o : Nat) (v : DWord) : (s.devSet o v).tokq = s.tokq := rfl
@[simp] theorem State.devSet_budgets (s : State) (o : Nat) (v : DWord) : (s.devSet o v).budgets = s.budgets := rfl
@[simp] theorem State.devSet_ucnt (s : State) (o : Nat) (v : DWord) : (s.devSet o v).ucnt = s.ucnt := rfl
@[simp] theorem State.devSet_images (s : State) (o : Nat) (v : DWord) : (s.devSet o v).images = s.images := rfl
@[simp] theorem State.devSet_swaps (s : State) (o : Nat) (v : DWord) : (s.devSet o v).swaps = s.swaps := rfl
@[simp] theorem State.devSet_plan (s : State) (o : Nat) (v : DWord) : (s.devSet o v).plan = s.plan := rfl
@[simp] theorem State.devSet_down (s : State) (o : Nat) (v : DWord) : (s.devSet o v).down = s.down := rfl
@[simp] theorem State.devSet_held (s : State) (o : Nat) (v : DWord) : (s.devSet o v).held = s.held := rfl
@[simp] theorem State.devSet_pauses (s : State) (o : Nat) (v : DWord) : (s.devSet o v).pauses = s.pauses := rfl
@[simp] theorem State.devSet_bells (s : State) (o : Nat) (v : DWord) : (s.devSet o v).bells = s.bells := rfl
@[simp] theorem State.devSet_rung (s : State) (o : Nat) (v : DWord) : (s.devSet o v).rung = s.rung := rfl

/-! ## Setting a page ownership entry -/

@[simp] theorem State.potSet_tick (s : State) (p : Nat) (e : BitVec 16) : (s.potSet p e).tick = s.tick := rfl
@[simp] theorem State.potSet_cycle (s : State) (p : Nat) (e : BitVec 16) : (s.potSet p e).cycle = s.cycle := rfl
@[simp] theorem State.potSet_time (s : State) (p : Nat) (e : BitVec 16) : (s.potSet p e).time = s.time := rfl
@[simp] theorem State.potSet_cur (s : State) (p : Nat) (e : BitVec 16) : (s.potSet p e).cur = s.cur := rfl
@[simp] theorem State.potSet_stalled (s : State) (p : Nat) (e : BitVec 16) : (s.potSet p e).stalled = s.stalled := rfl
@[simp] theorem State.potSet_fresh (s : State) (p : Nat) (e : BitVec 16) : (s.potSet p e).fresh = s.fresh := rfl
@[simp] theorem State.potSet_inputs (s : State) (p : Nat) (e : BitVec 16) : (s.potSet p e).inputs = s.inputs := rfl
@[simp] theorem State.potSet_due (s : State) (p : Nat) (e : BitVec 16) : (s.potSet p e).due = s.due := rfl
@[simp] theorem State.potSet_phase (s : State) (p : Nat) (e : BitVec 16) : (s.potSet p e).phase = s.phase := rfl
@[simp] theorem State.potSet_bootstat (s : State) (p : Nat) (e : BitVec 16) : (s.potSet p e).bootstat = s.bootstat := rfl
@[simp] theorem State.potSet_unused (s : State) (p : Nat) (e : BitVec 16) : (s.potSet p e).unused = s.unused := rfl
@[simp] theorem State.potSet_mrs (s : State) (p : Nat) (e : BitVec 16) : (s.potSet p e).mrs = s.mrs := rfl
@[simp] theorem State.potSet_copy (s : State) (p : Nat) (e : BitVec 16) : (s.potSet p e).copy = s.copy := rfl
@[simp] theorem State.potSet_copyMem (s : State) (p : Nat) (e : BitVec 16) : (s.potSet p e).copyMem = s.copyMem := rfl
@[simp] theorem State.potSet_trained (s : State) (p : Nat) (e : BitVec 16) : (s.potSet p e).trained = s.trained := rfl
@[simp] theorem State.potSet_groups (s : State) (p : Nat) (e : BitVec 16) : (s.potSet p e).groups = s.groups := rfl
@[simp] theorem State.potSet_teams (s : State) (p : Nat) (e : BitVec 16) : (s.potSet p e).teams = s.teams := rfl
@[simp] theorem State.potSet_launches (s : State) (p : Nat) (e : BitVec 16) : (s.potSet p e).launches = s.launches := rfl
@[simp] theorem State.potSet_lqNext (s : State) (p : Nat) (e : BitVec 16) : (s.potSet p e).lqNext = s.lqNext := rfl
@[simp] theorem State.potSet_tokens (s : State) (p : Nat) (e : BitVec 16) : (s.potSet p e).tokens = s.tokens := rfl
@[simp] theorem State.potSet_pipes (s : State) (p : Nat) (e : BitVec 16) : (s.potSet p e).pipes = s.pipes := rfl
@[simp] theorem State.potSet_cores (s : State) (p : Nat) (e : BitVec 16) : (s.potSet p e).cores = s.cores := rfl
@[simp] theorem State.potSet_faultq (s : State) (p : Nat) (e : BitVec 16) : (s.potSet p e).faultq = s.faultq := rfl
@[simp] theorem State.potSet_easel (s : State) (p : Nat) (e : BitVec 16) : (s.potSet p e).easel = s.easel := rfl
@[simp] theorem State.potSet_pending (s : State) (p : Nat) (e : BitVec 16) : (s.potSet p e).pending = s.pending := rfl
@[simp] theorem State.potSet_flights (s : State) (p : Nat) (e : BitVec 16) : (s.potSet p e).flights = s.flights := rfl
@[simp] theorem State.potSet_slog (s : State) (p : Nat) (e : BitVec 16) : (s.potSet p e).slog = s.slog := rfl
@[simp] theorem State.potSet_tlbs (s : State) (p : Nat) (e : BitVec 16) : (s.potSet p e).tlbs = s.tlbs := rfl
@[simp] theorem State.potSet_walks (s : State) (p : Nat) (e : BitVec 16) : (s.potSet p e).walks = s.walks := rfl
@[simp] theorem State.potSet_l1 (s : State) (p : Nat) (e : BitVec 16) : (s.potSet p e).l1 = s.l1 := rfl
@[simp] theorem State.potSet_icache (s : State) (p : Nat) (e : BitVec 16) : (s.potSet p e).icache = s.icache := rfl
@[simp] theorem State.potSet_prefs (s : State) (p : Nat) (e : BitVec 16) : (s.potSet p e).prefs = s.prefs := rfl
@[simp] theorem State.potSet_mem (s : State) (p : Nat) (e : BitVec 16) : (s.potSet p e).mem = s.mem := rfl
@[simp] theorem State.potSet_poisoned (s : State) (p : Nat) (e : BitVec 16) : (s.potSet p e).poisoned = s.poisoned := rfl
@[simp] theorem State.potSet_seen (s : State) (p : Nat) (e : BitVec 16) : (s.potSet p e).seen = s.seen := rfl
@[simp] theorem State.potSet_raw (s : State) (p : Nat) (e : BitVec 16) : (s.potSet p e).raw = s.raw := rfl
@[simp] theorem State.potSet_busy (s : State) (p : Nat) (e : BitVec 16) : (s.potSet p e).busy = s.busy := rfl
@[simp] theorem State.potSet_flaky (s : State) (p : Nat) (e : BitVec 16) : (s.potSet p e).flaky = s.flaky := rfl
@[simp] theorem State.potSet_dev (s : State) (p : Nat) (e : BitVec 16) : (s.potSet p e).dev = s.dev := rfl
@[simp] theorem State.potSet_resv (s : State) (p : Nat) (e : BitVec 16) : (s.potSet p e).resv = s.resv := rfl
@[simp] theorem State.potSet_hot (s : State) (p : Nat) (e : BitVec 16) : (s.potSet p e).hot = s.hot := rfl
@[simp] theorem State.potSet_snaps (s : State) (p : Nat) (e : BitVec 16) : (s.potSet p e).snaps = s.snaps := rfl
@[simp] theorem State.potSet_errs (s : State) (p : Nat) (e : BitVec 16) : (s.potSet p e).errs = s.errs := rfl
@[simp] theorem State.potSet_mcmds (s : State) (p : Nat) (e : BitVec 16) : (s.potSet p e).mcmds = s.mcmds := rfl
@[simp] theorem State.potSet_joints (s : State) (p : Nat) (e : BitVec 16) : (s.potSet p e).joints = s.joints := rfl
@[simp] theorem State.potSet_ccmds (s : State) (p : Nat) (e : BitVec 16) : (s.potSet p e).ccmds = s.ccmds := rfl
@[simp] theorem State.potSet_ncmds (s : State) (p : Nat) (e : BitVec 16) : (s.potSet p e).ncmds = s.ncmds := rfl
@[simp] theorem State.potSet_ringq (s : State) (p : Nat) (e : BitVec 16) : (s.potSet p e).ringq = s.ringq := rfl
@[simp] theorem State.potSet_wire (s : State) (p : Nat) (e : BitVec 16) : (s.potSet p e).wire = s.wire := rfl
@[simp] theorem State.potSet_sentq (s : State) (p : Nat) (e : BitVec 16) : (s.potSet p e).sentq = s.sentq := rfl
@[simp] theorem State.potSet_rx (s : State) (p : Nat) (e : BitVec 16) : (s.potSet p e).rx = s.rx := rfl
@[simp] theorem State.potSet_inmsgs (s : State) (p : Nat) (e : BitVec 16) : (s.potSet p e).inmsgs = s.inmsgs := rfl
@[simp] theorem State.potSet_rodOut (s : State) (p : Nat) (e : BitVec 16) : (s.potSet p e).rodOut = s.rodOut := rfl
@[simp] theorem State.potSet_rodIn (s : State) (p : Nat) (e : BitVec 16) : (s.potSet p e).rodIn = s.rodIn := rfl
@[simp] theorem State.potSet_sends (s : State) (p : Nat) (e : BitVec 16) : (s.potSet p e).sends = s.sends := rfl
@[simp] theorem State.potSet_pools (s : State) (p : Nat) (e : BitVec 16) : (s.potSet p e).pools = s.pools := rfl
@[simp] theorem State.potSet_tokq (s : State) (p : Nat) (e : BitVec 16) : (s.potSet p e).tokq = s.tokq := rfl
@[simp] theorem State.potSet_budgets (s : State) (p : Nat) (e : BitVec 16) : (s.potSet p e).budgets = s.budgets := rfl
@[simp] theorem State.potSet_ucnt (s : State) (p : Nat) (e : BitVec 16) : (s.potSet p e).ucnt = s.ucnt := rfl
@[simp] theorem State.potSet_images (s : State) (p : Nat) (e : BitVec 16) : (s.potSet p e).images = s.images := rfl
@[simp] theorem State.potSet_swaps (s : State) (p : Nat) (e : BitVec 16) : (s.potSet p e).swaps = s.swaps := rfl
@[simp] theorem State.potSet_plan (s : State) (p : Nat) (e : BitVec 16) : (s.potSet p e).plan = s.plan := rfl
@[simp] theorem State.potSet_down (s : State) (p : Nat) (e : BitVec 16) : (s.potSet p e).down = s.down := rfl
@[simp] theorem State.potSet_held (s : State) (p : Nat) (e : BitVec 16) : (s.potSet p e).held = s.held := rfl
@[simp] theorem State.potSet_pauses (s : State) (p : Nat) (e : BitVec 16) : (s.potSet p e).pauses = s.pauses := rfl
@[simp] theorem State.potSet_bells (s : State) (p : Nat) (e : BitVec 16) : (s.potSet p e).bells = s.bells := rfl
@[simp] theorem State.potSet_rung (s : State) (p : Nat) (e : BitVec 16) : (s.potSet p e).rung = s.rung := rfl

/-! ## Marking poison -/

@[simp] theorem State.markPoison_tick (s : State) (l : List Nat) : (s.markPoison l).tick = s.tick := rfl
@[simp] theorem State.markPoison_cycle (s : State) (l : List Nat) : (s.markPoison l).cycle = s.cycle := rfl
@[simp] theorem State.markPoison_time (s : State) (l : List Nat) : (s.markPoison l).time = s.time := rfl
@[simp] theorem State.markPoison_cur (s : State) (l : List Nat) : (s.markPoison l).cur = s.cur := rfl
@[simp] theorem State.markPoison_stalled (s : State) (l : List Nat) : (s.markPoison l).stalled = s.stalled := rfl
@[simp] theorem State.markPoison_fresh (s : State) (l : List Nat) : (s.markPoison l).fresh = s.fresh := rfl
@[simp] theorem State.markPoison_inputs (s : State) (l : List Nat) : (s.markPoison l).inputs = s.inputs := rfl
@[simp] theorem State.markPoison_due (s : State) (l : List Nat) : (s.markPoison l).due = s.due := rfl
@[simp] theorem State.markPoison_phase (s : State) (l : List Nat) : (s.markPoison l).phase = s.phase := rfl
@[simp] theorem State.markPoison_bootstat (s : State) (l : List Nat) : (s.markPoison l).bootstat = s.bootstat := rfl
@[simp] theorem State.markPoison_unused (s : State) (l : List Nat) : (s.markPoison l).unused = s.unused := rfl
@[simp] theorem State.markPoison_mrs (s : State) (l : List Nat) : (s.markPoison l).mrs = s.mrs := rfl
@[simp] theorem State.markPoison_copy (s : State) (l : List Nat) : (s.markPoison l).copy = s.copy := rfl
@[simp] theorem State.markPoison_copyMem (s : State) (l : List Nat) : (s.markPoison l).copyMem = s.copyMem := rfl
@[simp] theorem State.markPoison_trained (s : State) (l : List Nat) : (s.markPoison l).trained = s.trained := rfl
@[simp] theorem State.markPoison_groups (s : State) (l : List Nat) : (s.markPoison l).groups = s.groups := rfl
@[simp] theorem State.markPoison_teams (s : State) (l : List Nat) : (s.markPoison l).teams = s.teams := rfl
@[simp] theorem State.markPoison_launches (s : State) (l : List Nat) : (s.markPoison l).launches = s.launches := rfl
@[simp] theorem State.markPoison_lqNext (s : State) (l : List Nat) : (s.markPoison l).lqNext = s.lqNext := rfl
@[simp] theorem State.markPoison_tokens (s : State) (l : List Nat) : (s.markPoison l).tokens = s.tokens := rfl
@[simp] theorem State.markPoison_pipes (s : State) (l : List Nat) : (s.markPoison l).pipes = s.pipes := rfl
@[simp] theorem State.markPoison_cores (s : State) (l : List Nat) : (s.markPoison l).cores = s.cores := rfl
@[simp] theorem State.markPoison_faultq (s : State) (l : List Nat) : (s.markPoison l).faultq = s.faultq := rfl
@[simp] theorem State.markPoison_easel (s : State) (l : List Nat) : (s.markPoison l).easel = s.easel := rfl
@[simp] theorem State.markPoison_pending (s : State) (l : List Nat) : (s.markPoison l).pending = s.pending := rfl
@[simp] theorem State.markPoison_flights (s : State) (l : List Nat) : (s.markPoison l).flights = s.flights := rfl
@[simp] theorem State.markPoison_slog (s : State) (l : List Nat) : (s.markPoison l).slog = s.slog := rfl
@[simp] theorem State.markPoison_tlbs (s : State) (l : List Nat) : (s.markPoison l).tlbs = s.tlbs := rfl
@[simp] theorem State.markPoison_walks (s : State) (l : List Nat) : (s.markPoison l).walks = s.walks := rfl
@[simp] theorem State.markPoison_l1 (s : State) (l : List Nat) : (s.markPoison l).l1 = s.l1 := rfl
@[simp] theorem State.markPoison_icache (s : State) (l : List Nat) : (s.markPoison l).icache = s.icache := rfl
@[simp] theorem State.markPoison_prefs (s : State) (l : List Nat) : (s.markPoison l).prefs = s.prefs := rfl
@[simp] theorem State.markPoison_mem (s : State) (l : List Nat) : (s.markPoison l).mem = s.mem := rfl
@[simp] theorem State.markPoison_seen (s : State) (l : List Nat) : (s.markPoison l).seen = s.seen := rfl
@[simp] theorem State.markPoison_raw (s : State) (l : List Nat) : (s.markPoison l).raw = s.raw := rfl
@[simp] theorem State.markPoison_busy (s : State) (l : List Nat) : (s.markPoison l).busy = s.busy := rfl
@[simp] theorem State.markPoison_flaky (s : State) (l : List Nat) : (s.markPoison l).flaky = s.flaky := rfl
@[simp] theorem State.markPoison_dev (s : State) (l : List Nat) : (s.markPoison l).dev = s.dev := rfl
@[simp] theorem State.markPoison_pot (s : State) (l : List Nat) : (s.markPoison l).pot = s.pot := rfl
@[simp] theorem State.markPoison_resv (s : State) (l : List Nat) : (s.markPoison l).resv = s.resv := rfl
@[simp] theorem State.markPoison_hot (s : State) (l : List Nat) : (s.markPoison l).hot = s.hot := rfl
@[simp] theorem State.markPoison_snaps (s : State) (l : List Nat) : (s.markPoison l).snaps = s.snaps := rfl
@[simp] theorem State.markPoison_errs (s : State) (l : List Nat) : (s.markPoison l).errs = s.errs := rfl
@[simp] theorem State.markPoison_mcmds (s : State) (l : List Nat) : (s.markPoison l).mcmds = s.mcmds := rfl
@[simp] theorem State.markPoison_joints (s : State) (l : List Nat) : (s.markPoison l).joints = s.joints := rfl
@[simp] theorem State.markPoison_ccmds (s : State) (l : List Nat) : (s.markPoison l).ccmds = s.ccmds := rfl
@[simp] theorem State.markPoison_ncmds (s : State) (l : List Nat) : (s.markPoison l).ncmds = s.ncmds := rfl
@[simp] theorem State.markPoison_ringq (s : State) (l : List Nat) : (s.markPoison l).ringq = s.ringq := rfl
@[simp] theorem State.markPoison_wire (s : State) (l : List Nat) : (s.markPoison l).wire = s.wire := rfl
@[simp] theorem State.markPoison_sentq (s : State) (l : List Nat) : (s.markPoison l).sentq = s.sentq := rfl
@[simp] theorem State.markPoison_rx (s : State) (l : List Nat) : (s.markPoison l).rx = s.rx := rfl
@[simp] theorem State.markPoison_inmsgs (s : State) (l : List Nat) : (s.markPoison l).inmsgs = s.inmsgs := rfl
@[simp] theorem State.markPoison_rodOut (s : State) (l : List Nat) : (s.markPoison l).rodOut = s.rodOut := rfl
@[simp] theorem State.markPoison_rodIn (s : State) (l : List Nat) : (s.markPoison l).rodIn = s.rodIn := rfl
@[simp] theorem State.markPoison_sends (s : State) (l : List Nat) : (s.markPoison l).sends = s.sends := rfl
@[simp] theorem State.markPoison_pools (s : State) (l : List Nat) : (s.markPoison l).pools = s.pools := rfl
@[simp] theorem State.markPoison_tokq (s : State) (l : List Nat) : (s.markPoison l).tokq = s.tokq := rfl
@[simp] theorem State.markPoison_budgets (s : State) (l : List Nat) : (s.markPoison l).budgets = s.budgets := rfl
@[simp] theorem State.markPoison_ucnt (s : State) (l : List Nat) : (s.markPoison l).ucnt = s.ucnt := rfl
@[simp] theorem State.markPoison_images (s : State) (l : List Nat) : (s.markPoison l).images = s.images := rfl
@[simp] theorem State.markPoison_swaps (s : State) (l : List Nat) : (s.markPoison l).swaps = s.swaps := rfl
@[simp] theorem State.markPoison_plan (s : State) (l : List Nat) : (s.markPoison l).plan = s.plan := rfl
@[simp] theorem State.markPoison_down (s : State) (l : List Nat) : (s.markPoison l).down = s.down := rfl
@[simp] theorem State.markPoison_held (s : State) (l : List Nat) : (s.markPoison l).held = s.held := rfl
@[simp] theorem State.markPoison_pauses (s : State) (l : List Nat) : (s.markPoison l).pauses = s.pauses := rfl
@[simp] theorem State.markPoison_bells (s : State) (l : List Nat) : (s.markPoison l).bells = s.bells := rfl
@[simp] theorem State.markPoison_rung (s : State) (l : List Nat) : (s.markPoison l).rung = s.rung := rfl

/-! ## Clearing poison -/

@[simp] theorem State.clearPoison_tick (s : State) (l : List Nat) : (s.clearPoison l).tick = s.tick := rfl
@[simp] theorem State.clearPoison_cycle (s : State) (l : List Nat) : (s.clearPoison l).cycle = s.cycle := rfl
@[simp] theorem State.clearPoison_time (s : State) (l : List Nat) : (s.clearPoison l).time = s.time := rfl
@[simp] theorem State.clearPoison_cur (s : State) (l : List Nat) : (s.clearPoison l).cur = s.cur := rfl
@[simp] theorem State.clearPoison_stalled (s : State) (l : List Nat) : (s.clearPoison l).stalled = s.stalled := rfl
@[simp] theorem State.clearPoison_fresh (s : State) (l : List Nat) : (s.clearPoison l).fresh = s.fresh := rfl
@[simp] theorem State.clearPoison_inputs (s : State) (l : List Nat) : (s.clearPoison l).inputs = s.inputs := rfl
@[simp] theorem State.clearPoison_due (s : State) (l : List Nat) : (s.clearPoison l).due = s.due := rfl
@[simp] theorem State.clearPoison_phase (s : State) (l : List Nat) : (s.clearPoison l).phase = s.phase := rfl
@[simp] theorem State.clearPoison_bootstat (s : State) (l : List Nat) : (s.clearPoison l).bootstat = s.bootstat := rfl
@[simp] theorem State.clearPoison_unused (s : State) (l : List Nat) : (s.clearPoison l).unused = s.unused := rfl
@[simp] theorem State.clearPoison_mrs (s : State) (l : List Nat) : (s.clearPoison l).mrs = s.mrs := rfl
@[simp] theorem State.clearPoison_copy (s : State) (l : List Nat) : (s.clearPoison l).copy = s.copy := rfl
@[simp] theorem State.clearPoison_copyMem (s : State) (l : List Nat) : (s.clearPoison l).copyMem = s.copyMem := rfl
@[simp] theorem State.clearPoison_trained (s : State) (l : List Nat) : (s.clearPoison l).trained = s.trained := rfl
@[simp] theorem State.clearPoison_groups (s : State) (l : List Nat) : (s.clearPoison l).groups = s.groups := rfl
@[simp] theorem State.clearPoison_teams (s : State) (l : List Nat) : (s.clearPoison l).teams = s.teams := rfl
@[simp] theorem State.clearPoison_launches (s : State) (l : List Nat) : (s.clearPoison l).launches = s.launches := rfl
@[simp] theorem State.clearPoison_lqNext (s : State) (l : List Nat) : (s.clearPoison l).lqNext = s.lqNext := rfl
@[simp] theorem State.clearPoison_tokens (s : State) (l : List Nat) : (s.clearPoison l).tokens = s.tokens := rfl
@[simp] theorem State.clearPoison_pipes (s : State) (l : List Nat) : (s.clearPoison l).pipes = s.pipes := rfl
@[simp] theorem State.clearPoison_cores (s : State) (l : List Nat) : (s.clearPoison l).cores = s.cores := rfl
@[simp] theorem State.clearPoison_faultq (s : State) (l : List Nat) : (s.clearPoison l).faultq = s.faultq := rfl
@[simp] theorem State.clearPoison_easel (s : State) (l : List Nat) : (s.clearPoison l).easel = s.easel := rfl
@[simp] theorem State.clearPoison_pending (s : State) (l : List Nat) : (s.clearPoison l).pending = s.pending := rfl
@[simp] theorem State.clearPoison_flights (s : State) (l : List Nat) : (s.clearPoison l).flights = s.flights := rfl
@[simp] theorem State.clearPoison_slog (s : State) (l : List Nat) : (s.clearPoison l).slog = s.slog := rfl
@[simp] theorem State.clearPoison_tlbs (s : State) (l : List Nat) : (s.clearPoison l).tlbs = s.tlbs := rfl
@[simp] theorem State.clearPoison_walks (s : State) (l : List Nat) : (s.clearPoison l).walks = s.walks := rfl
@[simp] theorem State.clearPoison_l1 (s : State) (l : List Nat) : (s.clearPoison l).l1 = s.l1 := rfl
@[simp] theorem State.clearPoison_icache (s : State) (l : List Nat) : (s.clearPoison l).icache = s.icache := rfl
@[simp] theorem State.clearPoison_prefs (s : State) (l : List Nat) : (s.clearPoison l).prefs = s.prefs := rfl
@[simp] theorem State.clearPoison_mem (s : State) (l : List Nat) : (s.clearPoison l).mem = s.mem := rfl
@[simp] theorem State.clearPoison_seen (s : State) (l : List Nat) : (s.clearPoison l).seen = s.seen := rfl
@[simp] theorem State.clearPoison_raw (s : State) (l : List Nat) : (s.clearPoison l).raw = s.raw := rfl
@[simp] theorem State.clearPoison_busy (s : State) (l : List Nat) : (s.clearPoison l).busy = s.busy := rfl
@[simp] theorem State.clearPoison_flaky (s : State) (l : List Nat) : (s.clearPoison l).flaky = s.flaky := rfl
@[simp] theorem State.clearPoison_dev (s : State) (l : List Nat) : (s.clearPoison l).dev = s.dev := rfl
@[simp] theorem State.clearPoison_pot (s : State) (l : List Nat) : (s.clearPoison l).pot = s.pot := rfl
@[simp] theorem State.clearPoison_resv (s : State) (l : List Nat) : (s.clearPoison l).resv = s.resv := rfl
@[simp] theorem State.clearPoison_hot (s : State) (l : List Nat) : (s.clearPoison l).hot = s.hot := rfl
@[simp] theorem State.clearPoison_snaps (s : State) (l : List Nat) : (s.clearPoison l).snaps = s.snaps := rfl
@[simp] theorem State.clearPoison_errs (s : State) (l : List Nat) : (s.clearPoison l).errs = s.errs := rfl
@[simp] theorem State.clearPoison_mcmds (s : State) (l : List Nat) : (s.clearPoison l).mcmds = s.mcmds := rfl
@[simp] theorem State.clearPoison_joints (s : State) (l : List Nat) : (s.clearPoison l).joints = s.joints := rfl
@[simp] theorem State.clearPoison_ccmds (s : State) (l : List Nat) : (s.clearPoison l).ccmds = s.ccmds := rfl
@[simp] theorem State.clearPoison_ncmds (s : State) (l : List Nat) : (s.clearPoison l).ncmds = s.ncmds := rfl
@[simp] theorem State.clearPoison_ringq (s : State) (l : List Nat) : (s.clearPoison l).ringq = s.ringq := rfl
@[simp] theorem State.clearPoison_wire (s : State) (l : List Nat) : (s.clearPoison l).wire = s.wire := rfl
@[simp] theorem State.clearPoison_sentq (s : State) (l : List Nat) : (s.clearPoison l).sentq = s.sentq := rfl
@[simp] theorem State.clearPoison_rx (s : State) (l : List Nat) : (s.clearPoison l).rx = s.rx := rfl
@[simp] theorem State.clearPoison_inmsgs (s : State) (l : List Nat) : (s.clearPoison l).inmsgs = s.inmsgs := rfl
@[simp] theorem State.clearPoison_rodOut (s : State) (l : List Nat) : (s.clearPoison l).rodOut = s.rodOut := rfl
@[simp] theorem State.clearPoison_rodIn (s : State) (l : List Nat) : (s.clearPoison l).rodIn = s.rodIn := rfl
@[simp] theorem State.clearPoison_sends (s : State) (l : List Nat) : (s.clearPoison l).sends = s.sends := rfl
@[simp] theorem State.clearPoison_pools (s : State) (l : List Nat) : (s.clearPoison l).pools = s.pools := rfl
@[simp] theorem State.clearPoison_tokq (s : State) (l : List Nat) : (s.clearPoison l).tokq = s.tokq := rfl
@[simp] theorem State.clearPoison_budgets (s : State) (l : List Nat) : (s.clearPoison l).budgets = s.budgets := rfl
@[simp] theorem State.clearPoison_ucnt (s : State) (l : List Nat) : (s.clearPoison l).ucnt = s.ucnt := rfl
@[simp] theorem State.clearPoison_images (s : State) (l : List Nat) : (s.clearPoison l).images = s.images := rfl
@[simp] theorem State.clearPoison_swaps (s : State) (l : List Nat) : (s.clearPoison l).swaps = s.swaps := rfl
@[simp] theorem State.clearPoison_plan (s : State) (l : List Nat) : (s.clearPoison l).plan = s.plan := rfl
@[simp] theorem State.clearPoison_down (s : State) (l : List Nat) : (s.clearPoison l).down = s.down := rfl
@[simp] theorem State.clearPoison_held (s : State) (l : List Nat) : (s.clearPoison l).held = s.held := rfl
@[simp] theorem State.clearPoison_pauses (s : State) (l : List Nat) : (s.clearPoison l).pauses = s.pauses := rfl
@[simp] theorem State.clearPoison_bells (s : State) (l : List Nat) : (s.clearPoison l).bells = s.bells := rfl
@[simp] theorem State.clearPoison_rung (s : State) (l : List Nat) : (s.clearPoison l).rung = s.rung := rfl

/-! ## Posting a fault record -/

@[simp] theorem State.postFault_tick (s : State) (c : Nat) (r : FaultRec) : (s.postFault c r).tick = s.tick := rfl
@[simp] theorem State.postFault_cycle (s : State) (c : Nat) (r : FaultRec) : (s.postFault c r).cycle = s.cycle := rfl
@[simp] theorem State.postFault_time (s : State) (c : Nat) (r : FaultRec) : (s.postFault c r).time = s.time := rfl
@[simp] theorem State.postFault_cur (s : State) (c : Nat) (r : FaultRec) : (s.postFault c r).cur = s.cur := rfl
@[simp] theorem State.postFault_stalled (s : State) (c : Nat) (r : FaultRec) : (s.postFault c r).stalled = s.stalled := rfl
@[simp] theorem State.postFault_inputs (s : State) (c : Nat) (r : FaultRec) : (s.postFault c r).inputs = s.inputs := rfl
@[simp] theorem State.postFault_due (s : State) (c : Nat) (r : FaultRec) : (s.postFault c r).due = s.due := rfl
@[simp] theorem State.postFault_phase (s : State) (c : Nat) (r : FaultRec) : (s.postFault c r).phase = s.phase := rfl
@[simp] theorem State.postFault_bootstat (s : State) (c : Nat) (r : FaultRec) : (s.postFault c r).bootstat = s.bootstat := rfl
@[simp] theorem State.postFault_unused (s : State) (c : Nat) (r : FaultRec) : (s.postFault c r).unused = s.unused := rfl
@[simp] theorem State.postFault_mrs (s : State) (c : Nat) (r : FaultRec) : (s.postFault c r).mrs = s.mrs := rfl
@[simp] theorem State.postFault_copy (s : State) (c : Nat) (r : FaultRec) : (s.postFault c r).copy = s.copy := rfl
@[simp] theorem State.postFault_copyMem (s : State) (c : Nat) (r : FaultRec) : (s.postFault c r).copyMem = s.copyMem := rfl
@[simp] theorem State.postFault_trained (s : State) (c : Nat) (r : FaultRec) : (s.postFault c r).trained = s.trained := rfl
@[simp] theorem State.postFault_groups (s : State) (c : Nat) (r : FaultRec) : (s.postFault c r).groups = s.groups := rfl
@[simp] theorem State.postFault_teams (s : State) (c : Nat) (r : FaultRec) : (s.postFault c r).teams = s.teams := rfl
@[simp] theorem State.postFault_launches (s : State) (c : Nat) (r : FaultRec) : (s.postFault c r).launches = s.launches := rfl
@[simp] theorem State.postFault_lqNext (s : State) (c : Nat) (r : FaultRec) : (s.postFault c r).lqNext = s.lqNext := rfl
@[simp] theorem State.postFault_tokens (s : State) (c : Nat) (r : FaultRec) : (s.postFault c r).tokens = s.tokens := rfl
@[simp] theorem State.postFault_pipes (s : State) (c : Nat) (r : FaultRec) : (s.postFault c r).pipes = s.pipes := rfl
@[simp] theorem State.postFault_cores (s : State) (c : Nat) (r : FaultRec) : (s.postFault c r).cores = s.cores := rfl
@[simp] theorem State.postFault_easel (s : State) (c : Nat) (r : FaultRec) : (s.postFault c r).easel = s.easel := rfl
@[simp] theorem State.postFault_pending (s : State) (c : Nat) (r : FaultRec) : (s.postFault c r).pending = s.pending := rfl
@[simp] theorem State.postFault_flights (s : State) (c : Nat) (r : FaultRec) : (s.postFault c r).flights = s.flights := rfl
@[simp] theorem State.postFault_slog (s : State) (c : Nat) (r : FaultRec) : (s.postFault c r).slog = s.slog := rfl
@[simp] theorem State.postFault_tlbs (s : State) (c : Nat) (r : FaultRec) : (s.postFault c r).tlbs = s.tlbs := rfl
@[simp] theorem State.postFault_walks (s : State) (c : Nat) (r : FaultRec) : (s.postFault c r).walks = s.walks := rfl
@[simp] theorem State.postFault_l1 (s : State) (c : Nat) (r : FaultRec) : (s.postFault c r).l1 = s.l1 := rfl
@[simp] theorem State.postFault_icache (s : State) (c : Nat) (r : FaultRec) : (s.postFault c r).icache = s.icache := rfl
@[simp] theorem State.postFault_prefs (s : State) (c : Nat) (r : FaultRec) : (s.postFault c r).prefs = s.prefs := rfl
@[simp] theorem State.postFault_mem (s : State) (c : Nat) (r : FaultRec) : (s.postFault c r).mem = s.mem := rfl
@[simp] theorem State.postFault_poisoned (s : State) (c : Nat) (r : FaultRec) : (s.postFault c r).poisoned = s.poisoned := rfl
@[simp] theorem State.postFault_seen (s : State) (c : Nat) (r : FaultRec) : (s.postFault c r).seen = s.seen := rfl
@[simp] theorem State.postFault_raw (s : State) (c : Nat) (r : FaultRec) : (s.postFault c r).raw = s.raw := rfl
@[simp] theorem State.postFault_busy (s : State) (c : Nat) (r : FaultRec) : (s.postFault c r).busy = s.busy := rfl
@[simp] theorem State.postFault_flaky (s : State) (c : Nat) (r : FaultRec) : (s.postFault c r).flaky = s.flaky := rfl
@[simp] theorem State.postFault_dev (s : State) (c : Nat) (r : FaultRec) : (s.postFault c r).dev = s.dev := rfl
@[simp] theorem State.postFault_pot (s : State) (c : Nat) (r : FaultRec) : (s.postFault c r).pot = s.pot := rfl
@[simp] theorem State.postFault_resv (s : State) (c : Nat) (r : FaultRec) : (s.postFault c r).resv = s.resv := rfl
@[simp] theorem State.postFault_hot (s : State) (c : Nat) (r : FaultRec) : (s.postFault c r).hot = s.hot := rfl
@[simp] theorem State.postFault_snaps (s : State) (c : Nat) (r : FaultRec) : (s.postFault c r).snaps = s.snaps := rfl
@[simp] theorem State.postFault_errs (s : State) (c : Nat) (r : FaultRec) : (s.postFault c r).errs = s.errs := rfl
@[simp] theorem State.postFault_mcmds (s : State) (c : Nat) (r : FaultRec) : (s.postFault c r).mcmds = s.mcmds := rfl
@[simp] theorem State.postFault_joints (s : State) (c : Nat) (r : FaultRec) : (s.postFault c r).joints = s.joints := rfl
@[simp] theorem State.postFault_ccmds (s : State) (c : Nat) (r : FaultRec) : (s.postFault c r).ccmds = s.ccmds := rfl
@[simp] theorem State.postFault_ncmds (s : State) (c : Nat) (r : FaultRec) : (s.postFault c r).ncmds = s.ncmds := rfl
@[simp] theorem State.postFault_ringq (s : State) (c : Nat) (r : FaultRec) : (s.postFault c r).ringq = s.ringq := rfl
@[simp] theorem State.postFault_wire (s : State) (c : Nat) (r : FaultRec) : (s.postFault c r).wire = s.wire := rfl
@[simp] theorem State.postFault_sentq (s : State) (c : Nat) (r : FaultRec) : (s.postFault c r).sentq = s.sentq := rfl
@[simp] theorem State.postFault_rx (s : State) (c : Nat) (r : FaultRec) : (s.postFault c r).rx = s.rx := rfl
@[simp] theorem State.postFault_inmsgs (s : State) (c : Nat) (r : FaultRec) : (s.postFault c r).inmsgs = s.inmsgs := rfl
@[simp] theorem State.postFault_rodOut (s : State) (c : Nat) (r : FaultRec) : (s.postFault c r).rodOut = s.rodOut := rfl
@[simp] theorem State.postFault_rodIn (s : State) (c : Nat) (r : FaultRec) : (s.postFault c r).rodIn = s.rodIn := rfl
@[simp] theorem State.postFault_sends (s : State) (c : Nat) (r : FaultRec) : (s.postFault c r).sends = s.sends := rfl
@[simp] theorem State.postFault_pools (s : State) (c : Nat) (r : FaultRec) : (s.postFault c r).pools = s.pools := rfl
@[simp] theorem State.postFault_tokq (s : State) (c : Nat) (r : FaultRec) : (s.postFault c r).tokq = s.tokq := rfl
@[simp] theorem State.postFault_budgets (s : State) (c : Nat) (r : FaultRec) : (s.postFault c r).budgets = s.budgets := rfl
@[simp] theorem State.postFault_ucnt (s : State) (c : Nat) (r : FaultRec) : (s.postFault c r).ucnt = s.ucnt := rfl
@[simp] theorem State.postFault_images (s : State) (c : Nat) (r : FaultRec) : (s.postFault c r).images = s.images := rfl
@[simp] theorem State.postFault_swaps (s : State) (c : Nat) (r : FaultRec) : (s.postFault c r).swaps = s.swaps := rfl
@[simp] theorem State.postFault_plan (s : State) (c : Nat) (r : FaultRec) : (s.postFault c r).plan = s.plan := rfl
@[simp] theorem State.postFault_down (s : State) (c : Nat) (r : FaultRec) : (s.postFault c r).down = s.down := rfl
@[simp] theorem State.postFault_held (s : State) (c : Nat) (r : FaultRec) : (s.postFault c r).held = s.held := rfl
@[simp] theorem State.postFault_pauses (s : State) (c : Nat) (r : FaultRec) : (s.postFault c r).pauses = s.pauses := rfl
@[simp] theorem State.postFault_bells (s : State) (c : Nat) (r : FaultRec) : (s.postFault c r).bells = s.bells := rfl
@[simp] theorem State.postFault_rung (s : State) (c : Nat) (r : FaultRec) : (s.postFault c r).rung = s.rung := rfl

/-! ## Replacing a pipe -/

@[simp] theorem State.setPipe_tick (s : State) (x : Pipe) : (s.setPipe x).tick = s.tick := rfl
@[simp] theorem State.setPipe_cycle (s : State) (x : Pipe) : (s.setPipe x).cycle = s.cycle := rfl
@[simp] theorem State.setPipe_time (s : State) (x : Pipe) : (s.setPipe x).time = s.time := rfl
@[simp] theorem State.setPipe_cur (s : State) (x : Pipe) : (s.setPipe x).cur = s.cur := rfl
@[simp] theorem State.setPipe_stalled (s : State) (x : Pipe) : (s.setPipe x).stalled = s.stalled := rfl
@[simp] theorem State.setPipe_fresh (s : State) (x : Pipe) : (s.setPipe x).fresh = s.fresh := rfl
@[simp] theorem State.setPipe_inputs (s : State) (x : Pipe) : (s.setPipe x).inputs = s.inputs := rfl
@[simp] theorem State.setPipe_due (s : State) (x : Pipe) : (s.setPipe x).due = s.due := rfl
@[simp] theorem State.setPipe_phase (s : State) (x : Pipe) : (s.setPipe x).phase = s.phase := rfl
@[simp] theorem State.setPipe_bootstat (s : State) (x : Pipe) : (s.setPipe x).bootstat = s.bootstat := rfl
@[simp] theorem State.setPipe_unused (s : State) (x : Pipe) : (s.setPipe x).unused = s.unused := rfl
@[simp] theorem State.setPipe_mrs (s : State) (x : Pipe) : (s.setPipe x).mrs = s.mrs := rfl
@[simp] theorem State.setPipe_copy (s : State) (x : Pipe) : (s.setPipe x).copy = s.copy := rfl
@[simp] theorem State.setPipe_copyMem (s : State) (x : Pipe) : (s.setPipe x).copyMem = s.copyMem := rfl
@[simp] theorem State.setPipe_trained (s : State) (x : Pipe) : (s.setPipe x).trained = s.trained := rfl
@[simp] theorem State.setPipe_groups (s : State) (x : Pipe) : (s.setPipe x).groups = s.groups := rfl
@[simp] theorem State.setPipe_teams (s : State) (x : Pipe) : (s.setPipe x).teams = s.teams := rfl
@[simp] theorem State.setPipe_launches (s : State) (x : Pipe) : (s.setPipe x).launches = s.launches := rfl
@[simp] theorem State.setPipe_lqNext (s : State) (x : Pipe) : (s.setPipe x).lqNext = s.lqNext := rfl
@[simp] theorem State.setPipe_tokens (s : State) (x : Pipe) : (s.setPipe x).tokens = s.tokens := rfl
@[simp] theorem State.setPipe_cores (s : State) (x : Pipe) : (s.setPipe x).cores = s.cores := rfl
@[simp] theorem State.setPipe_faultq (s : State) (x : Pipe) : (s.setPipe x).faultq = s.faultq := rfl
@[simp] theorem State.setPipe_easel (s : State) (x : Pipe) : (s.setPipe x).easel = s.easel := rfl
@[simp] theorem State.setPipe_pending (s : State) (x : Pipe) : (s.setPipe x).pending = s.pending := rfl
@[simp] theorem State.setPipe_flights (s : State) (x : Pipe) : (s.setPipe x).flights = s.flights := rfl
@[simp] theorem State.setPipe_slog (s : State) (x : Pipe) : (s.setPipe x).slog = s.slog := rfl
@[simp] theorem State.setPipe_tlbs (s : State) (x : Pipe) : (s.setPipe x).tlbs = s.tlbs := rfl
@[simp] theorem State.setPipe_walks (s : State) (x : Pipe) : (s.setPipe x).walks = s.walks := rfl
@[simp] theorem State.setPipe_l1 (s : State) (x : Pipe) : (s.setPipe x).l1 = s.l1 := rfl
@[simp] theorem State.setPipe_icache (s : State) (x : Pipe) : (s.setPipe x).icache = s.icache := rfl
@[simp] theorem State.setPipe_prefs (s : State) (x : Pipe) : (s.setPipe x).prefs = s.prefs := rfl
@[simp] theorem State.setPipe_mem (s : State) (x : Pipe) : (s.setPipe x).mem = s.mem := rfl
@[simp] theorem State.setPipe_poisoned (s : State) (x : Pipe) : (s.setPipe x).poisoned = s.poisoned := rfl
@[simp] theorem State.setPipe_seen (s : State) (x : Pipe) : (s.setPipe x).seen = s.seen := rfl
@[simp] theorem State.setPipe_raw (s : State) (x : Pipe) : (s.setPipe x).raw = s.raw := rfl
@[simp] theorem State.setPipe_busy (s : State) (x : Pipe) : (s.setPipe x).busy = s.busy := rfl
@[simp] theorem State.setPipe_flaky (s : State) (x : Pipe) : (s.setPipe x).flaky = s.flaky := rfl
@[simp] theorem State.setPipe_dev (s : State) (x : Pipe) : (s.setPipe x).dev = s.dev := rfl
@[simp] theorem State.setPipe_pot (s : State) (x : Pipe) : (s.setPipe x).pot = s.pot := rfl
@[simp] theorem State.setPipe_resv (s : State) (x : Pipe) : (s.setPipe x).resv = s.resv := rfl
@[simp] theorem State.setPipe_hot (s : State) (x : Pipe) : (s.setPipe x).hot = s.hot := rfl
@[simp] theorem State.setPipe_snaps (s : State) (x : Pipe) : (s.setPipe x).snaps = s.snaps := rfl
@[simp] theorem State.setPipe_errs (s : State) (x : Pipe) : (s.setPipe x).errs = s.errs := rfl
@[simp] theorem State.setPipe_mcmds (s : State) (x : Pipe) : (s.setPipe x).mcmds = s.mcmds := rfl
@[simp] theorem State.setPipe_joints (s : State) (x : Pipe) : (s.setPipe x).joints = s.joints := rfl
@[simp] theorem State.setPipe_ccmds (s : State) (x : Pipe) : (s.setPipe x).ccmds = s.ccmds := rfl
@[simp] theorem State.setPipe_ncmds (s : State) (x : Pipe) : (s.setPipe x).ncmds = s.ncmds := rfl
@[simp] theorem State.setPipe_ringq (s : State) (x : Pipe) : (s.setPipe x).ringq = s.ringq := rfl
@[simp] theorem State.setPipe_wire (s : State) (x : Pipe) : (s.setPipe x).wire = s.wire := rfl
@[simp] theorem State.setPipe_sentq (s : State) (x : Pipe) : (s.setPipe x).sentq = s.sentq := rfl
@[simp] theorem State.setPipe_rx (s : State) (x : Pipe) : (s.setPipe x).rx = s.rx := rfl
@[simp] theorem State.setPipe_inmsgs (s : State) (x : Pipe) : (s.setPipe x).inmsgs = s.inmsgs := rfl
@[simp] theorem State.setPipe_rodOut (s : State) (x : Pipe) : (s.setPipe x).rodOut = s.rodOut := rfl
@[simp] theorem State.setPipe_rodIn (s : State) (x : Pipe) : (s.setPipe x).rodIn = s.rodIn := rfl
@[simp] theorem State.setPipe_sends (s : State) (x : Pipe) : (s.setPipe x).sends = s.sends := rfl
@[simp] theorem State.setPipe_pools (s : State) (x : Pipe) : (s.setPipe x).pools = s.pools := rfl
@[simp] theorem State.setPipe_tokq (s : State) (x : Pipe) : (s.setPipe x).tokq = s.tokq := rfl
@[simp] theorem State.setPipe_budgets (s : State) (x : Pipe) : (s.setPipe x).budgets = s.budgets := rfl
@[simp] theorem State.setPipe_ucnt (s : State) (x : Pipe) : (s.setPipe x).ucnt = s.ucnt := rfl
@[simp] theorem State.setPipe_images (s : State) (x : Pipe) : (s.setPipe x).images = s.images := rfl
@[simp] theorem State.setPipe_swaps (s : State) (x : Pipe) : (s.setPipe x).swaps = s.swaps := rfl
@[simp] theorem State.setPipe_plan (s : State) (x : Pipe) : (s.setPipe x).plan = s.plan := rfl
@[simp] theorem State.setPipe_down (s : State) (x : Pipe) : (s.setPipe x).down = s.down := rfl
@[simp] theorem State.setPipe_held (s : State) (x : Pipe) : (s.setPipe x).held = s.held := rfl
@[simp] theorem State.setPipe_pauses (s : State) (x : Pipe) : (s.setPipe x).pauses = s.pauses := rfl
@[simp] theorem State.setPipe_bells (s : State) (x : Pipe) : (s.setPipe x).bells = s.bells := rfl
@[simp] theorem State.setPipe_rung (s : State) (x : Pipe) : (s.setPipe x).rung = s.rung := rfl



/-! ## Changing the threads of a group -/

@[simp] theorem Group.mapThreads_core (g : Group) (f : Thread → Thread) : (g.mapThreads f).core = g.core := rfl
@[simp] theorem Group.mapThreads_slot (g : Group) (f : Thread → Thread) : (g.mapThreads f).slot = g.slot := rfl
@[simp] theorem Group.mapThreads_quarter (g : Group) (f : Thread → Thread) : (g.mapThreads f).quarter = g.quarter := rfl
@[simp] theorem Group.mapThreads_team (g : Group) (f : Thread → Thread) : (g.mapThreads f).team = g.team := rfl
@[simp] theorem Group.mapThreads_priv (g : Group) (f : Thread → Thread) : (g.mapThreads f).priv = g.priv := rfl
@[simp] theorem Group.mapThreads_world (g : Group) (f : Thread → Thread) : (g.mapThreads f).world = g.world := rfl
@[simp] theorem Group.mapThreads_asid (g : Group) (f : Thread → Thread) : (g.mapThreads f).asid = g.asid := rfl
@[simp] theorem Group.mapThreads_kcls (g : Group) (f : Thread → Thread) : (g.mapThreads f).kcls = g.kcls := rfl
@[simp] theorem Group.mapThreads_prom (g : Group) (f : Thread → Thread) : (g.mapThreads f).prom = g.prom := rfl
@[simp] theorem Group.mapThreads_gid (g : Group) (f : Thread → Thread) : (g.mapThreads f).gid = g.gid := rfl
@[simp] theorem Group.mapThreads_tx (g : Group) (f : Thread → Thread) : (g.mapThreads f).tx = g.tx := rfl
@[simp] theorem Group.mapThreads_ty (g : Group) (f : Thread → Thread) : (g.mapThreads f).ty = g.ty := rfl
@[simp] theorem Group.mapThreads_tz (g : Group) (f : Thread → Thread) : (g.mapThreads f).tz = g.tz := rfl
@[simp] theorem Group.mapThreads_clid (g : Group) (f : Thread → Thread) : (g.mapThreads f).clid = g.clid := rfl
@[simp] theorem Group.mapThreads_ch (g : Group) (f : Thread → Thread) : (g.mapThreads f).ch = g.ch := rfl
@[simp] theorem Group.mapThreads_cw (g : Group) (f : Thread → Thread) : (g.mapThreads f).cw = g.cw := rfl
@[simp] theorem Group.mapThreads_cy (g : Group) (f : Thread → Thread) : (g.mapThreads f).cy = g.cy := rfl
@[simp] theorem Group.mapThreads_cx (g : Group) (f : Thread → Thread) : (g.mapThreads f).cx = g.cx := rfl
@[simp] theorem Group.mapThreads_lseq (g : Group) (f : Thread → Thread) : (g.mapThreads f).lseq = g.lseq := rfl
@[simp] theorem Group.mapThreads_lq (g : Group) (f : Thread → Thread) : (g.mapThreads f).lq = g.lq := rfl
@[simp] theorem Group.mapThreads_ginst (g : Group) (f : Thread → Thread) : (g.mapThreads f).ginst = g.ginst := rfl
@[simp] theorem Group.mapThreads_gw (g : Group) (f : Thread → Thread) : (g.mapThreads f).gw = g.gw := rfl
@[simp] theorem Group.mapThreads_nreg (g : Group) (f : Thread → Thread) : (g.mapThreads f).nreg = g.nreg := rfl
@[simp] theorem Group.mapThreads_rm (g : Group) (f : Thread → Thread) : (g.mapThreads f).rm = g.rm := rfl
@[simp] theorem Group.mapThreads_srseed (g : Group) (f : Thread → Thread) : (g.mapThreads f).srseed = g.srseed := rfl
@[simp] theorem Group.mapThreads_fflags (g : Group) (f : Thread → Thread) : (g.mapThreads f).fflags = g.fflags := rfl
@[simp] theorem Group.mapThreads_rcvbase (g : Group) (f : Thread → Thread) : (g.mapThreads f).rcvbase = g.rcvbase := rfl
@[simp] theorem Group.mapThreads_rcvdepth (g : Group) (f : Thread → Thread) : (g.mapThreads f).rcvdepth = g.rcvdepth := rfl
@[simp] theorem Group.mapThreads_stkBase (g : Group) (f : Thread → Thread) : (g.mapThreads f).stkBase = g.stkBase := rfl
@[simp] theorem Group.mapThreads_stkSzc (g : Group) (f : Thread → Thread) : (g.mapThreads f).stkSzc = g.stkSzc := rfl
@[simp] theorem Group.mapThreads_spadsz (g : Group) (f : Thread → Thread) : (g.mapThreads f).spadsz = g.spadsz := rfl
@[simp] theorem Group.mapThreads_s (g : Group) (f : Thread → Thread) : (g.mapThreads f).s = g.s := rfl
@[simp] theorem Group.mapThreads_m (g : Group) (f : Thread → Thread) : (g.mapThreads f).m = g.m := rfl
@[simp] theorem Group.mapThreads_frames (g : Group) (f : Thread → Thread) : (g.mapThreads f).frames = g.frames := rfl
@[simp] theorem Group.mapThreads_armed (g : Group) (f : Thread → Thread) : (g.mapThreads f).armed = g.armed := rfl
@[simp] theorem Group.mapThreads_armDirty (g : Group) (f : Thread → Thread) : (g.mapThreads f).armDirty = g.armDirty := rfl
@[simp] theorem Group.mapThreads_fzS (g : Group) (f : Thread → Thread) : (g.mapThreads f).fzS = g.fzS := rfl
@[simp] theorem Group.mapThreads_fzF (g : Group) (f : Thread → Thread) : (g.mapThreads f).fzF = g.fzF := rfl
@[simp] theorem Group.mapThreads_fzB (g : Group) (f : Thread → Thread) : (g.mapThreads f).fzB = g.fzB := rfl
@[simp] theorem Group.mapThreads_fzC (g : Group) (f : Thread → Thread) : (g.mapThreads f).fzC = g.fzC := rfl
@[simp] theorem Group.mapThreads_dead (g : Group) (f : Thread → Thread) : (g.mapThreads f).dead = g.dead := rfl
@[simp] theorem Group.mapThreads_pri (g : Group) (f : Thread → Thread) : (g.mapThreads f).pri = g.pri := rfl
@[simp] theorem Group.mapThreads_age (g : Group) (f : Thread → Thread) : (g.mapThreads f).age = g.age := rfl
@[simp] theorem Group.mapThreads_waited (g : Group) (f : Thread → Thread) : (g.mapThreads f).waited = g.waited := rfl
@[simp] theorem Group.mapThreads_boost (g : Group) (f : Thread → Thread) : (g.mapThreads f).boost = g.boost := rfl
@[simp] theorem Group.mapThreads_service (g : Group) (f : Thread → Thread) : (g.mapThreads f).service = g.service := rfl
@[simp] theorem Group.mapThreads_seated (g : Group) (f : Thread → Thread) : (g.mapThreads f).seated = g.seated := rfl
@[simp] theorem Group.mapThreads_owned (g : Group) (f : Thread → Thread) : (g.mapThreads f).owned = g.owned := rfl

/-! ## Changing one thread of a group -/

@[simp] theorem Group.setThread_core (g : Group) (l : Nat) (f : Thread → Thread) : (g.setThread l f).core = g.core := rfl
@[simp] theorem Group.setThread_slot (g : Group) (l : Nat) (f : Thread → Thread) : (g.setThread l f).slot = g.slot := rfl
@[simp] theorem Group.setThread_quarter (g : Group) (l : Nat) (f : Thread → Thread) : (g.setThread l f).quarter = g.quarter := rfl
@[simp] theorem Group.setThread_team (g : Group) (l : Nat) (f : Thread → Thread) : (g.setThread l f).team = g.team := rfl
@[simp] theorem Group.setThread_priv (g : Group) (l : Nat) (f : Thread → Thread) : (g.setThread l f).priv = g.priv := rfl
@[simp] theorem Group.setThread_world (g : Group) (l : Nat) (f : Thread → Thread) : (g.setThread l f).world = g.world := rfl
@[simp] theorem Group.setThread_asid (g : Group) (l : Nat) (f : Thread → Thread) : (g.setThread l f).asid = g.asid := rfl
@[simp] theorem Group.setThread_kcls (g : Group) (l : Nat) (f : Thread → Thread) : (g.setThread l f).kcls = g.kcls := rfl
@[simp] theorem Group.setThread_prom (g : Group) (l : Nat) (f : Thread → Thread) : (g.setThread l f).prom = g.prom := rfl
@[simp] theorem Group.setThread_gid (g : Group) (l : Nat) (f : Thread → Thread) : (g.setThread l f).gid = g.gid := rfl
@[simp] theorem Group.setThread_tx (g : Group) (l : Nat) (f : Thread → Thread) : (g.setThread l f).tx = g.tx := rfl
@[simp] theorem Group.setThread_ty (g : Group) (l : Nat) (f : Thread → Thread) : (g.setThread l f).ty = g.ty := rfl
@[simp] theorem Group.setThread_tz (g : Group) (l : Nat) (f : Thread → Thread) : (g.setThread l f).tz = g.tz := rfl
@[simp] theorem Group.setThread_clid (g : Group) (l : Nat) (f : Thread → Thread) : (g.setThread l f).clid = g.clid := rfl
@[simp] theorem Group.setThread_ch (g : Group) (l : Nat) (f : Thread → Thread) : (g.setThread l f).ch = g.ch := rfl
@[simp] theorem Group.setThread_cw (g : Group) (l : Nat) (f : Thread → Thread) : (g.setThread l f).cw = g.cw := rfl
@[simp] theorem Group.setThread_cy (g : Group) (l : Nat) (f : Thread → Thread) : (g.setThread l f).cy = g.cy := rfl
@[simp] theorem Group.setThread_cx (g : Group) (l : Nat) (f : Thread → Thread) : (g.setThread l f).cx = g.cx := rfl
@[simp] theorem Group.setThread_lseq (g : Group) (l : Nat) (f : Thread → Thread) : (g.setThread l f).lseq = g.lseq := rfl
@[simp] theorem Group.setThread_lq (g : Group) (l : Nat) (f : Thread → Thread) : (g.setThread l f).lq = g.lq := rfl
@[simp] theorem Group.setThread_ginst (g : Group) (l : Nat) (f : Thread → Thread) : (g.setThread l f).ginst = g.ginst := rfl
@[simp] theorem Group.setThread_gw (g : Group) (l : Nat) (f : Thread → Thread) : (g.setThread l f).gw = g.gw := rfl
@[simp] theorem Group.setThread_nreg (g : Group) (l : Nat) (f : Thread → Thread) : (g.setThread l f).nreg = g.nreg := rfl
@[simp] theorem Group.setThread_rm (g : Group) (l : Nat) (f : Thread → Thread) : (g.setThread l f).rm = g.rm := rfl
@[simp] theorem Group.setThread_srseed (g : Group) (l : Nat) (f : Thread → Thread) : (g.setThread l f).srseed = g.srseed := rfl
@[simp] theorem Group.setThread_fflags (g : Group) (l : Nat) (f : Thread → Thread) : (g.setThread l f).fflags = g.fflags := rfl
@[simp] theorem Group.setThread_rcvbase (g : Group) (l : Nat) (f : Thread → Thread) : (g.setThread l f).rcvbase = g.rcvbase := rfl
@[simp] theorem Group.setThread_rcvdepth (g : Group) (l : Nat) (f : Thread → Thread) : (g.setThread l f).rcvdepth = g.rcvdepth := rfl
@[simp] theorem Group.setThread_stkBase (g : Group) (l : Nat) (f : Thread → Thread) : (g.setThread l f).stkBase = g.stkBase := rfl
@[simp] theorem Group.setThread_stkSzc (g : Group) (l : Nat) (f : Thread → Thread) : (g.setThread l f).stkSzc = g.stkSzc := rfl
@[simp] theorem Group.setThread_spadsz (g : Group) (l : Nat) (f : Thread → Thread) : (g.setThread l f).spadsz = g.spadsz := rfl
@[simp] theorem Group.setThread_s (g : Group) (l : Nat) (f : Thread → Thread) : (g.setThread l f).s = g.s := rfl
@[simp] theorem Group.setThread_m (g : Group) (l : Nat) (f : Thread → Thread) : (g.setThread l f).m = g.m := rfl
@[simp] theorem Group.setThread_frames (g : Group) (l : Nat) (f : Thread → Thread) : (g.setThread l f).frames = g.frames := rfl
@[simp] theorem Group.setThread_armed (g : Group) (l : Nat) (f : Thread → Thread) : (g.setThread l f).armed = g.armed := rfl
@[simp] theorem Group.setThread_armDirty (g : Group) (l : Nat) (f : Thread → Thread) : (g.setThread l f).armDirty = g.armDirty := rfl
@[simp] theorem Group.setThread_fzS (g : Group) (l : Nat) (f : Thread → Thread) : (g.setThread l f).fzS = g.fzS := rfl
@[simp] theorem Group.setThread_fzF (g : Group) (l : Nat) (f : Thread → Thread) : (g.setThread l f).fzF = g.fzF := rfl
@[simp] theorem Group.setThread_fzB (g : Group) (l : Nat) (f : Thread → Thread) : (g.setThread l f).fzB = g.fzB := rfl
@[simp] theorem Group.setThread_fzC (g : Group) (l : Nat) (f : Thread → Thread) : (g.setThread l f).fzC = g.fzC := rfl
@[simp] theorem Group.setThread_dead (g : Group) (l : Nat) (f : Thread → Thread) : (g.setThread l f).dead = g.dead := rfl
@[simp] theorem Group.setThread_pri (g : Group) (l : Nat) (f : Thread → Thread) : (g.setThread l f).pri = g.pri := rfl
@[simp] theorem Group.setThread_age (g : Group) (l : Nat) (f : Thread → Thread) : (g.setThread l f).age = g.age := rfl
@[simp] theorem Group.setThread_waited (g : Group) (l : Nat) (f : Thread → Thread) : (g.setThread l f).waited = g.waited := rfl
@[simp] theorem Group.setThread_boost (g : Group) (l : Nat) (f : Thread → Thread) : (g.setThread l f).boost = g.boost := rfl
@[simp] theorem Group.setThread_service (g : Group) (l : Nat) (f : Thread → Thread) : (g.setThread l f).service = g.service := rfl
@[simp] theorem Group.setThread_seated (g : Group) (l : Nat) (f : Thread → Thread) : (g.setThread l f).seated = g.seated := rfl
@[simp] theorem Group.setThread_owned (g : Group) (l : Nat) (f : Thread → Thread) : (g.setThread l f).owned = g.owned := rfl

/-! ## Moving past an instruction -/

@[simp] theorem movePast_core (s : State) (g : Group) : (movePast s g).core = g.core := rfl
@[simp] theorem movePast_slot (s : State) (g : Group) : (movePast s g).slot = g.slot := rfl
@[simp] theorem movePast_quarter (s : State) (g : Group) : (movePast s g).quarter = g.quarter := rfl
@[simp] theorem movePast_team (s : State) (g : Group) : (movePast s g).team = g.team := rfl
@[simp] theorem movePast_priv (s : State) (g : Group) : (movePast s g).priv = g.priv := rfl
@[simp] theorem movePast_world (s : State) (g : Group) : (movePast s g).world = g.world := rfl
@[simp] theorem movePast_asid (s : State) (g : Group) : (movePast s g).asid = g.asid := rfl
@[simp] theorem movePast_kcls (s : State) (g : Group) : (movePast s g).kcls = g.kcls := rfl
@[simp] theorem movePast_prom (s : State) (g : Group) : (movePast s g).prom = g.prom := rfl
@[simp] theorem movePast_gid (s : State) (g : Group) : (movePast s g).gid = g.gid := rfl
@[simp] theorem movePast_tx (s : State) (g : Group) : (movePast s g).tx = g.tx := rfl
@[simp] theorem movePast_ty (s : State) (g : Group) : (movePast s g).ty = g.ty := rfl
@[simp] theorem movePast_tz (s : State) (g : Group) : (movePast s g).tz = g.tz := rfl
@[simp] theorem movePast_clid (s : State) (g : Group) : (movePast s g).clid = g.clid := rfl
@[simp] theorem movePast_ch (s : State) (g : Group) : (movePast s g).ch = g.ch := rfl
@[simp] theorem movePast_cw (s : State) (g : Group) : (movePast s g).cw = g.cw := rfl
@[simp] theorem movePast_cy (s : State) (g : Group) : (movePast s g).cy = g.cy := rfl
@[simp] theorem movePast_cx (s : State) (g : Group) : (movePast s g).cx = g.cx := rfl
@[simp] theorem movePast_lseq (s : State) (g : Group) : (movePast s g).lseq = g.lseq := rfl
@[simp] theorem movePast_lq (s : State) (g : Group) : (movePast s g).lq = g.lq := rfl
@[simp] theorem movePast_ginst (s : State) (g : Group) : (movePast s g).ginst = g.ginst := rfl
@[simp] theorem movePast_gw (s : State) (g : Group) : (movePast s g).gw = g.gw := rfl
@[simp] theorem movePast_nreg (s : State) (g : Group) : (movePast s g).nreg = g.nreg := rfl
@[simp] theorem movePast_rm (s : State) (g : Group) : (movePast s g).rm = g.rm := rfl
@[simp] theorem movePast_srseed (s : State) (g : Group) : (movePast s g).srseed = g.srseed := rfl
@[simp] theorem movePast_fflags (s : State) (g : Group) : (movePast s g).fflags = g.fflags := rfl
@[simp] theorem movePast_rcvbase (s : State) (g : Group) : (movePast s g).rcvbase = g.rcvbase := rfl
@[simp] theorem movePast_rcvdepth (s : State) (g : Group) : (movePast s g).rcvdepth = g.rcvdepth := rfl
@[simp] theorem movePast_stkBase (s : State) (g : Group) : (movePast s g).stkBase = g.stkBase := rfl
@[simp] theorem movePast_stkSzc (s : State) (g : Group) : (movePast s g).stkSzc = g.stkSzc := rfl
@[simp] theorem movePast_spadsz (s : State) (g : Group) : (movePast s g).spadsz = g.spadsz := rfl
@[simp] theorem movePast_s (s : State) (g : Group) : (movePast s g).s = g.s := rfl
@[simp] theorem movePast_m (s : State) (g : Group) : (movePast s g).m = g.m := rfl
@[simp] theorem movePast_frames (s : State) (g : Group) : (movePast s g).frames = g.frames := rfl
@[simp] theorem movePast_armed (s : State) (g : Group) : (movePast s g).armed = g.armed := rfl
@[simp] theorem movePast_armDirty (s : State) (g : Group) : (movePast s g).armDirty = g.armDirty := rfl
@[simp] theorem movePast_fzS (s : State) (g : Group) : (movePast s g).fzS = g.fzS := rfl
@[simp] theorem movePast_fzF (s : State) (g : Group) : (movePast s g).fzF = g.fzF := rfl
@[simp] theorem movePast_fzB (s : State) (g : Group) : (movePast s g).fzB = g.fzB := rfl
@[simp] theorem movePast_fzC (s : State) (g : Group) : (movePast s g).fzC = g.fzC := rfl
@[simp] theorem movePast_dead (s : State) (g : Group) : (movePast s g).dead = g.dead := rfl
@[simp] theorem movePast_pri (s : State) (g : Group) : (movePast s g).pri = g.pri := rfl
@[simp] theorem movePast_age (s : State) (g : Group) : (movePast s g).age = g.age := rfl
@[simp] theorem movePast_waited (s : State) (g : Group) : (movePast s g).waited = g.waited := rfl
@[simp] theorem movePast_boost (s : State) (g : Group) : (movePast s g).boost = g.boost := rfl
@[simp] theorem movePast_service (s : State) (g : Group) : (movePast s g).service = g.service := rfl
@[simp] theorem movePast_seated (s : State) (g : Group) : (movePast s g).seated = g.seated := rfl
@[simp] theorem movePast_owned (s : State) (g : Group) : (movePast s g).owned = g.owned := rfl

/-! ## A thread that moves past an instruction -/

@[simp] theorem State.past_lane (s : State) (t : Thread) : (s.past t).lane = t.lane := rfl
@[simp] theorem State.past_v (s : State) (t : Thread) : (s.past t).v = t.v := rfl
@[simp] theorem State.past_h (s : State) (t : Thread) : (s.past t).h = t.h := rfl
@[simp] theorem State.past_srg (s : State) (t : Thread) : (s.past t).srg = t.srg := rfl
@[simp] theorem State.past_st (s : State) (t : Thread) : (s.past t).st = t.st := rfl
@[simp] theorem State.past_setId (s : State) (t : Thread) : (s.past t).setId = t.setId := rfl
@[simp] theorem State.past_path (s : State) (t : Thread) : (s.past t).path = t.path := rfl
@[simp] theorem State.past_logRec (s : State) (t : Thread) : (s.past t).logRec = t.logRec := rfl
@[simp] theorem State.past_logErr (s : State) (t : Thread) : (s.past t).logErr = t.logErr := rfl
@[simp] theorem State.past_tph (s : State) (t : Thread) : (s.past t).tph = t.tph := rfl

/-! ## A thread that goes to an address -/

@[simp] theorem State.goto_lane (s : State) (t : Thread) (a : DWord) : (s.goto t a).lane = t.lane := rfl
@[simp] theorem State.goto_v (s : State) (t : Thread) (a : DWord) : (s.goto t a).v = t.v := rfl
@[simp] theorem State.goto_h (s : State) (t : Thread) (a : DWord) : (s.goto t a).h = t.h := rfl
@[simp] theorem State.goto_srg (s : State) (t : Thread) (a : DWord) : (s.goto t a).srg = t.srg := rfl
@[simp] theorem State.goto_st (s : State) (t : Thread) (a : DWord) : (s.goto t a).st = t.st := rfl
@[simp] theorem State.goto_setId (s : State) (t : Thread) (a : DWord) : (s.goto t a).setId = t.setId := rfl
@[simp] theorem State.goto_path (s : State) (t : Thread) (a : DWord) : (s.goto t a).path = t.path := rfl
@[simp] theorem State.goto_logRec (s : State) (t : Thread) (a : DWord) : (s.goto t a).logRec = t.logRec := rfl
@[simp] theorem State.goto_logErr (s : State) (t : Thread) (a : DWord) : (s.goto t a).logErr = t.logErr := rfl
@[simp] theorem State.goto_tph (s : State) (t : Thread) (a : DWord) : (s.goto t a).tph = t.tph := rfl

/-! ## Pushing a history entry -/

@[simp] theorem Thread.push_lane (t : Thread) (e : HEnt) : (t.push e).lane = t.lane := rfl
@[simp] theorem Thread.push_pc (t : Thread) (e : HEnt) : (t.push e).pc = t.pc := rfl
@[simp] theorem Thread.push_v (t : Thread) (e : HEnt) : (t.push e).v = t.v := rfl
@[simp] theorem Thread.push_srg (t : Thread) (e : HEnt) : (t.push e).srg = t.srg := rfl
@[simp] theorem Thread.push_st (t : Thread) (e : HEnt) : (t.push e).st = t.st := rfl
@[simp] theorem Thread.push_setId (t : Thread) (e : HEnt) : (t.push e).setId = t.setId := rfl
@[simp] theorem Thread.push_path (t : Thread) (e : HEnt) : (t.push e).path = t.path := rfl
@[simp] theorem Thread.push_since (t : Thread) (e : HEnt) : (t.push e).since = t.since := rfl
@[simp] theorem Thread.push_logRec (t : Thread) (e : HEnt) : (t.push e).logRec = t.logRec := rfl
@[simp] theorem Thread.push_logErr (t : Thread) (e : HEnt) : (t.push e).logErr = t.logErr := rfl
@[simp] theorem Thread.push_tph (t : Thread) (e : HEnt) : (t.push e).tph = t.tph := rfl
@[simp] theorem Thread.push_bpSkip (t : Thread) (e : HEnt) : (t.push e).bpSkip = t.bpSkip := rfl

/-! ## Parking on a fault record -/

@[simp] theorem parkOn_lane (n : Nat) (t : Thread) : (parkOn n t).lane = t.lane := rfl
@[simp] theorem parkOn_pc (n : Nat) (t : Thread) : (parkOn n t).pc = t.pc := rfl
@[simp] theorem parkOn_v (n : Nat) (t : Thread) : (parkOn n t).v = t.v := rfl
@[simp] theorem parkOn_h (n : Nat) (t : Thread) : (parkOn n t).h = t.h := rfl
@[simp] theorem parkOn_srg (n : Nat) (t : Thread) : (parkOn n t).srg = t.srg := rfl
@[simp] theorem parkOn_setId (n : Nat) (t : Thread) : (parkOn n t).setId = t.setId := rfl
@[simp] theorem parkOn_path (n : Nat) (t : Thread) : (parkOn n t).path = t.path := rfl
@[simp] theorem parkOn_since (n : Nat) (t : Thread) : (parkOn n t).since = t.since := rfl
@[simp] theorem parkOn_logRec (n : Nat) (t : Thread) : (parkOn n t).logRec = t.logRec := rfl
@[simp] theorem parkOn_logErr (n : Nat) (t : Thread) : (parkOn n t).logErr = t.logErr := rfl
@[simp] theorem parkOn_tph (n : Nat) (t : Thread) : (parkOn n t).tph = t.tph := rfl
@[simp] theorem parkOn_bpSkip (n : Nat) (t : Thread) : (parkOn n t).bpSkip = t.bpSkip := rfl

end Sys2Proof.Machine
end

