-- ==== Sys2Proof/Laws/Group.lean ====
section
/-! SUPPORT. Finding a group, replacing it, and noting what it wrote. -/

namespace Sys2Proof.Machine

/-- A group found at a place is of that place. -/
theorem State.group?_place {s : State} {c n : Nat} {g : Group} (h : s.group? c n = some g) : g.core = c ∧ g.slot = n := by
  have := List.find?_some h
  simpa using this

/-- A group found is resident. -/
theorem State.group?_mem {s : State} {c n : Nat} {g : Group} (h : s.group? c n = some g) : g ∈ s.groups :=
  List.mem_of_find?_eq_some h

/-- The issuing group is of the place that the state names. -/
theorem Issuer.place {s : State} {g : Group} (h : Issuer s g) : g.core = s.cur.core ∧ g.slot = s.cur.slot :=
  State.group?_place h

/-- The issuing group is the one found, and the answer of a meaning run for it. -/
theorem onGroup_issuer {s : State} {g : Group} (h : Issuer s g) (k : Group → Out) : onGroup s k = k g := by
  unfold Issuer at h
  simp [onGroup, h]

/-- A replaced group is found at its place. -/
theorem State.group?_putGroup_same {s : State} {g g' : Group} {c n : Nat} (h : s.group? c n = some g)
    (hc : g'.core = c) (hs : g'.slot = n) : (s.putGroup g').group? c n = some g' := by
  subst hc; subst hs
  simp only [State.group?, State.putGroup] at h ⊢
  generalize s.groups = l at h ⊢
  induction l with
  | nil => simp at h
  | cons a l ih =>
    simp only [List.map_cons, List.find?_cons] at h ⊢
    by_cases e : (a.core == g'.core && a.slot == g'.slot) = true
    · simp [e]
    · simp only [e, Bool.false_eq_true, ↓reduceIte] at h ⊢
      exact ih h

/-- A replaced group changes what is found nowhere else. -/
theorem State.group?_putGroup_other {s : State} {g' : Group} {c n : Nat} (h : ¬ (g'.core = c ∧ g'.slot = n)) :
    (s.putGroup g').group? c n = s.group? c n := by
  simp only [State.group?, State.putGroup]
  generalize s.groups = l
  induction l with
  | nil => rfl
  | cons a l ih =>
    simp only [List.map_cons, List.find?_cons]
    by_cases e : (a.core == g'.core && a.slot == g'.slot) = true
    · simp only [e, ↓reduceIte, ih]
      simp only [Bool.and_eq_true, beq_iff_eq] at e
      have h1 : (g'.core == c && g'.slot == n) = false := by simpa using h
      have h2 : (a.core == c && a.slot == n) = false := by rw [e.1, e.2]; exact h1
      simp [h1, h2]
    · simp only [e, Bool.false_eq_true, ↓reduceIte, ih]

/-- The group after `putGroup` at its own place. -/
theorem Issuer.after_putGroup {s : State} {g g' : Group} (h : Issuer s g) (hc : g'.core = g.core) (hs : g'.slot = g.slot) :
    After (s.putGroup g') g g' := by
  obtain ⟨h1, h2⟩ := h.place
  exact State.group?_putGroup_same (by rw [h1, h2]; exact h) hc hs

/-- Noting written registers changes only a group's notes for matrix commands. -/
theorem Group.dirtyRegs_eq (g : Group) (lane : Nat) (w : DW) (d : Sel) :
    g.dirtyRegs lane w d = { g with owned := (g.dirtyRegs lane w d).owned, armDirty := (g.dirtyRegs lane w d).armDirty } := by
  unfold Group.dirtyRegs Group.dirtyFrom
  split <;> rfl

/-- The same for several lanes. -/
theorem Group.dirtyFold_eq (l : List Thread) (w : DW) (d : Sel) (g : Group) :
    ∃ o a, l.foldl (fun h t => h.dirtyRegs t.lane w d) g = { g with owned := o, armDirty := a } := by
  induction l generalizing g with
  | nil => exact ⟨g.owned, g.armDirty, rfl⟩
  | cons t l ih =>
    obtain ⟨o, a, e⟩ := ih (g.dirtyRegs t.lane w d)
    refine ⟨o, a, ?_⟩
    simp only [List.foldl_cons]
    rw [e, g.dirtyRegs_eq]

/-- Noting what the lanes of a mask wrote changes only a group's notes for matrix commands. -/
theorem Group.noteWrites_eq (g : Group) (m : DWord) (w : DW) (d : Sel) :
    ∃ o a, g.noteWrites m w d = { g with owned := o, armDirty := a } := Group.dirtyFold_eq _ w d g

end Sys2Proof.Machine
end

