-- ==== Sys2Proof/Laws/Memory.lean ====
section
/-! SUPPORT. Memory's canonical form: every operation on the list of cells keeps it, equal contents are equal lists, and a
read after a write gives what was written there and what stood elsewhere. -/

namespace Sys2Proof.Machine

open Host (Cell)

/-! ## The canonical form -/

/-- The head of a canonical list: it is no blank cell, and every later key is greater. -/
theorem memory_wf_cons {a : Nat} {b : Byte} {r : List Cell} :
    Memory.wf ((a, b) :: r) = true ↔ b ≠ blank a ∧ (∀ c ∈ r, a < c.1) ∧ Memory.wf r = true := by
  induction r generalizing a b with
  | nil => simp [Memory.wf]
  | cons c r ih =>
    obtain ⟨c, d⟩ := c
    have hw : Memory.wf ((a, b) :: (c, d) :: r) = (b != blank a && decide (a < c) && Memory.wf ((c, d) :: r)) := rfl
    rw [hw]
    simp only [Bool.and_eq_true, bne_iff_ne, decide_eq_true_eq]
    constructor
    · rintro ⟨⟨h1, h2⟩, h3⟩
      refine ⟨h1, ?_, h3⟩
      intro e he
      rcases List.mem_cons.1 he with rfl | he
      · exact h2
      · have := (ih.1 h3).2.1 e he
        omega
    · rintro ⟨h1, h2, h3⟩
      exact ⟨⟨h1, h2 (c, d) (List.mem_cons_self ..)⟩, h3⟩

/-- A part of a canonical list, in its order, is canonical. -/
theorem memory_wf_sublist {m n : List Cell} (h : n.Sublist m) (hm : Memory.wf m = true) : Memory.wf n = true := by
  induction h with
  | slnil => rfl
  | cons c _ ih => exact ih (memory_wf_cons.1 hm).2.2
  | cons_cons c hs ih =>
    obtain ⟨h1, h2, h3⟩ := memory_wf_cons.1 hm
    exact memory_wf_cons.2 ⟨h1, fun e he => h2 e (hs.subset he), ih h3⟩

theorem memory_wf_filter {m : List Cell} (p : Cell → Bool) (hm : Memory.wf m = true) : Memory.wf (m.filter p) = true :=
  memory_wf_sublist List.filter_sublist hm

theorem memDrop_wf {m : List Cell} (lo hi : Nat) (hm : Memory.wf m = true) : Memory.wf (memDrop m lo hi) = true :=
  memory_wf_filter _ hm

/-- The keys of a list that is written are its old keys and the written one. -/
theorem memSet_keys {m : List Cell} {k : Nat} {v : Byte} {c : Cell} (h : c ∈ memSet m k v) : c.1 = k ∨ c ∈ m := by
  induction m with
  | nil =>
    simp only [memSet] at h
    split at h <;> simp_all
  | cons a r ih =>
    obtain ⟨a, b⟩ := a
    simp only [memSet] at h
    split at h
    · split at h
      · exact .inr (List.mem_cons_of_mem _ h)
      · rcases List.mem_cons.1 h with rfl | h
        · exact .inl rfl
        · exact .inr (List.mem_cons_of_mem _ h)
    · split at h
      · split at h
        · exact .inr h
        · rcases List.mem_cons.1 h with rfl | h
          · exact .inl rfl
          · exact .inr h
      · rcases List.mem_cons.1 h with rfl | h
        · exact .inr (List.mem_cons_self ..)
        · rcases ih h with h | h
          · exact .inl h
          · exact .inr (List.mem_cons_of_mem _ h)

/-- A write keeps the canonical form. -/
theorem memSet_wf {m : List Cell} (k : Nat) (v : Byte) (hm : Memory.wf m = true) : Memory.wf (memSet m k v) = true := by
  induction m with
  | nil =>
    simp only [memSet]
    split
    · rfl
    · simp_all [Memory.wf]
  | cons a r ih =>
    obtain ⟨a, b⟩ := a
    obtain ⟨h1, h2, h3⟩ := memory_wf_cons.1 hm
    simp only [memSet]
    split
    · rename_i e
      obtain rfl : a = k := by simpa using e
      split
      · exact h3
      · rename_i hv
        exact memory_wf_cons.2 ⟨by simpa using hv, h2, h3⟩
    · rename_i e
      have e : a ≠ k := by simpa using e
      split
      · split
        · exact hm
        · rename_i hlt hv
          refine memory_wf_cons.2 ⟨by simpa using hv, ?_, hm⟩
          intro c hc
          rcases List.mem_cons.1 hc with rfl | hc
          · exact hlt
          · have := h2 c hc
            omega
      · refine memory_wf_cons.2 ⟨h1, ?_, ih h3⟩
        intro c hc
        rcases memSet_keys hc with h | h
        · omega
        · exact h2 c h

theorem memFill_wf {m : List Cell} (k : Nat) (bs : List Byte) (hm : Memory.wf m = true) : Memory.wf (memFill m k bs) = true := by
  induction bs generalizing m k with
  | nil => exact hm
  | cons b bs ih => exact ih (k + 1) (memSet_wf k b hm)

/-- Putting cells back one by one keeps the canonical form. -/
theorem memFold_wf {α : Type} {m : List Cell} (l : List α) (f : α → Nat) (g : α → Byte) (hm : Memory.wf m = true) :
    Memory.wf (l.foldl (fun m c => memSet m (f c) (g c)) m) = true := by
  induction l generalizing m with
  | nil => exact hm
  | cons c l ih => exact ih (memSet_wf _ _ hm)

/-! ## Reading -/

/-- A key below every listed one reads as unlisted. -/
theorem memGet_below {m : List Cell} {k : Nat} (h : ∀ c ∈ m, k < c.1) : memGet m k = blank k := by
  cases m with
  | nil => rfl
  | cons c r =>
    have := h c (List.mem_cons_self ..)
    have e : (c.1 == k) = false := by simp; omega
    simp [memGet, e, this]

/-- What a read gives after a write. -/
theorem memGet_memSet {m : List Cell} (hm : Memory.wf m = true) (k j : Nat) (v : Byte) :
    memGet (memSet m k v) j = if j = k then v else memGet m j := by
  induction m with
  | nil =>
    simp only [memSet]
    split
    · rename_i h
      have h : v = blank k := by simpa using h
      split
      · rename_i e; rw [e, h]; rfl
      · rfl
    · simp only [memGet]
      split
      · rename_i e
        have e : k = j := by simpa using e
        simp [e]
      · rename_i e
        have e : k ≠ j := by simpa using e
        rw [if_neg (Ne.symm e)]
        simp
  | cons a r ih =>
    obtain ⟨a, b⟩ := a
    obtain ⟨h1, h2, h3⟩ := memory_wf_cons.1 hm
    have hr : ∀ j, j ≤ a → memGet r j = blank j := fun j hj =>
      memGet_below fun c hc => by have := h2 c hc; omega
    simp only [memSet]
    split
    · rename_i e
      obtain rfl : a = k := by simpa using e
      split
      · rename_i hv
        have hv : v = blank a := by simpa using hv
        by_cases e : j = a
        · rw [if_pos e, e, hv]; exact hr a (Nat.le_refl a)
        · rw [if_neg e]
          simp only [memGet]
          rw [if_neg (by simpa using Ne.symm e)]
          split
          · exact hr j (by omega)
          · rfl
      · simp only [memGet]
        by_cases e : j = a
        · simp [e]
        · simp only [beq_iff_eq, if_neg e, if_neg (Ne.symm e)]
    · rename_i e
      have e : a ≠ k := by simpa using e
      split
      · rename_i hlt
        split
        · rename_i hv
          have hv : v = blank k := by simpa using hv
          by_cases ej : j = k
          · rw [if_pos ej, ej, hv]
            exact memGet_below fun c hc => by
              rcases List.mem_cons.1 hc with rfl | hc
              · exact hlt
              · have := h2 c hc
                omega
          · rw [if_neg ej]
        · by_cases ej : j = k
          · simp [memGet, ej]
          · have ej' : k ≠ j := Ne.symm ej
            rw [if_neg ej]
            conv => lhs; unfold memGet
            simp only [beq_iff_eq, if_neg ej']
            split
            · exact (memGet_below fun c hc => by
                rcases List.mem_cons.1 hc with rfl | hc
                · simp only; omega
                · have := h2 c hc
                  omega).symm
            · rfl
      · rename_i hlt
        conv => lhs; unfold memGet
        simp only [beq_iff_eq]
        by_cases ej : a = j
        · rw [if_pos ej, if_neg (by omega)]
          simp [memGet, ej]
        · rw [if_neg ej, ih h3]
          by_cases ek : j = k
          · rw [if_pos ek, if_pos ek, if_neg (by omega)]
          · rw [if_neg ek, if_neg ek]
            conv => rhs; unfold memGet
            simp only [beq_iff_eq, if_neg ej]

/-- What a read gives after bytes are written from a key on. -/
theorem memGet_memFill {m : List Cell} (hm : Memory.wf m = true) (k j : Nat) (bs : List Byte) :
    memGet (memFill m k bs) j = if k ≤ j ∧ j < k + bs.length then bs.getD (j - k) 0 else memGet m j := by
  induction bs generalizing m k with
  | nil => simp only [memFill, List.length_nil]; rw [if_neg (by omega)]
  | cons b bs ih =>
    simp only [memFill]
    rw [ih (memSet_wf k b hm), memGet_memSet hm]
    simp only [List.length_cons]
    by_cases h : k + 1 ≤ j ∧ j < k + 1 + bs.length
    · rw [if_pos h, if_pos (by omega), show j - k = (j - (k + 1)) + 1 by omega]
      rfl
    · rw [if_neg h]
      by_cases e : j = k
      · rw [if_pos e, if_pos (by omega), e]; simp
      · rw [if_neg e, if_neg (by omega)]

/-- A dropped range reads as unlisted, and everything else as before. -/
theorem memGet_memDrop {m : List Cell} (hm : Memory.wf m = true) (lo hi j : Nat) :
    memGet (memDrop m lo hi) j = if lo ≤ j ∧ j < hi then blank j else memGet m j := by
  induction m with
  | nil => simp [memDrop, memGet]
  | cons a r ih =>
    obtain ⟨a, b⟩ := a
    obtain ⟨h1, h2, h3⟩ := memory_wf_cons.1 hm
    have ih := ih h3
    simp only [memDrop, List.filter_cons] at ih ⊢
    split
    · rename_i hk
      have hk : ¬(lo ≤ a ∧ a < hi) := by simp at hk; omega
      conv => lhs; unfold memGet
      simp only [beq_iff_eq]
      by_cases e : a = j
      · rw [if_pos e, if_neg (by omega)]; simp [memGet, e]
      · rw [if_neg e, ih]
        conv => rhs; unfold memGet
        simp only [beq_iff_eq, if_neg e]
        split
        · split <;> rfl
        · rfl
    · rename_i hk
      have hk : lo ≤ a ∧ a < hi := by simpa using hk
      rw [ih]
      split
      · rfl
      · rename_i hj
        conv => rhs; unfold memGet
        simp only [beq_iff_eq]
        rw [if_neg (by omega)]
        split
        · exact memGet_below fun c hc => by have := h2 c hc; omega
        · rfl

/-- Two canonical lists that read alike are the same list. -/
theorem memory_ext {m n : List Cell} (hm : Memory.wf m = true) (hn : Memory.wf n = true) (h : ∀ k, memGet m k = memGet n k) :
    m = n := by
  induction m generalizing n with
  | nil =>
    cases n with
    | nil => rfl
    | cons c r =>
      obtain ⟨c, d⟩ := c
      have := h c
      simp only [memGet, beq_self_eq_true, ↓reduceIte] at this
      exact absurd this.symm (memory_wf_cons.1 hn).1
  | cons a r ih =>
    obtain ⟨a, b⟩ := a
    obtain ⟨h1, h2, h3⟩ := memory_wf_cons.1 hm
    cases n with
    | nil =>
      have := h a
      simp only [memGet, beq_self_eq_true, ↓reduceIte] at this
      exact absurd this h1
    | cons c q =>
      obtain ⟨c, d⟩ := c
      obtain ⟨g1, g2, g3⟩ := memory_wf_cons.1 hn
      have key : a = c := by
        rcases Nat.lt_trichotomy a c with l | l | l
        · have hk := h a
          rw [memGet_below (m := (c, d) :: q) (k := a) (fun e he => by
            rcases List.mem_cons.1 he with rfl | he
            · exact l
            · have := g2 e he; omega)] at hk
          simp only [memGet, beq_self_eq_true, ↓reduceIte] at hk
          exact absurd hk h1
        · exact l
        · have hk := h c
          rw [memGet_below (m := (a, b) :: r) (k := c) (fun e he => by
            rcases List.mem_cons.1 he with rfl | he
            · exact l
            · have := h2 e he; omega)] at hk
          simp only [memGet, beq_self_eq_true, ↓reduceIte] at hk
          exact absurd hk.symm g1
      subst key
      have hb : b = d := by simpa [memGet] using h a
      subst hb
      refine congrArg _ (ih h3 g3 fun k => ?_)
      by_cases e : a = k
      · subst e
        rw [memGet_below h2, memGet_below g2]
      · have hk := h k
        simp only [memGet, beq_iff_eq, if_neg e] at hk
        split at hk
        · rename_i hlt
          rw [memGet_below (fun e he => by have := h2 e he; omega), memGet_below (fun e he => by have := g2 e he; omega)]
        · exact hk

/-! ## What leaves memory alone -/

/-- A fold of what leaves memory alone leaves it alone. -/
theorem foldl_mem {α : Type} (f : State → α → State) (h : ∀ u a, (f u a).mem = u.mem) (l : List α) (s : State) :
    (l.foldl f s).mem = s.mem := by
  induction l generalizing s with
  | nil => rfl
  | cons a l ih => rw [List.foldl_cons, ih, h]
@[simp] theorem postDevice_mem (s : State) (c : Nat) (r : EaselRec) : (s.postDevice c r).mem = s.mem := by
  unfold State.postDevice; split <;> rfl
@[simp] theorem setLaunch_mem (s : State) (l : Launch) : (s.setLaunch l).mem = s.mem := rfl
@[simp] theorem freezeB_mem (s : State) (p : Group → Bool) : (s.freezeB p).mem = s.mem := rfl
@[simp] theorem freezeF_mem (s : State) (p : Group → Bool) : (s.freezeF p).mem = s.mem := rfl
@[simp] theorem bumpUnit_mem (s : State) (sel n evt : Nat) : (s.bumpUnit sel n evt).mem = s.mem := by
  unfold State.bumpUnit State.postOverflow
  dsimp only
  repeat' split
  all_goals simp
@[simp] theorem countUnit_mem (s : State) (unit index world evt n : Nat) : (s.countUnit unit index world evt n).mem = s.mem := by
  unfold State.countUnit
  split
  · rfl
  · exact foldl_mem _ (fun u i => by dsimp only; split <;> simp) _ _
@[simp] theorem countLine_mem (s : State) (k evt n : Nat) : (s.countLine k evt n).mem = s.mem := by
  simp only [State.countLine]
  repeat' split
  all_goals simp
@[simp] theorem chargeLaunch_mem (s : State) (l : Launch) (c u : Nat) : (s.chargeLaunch l c u).mem = s.mem := by
  simp only [State.chargeLaunch]
  repeat' split
  all_goals simp
@[simp] theorem chargeWorld_mem (s : State) (w u : Nat) : (s.chargeWorld w u).mem = s.mem := by
  simp only [State.chargeWorld]
  repeat' split
  all_goals simp
@[simp] theorem charge_mem (s : State) (p : Poster) (u : Nat) : (s.charge p u).mem = s.mem := by
  simp only [State.charge, chargeWorld_mem]
  repeat' split
  all_goals simp
@[simp] theorem worldFatal_mem (s : State) (w pa : Nat) : (s.worldFatal w pa).mem = s.mem := by
  simp only [State.worldFatal, postDevice_mem]
  rfl
@[simp] theorem meetOne_mem (s : State) (p : Poster) (m : ErrMark) (k : Nat) : (s.meetOne p m k).mem = s.mem := by
  simp only [State.meetOne]
  repeat' split
  all_goals simp [State.markPoison]
@[simp] theorem meetScrub_mem (s : State) (ks : List Nat) : (s.meetScrub ks).mem = s.mem := by
  unfold State.meetScrub
  split
  · rfl
  · exact foldl_mem _ (fun u q => by simp) _ _
@[simp] theorem dropByteMarks_mem (s : State) (lo hi : Nat) : (s.dropByteMarks lo hi).mem = s.mem := by
  unfold State.dropByteMarks State.dropMarks
  split <;> rfl
@[simp] theorem clearPoison_mem (s : State) (hs : List Nat) : (s.clearPoison hs).mem = s.mem := rfl
@[simp] theorem markPoison_mem (s : State) (hs : List Nat) : (s.markPoison hs).mem = s.mem := rfl

/-! ## Writes to storage -/

theorem keepLine_wf {s : State} (n : Snap) (i k : Nat) (h : Memory.wf s.mem = true) : Memory.wf (s.keepLine n i k).mem = true := by
  simp only [State.keepLine, markPoison_mem, clearPoison_mem]
  exact memSet_wf _ _ (memFill_wf _ _ (by simpa using h))

theorem preserve_wf {s : State} (k : Nat) (h : Memory.wf s.mem = true) : Memory.wf (s.preserve k).mem = true := by
  rw [State.preserve]
  split
  · exact h
  · split
    · exact h
    · rw [countLine_mem]
      exact keepLine_wf _ _ _ h

/-- Writing a byte of storage keeps the canonical form. -/
theorem writeKey_wf {s : State} (k : Nat) (v : Byte) (h : Memory.wf s.mem = true) : Memory.wf (s.writeKey k v).mem = true := by
  unfold State.writeKey
  dsimp only
  split
  · split
    · exact h
    · refine memSet_wf _ _ ?_
      split
      · exact h
      · exact preserve_wf k h
  · exact memSet_wf _ _ h

theorem writeKeys_wf {s : State} (ks : List Nat) (bs : List Byte) (h : Memory.wf s.mem = true) :
    Memory.wf (s.writeKeys ks bs).mem = true := by
  induction ks generalizing s bs with
  | nil => simpa [State.writeKeys] using h
  | cons k ks ih =>
    cases bs with
    | nil => simpa [State.writeKeys] using h
    | cons b bs => exact ih bs (writeKey_wf k b h)

/-- Memory after reset is in its canonical form. -/
theorem reset_memory_wf : Memory.wf State.reset.mem = true := rfl

end Sys2Proof.Machine
end

