-- ==== Sys2Proof/Laws/PerInstr.lean ====
section
/-! SUPPORT. Statements made per instruction. `WordCount` says of the words of a well-formed instruction that the first of
them gives their number (R49). -/

set_option Elab.async false

namespace Sys2Proof

/-- Words whose number the first of them gives. -/
def Counted (ws : List Word) : Prop := ∃ w r, ws = w :: r ∧ r.length + 1 = wordsNeeded w

theorem counted_one {w : Word} (h : fld w 30 2 = 0#2) : Counted [w] := ⟨w, [], rfl, by simp [wordsNeeded, h]⟩

theorem counted_base (p : Option Pfx) (lit : Option Imm) {w : Word} (h : fld w 30 2 = litL lit) :
    Counted (pfxWords p lit.isSome ++ w :: litWords lit) := by
  cases p <;> cases lit
  · exact ⟨w, [], rfl, by simp [wordsNeeded, h, litL]⟩
  · exact ⟨w, _, rfl, by simp [wordsNeeded, h, litL, litWords]⟩
  · exact ⟨_, [w], rfl, by simp [wordsNeeded]⟩
  · exact ⟨_, _, rfl, by simp [wordsNeeded, litWords]⟩

theorem counted_encR (p : Option Pfx) (op d a b f : BitVec 6) : Counted (encR p op d a b f) :=
  counted_base p none (by simp [litL])

theorem counted_encI (p : Option Pfx) (lit : Option Imm) (op d a : BitVec 6) (f : BitVec 4) (i : Imm8) :
    Counted (encI p lit op d a f i) := counted_base p lit (by simp)

theorem counted_encB (lit : Option Imm) (op c : BitVec 6) (k : BitVec 4) (o : BitVec 14) : Counted (encB lit op c k o) :=
  counted_base none lit (by simp)

theorem counted_encM (p : Option Pfx) (lit : Option Imm) (op d a : BitVec 6) (s : MemSize) (o : MemOrd) (q : Scope) (t : MemAt) :
    Counted (encM p lit op d a s o q t) := counted_base p lit (by simp)

theorem counted_encMemc (lit : Option Imm) (d a m : BitVec 6) (q : Scope) : Counted (encMemc lit d a m q) :=
  counted_base none lit (by simp)

theorem counted_encX (p : Option Pfx) (dir : Bool) (d a : Sel) (s : MemSize) (o : MemOrd) (q : Scope) (t : MemAt)
    (off : Word) (k : BitVec 3) (x : Sel) : Counted (encX p dir d a s o q t off k x) := by
  cases p
  · exact ⟨_, _, rfl, by simp [wordsNeeded]⟩
  · exact ⟨_, _, rfl, by simp [wordsNeeded]⟩

theorem counted_ext96 (cmd : BitVec 96) (h : fld (cmd.extractLsb' 0 32) 30 2 = 2#2) : Counted (ext96 cmd) :=
  ⟨_, _, rfl, by simp [wordsNeeded, h]⟩

/-- The length field of a command's first word, from its major. -/
theorem ext96_l (cmd : BitVec 96) (m : BitVec 8) (hm : m.extractLsb' 6 2 = 2#2) (h : cmdFld cmd 24 8 = m) :
    fld (cmd.extractLsb' 0 32) 30 2 = 2#2 := by
  rw [← hm, ← h]
  ext i hi
  simp only [fld, cmdFld, BitVec.getElem_extractLsb', BitVec.getLsbD_extractLsb']
  have h1 : 30 + i < 32 := by omega
  have h2 : 6 + i < 8 := by omega
  simp only [h1, h2, decide_true, Bool.true_and]
  congr 1
  omega

namespace Laws

/-- The first word of a well-formed instruction gives the number of its words (R49). -/
def WordCount.Statement (i : Instr) : Prop := i.wellFormed = true → Counted (encode i)

theorem WordCount.add (d a b : Sel) (w : Bool) (p : Option Pfx) : WordCount.Statement (.add d a b w p) :=
  fun _ => counted_encR ..

theorem WordCount.sub (d a b : Sel) (w : Bool) (p : Option Pfx) : WordCount.Statement (.sub d a b w p) :=
  fun _ => counted_encR ..

theorem WordCount.mul (d a b : Sel) (w : Bool) (p : Option Pfx) : WordCount.Statement (.mul d a b w p) :=
  fun _ => counted_encR ..

theorem WordCount.mulhi (d a b : Sel) (w : Bool) (p : Option Pfx) : WordCount.Statement (.mulhi d a b w p) :=
  fun _ => counted_encR ..

theorem WordCount.mulhn (d a b : Sel) (w : Bool) (p : Option Pfx) : WordCount.Statement (.mulhn d a b w p) :=
  fun _ => counted_encR ..

theorem WordCount.divI (d a b : Sel) (w : Bool) (p : Option Pfx) : WordCount.Statement (.divI d a b w p) :=
  fun _ => counted_encR ..

theorem WordCount.divN (d a b : Sel) (w : Bool) (p : Option Pfx) : WordCount.Statement (.divN d a b w p) :=
  fun _ => counted_encR ..

theorem WordCount.remI (d a b : Sel) (w : Bool) (p : Option Pfx) : WordCount.Statement (.remI d a b w p) :=
  fun _ => counted_encR ..

theorem WordCount.remN (d a b : Sel) (w : Bool) (p : Option Pfx) : WordCount.Statement (.remN d a b w p) :=
  fun _ => counted_encR ..

theorem WordCount.minI (d a b : Sel) (w : Bool) (p : Option Pfx) : WordCount.Statement (.minI d a b w p) :=
  fun _ => counted_encR ..

theorem WordCount.minN (d a b : Sel) (w : Bool) (p : Option Pfx) : WordCount.Statement (.minN d a b w p) :=
  fun _ => counted_encR ..

theorem WordCount.maxI (d a b : Sel) (w : Bool) (p : Option Pfx) : WordCount.Statement (.maxI d a b w p) :=
  fun _ => counted_encR ..

theorem WordCount.maxN (d a b : Sel) (w : Bool) (p : Option Pfx) : WordCount.Statement (.maxN d a b w p) :=
  fun _ => counted_encR ..

theorem WordCount.and (d a b : Sel) (w : Bool) (p : Option Pfx) : WordCount.Statement (.and d a b w p) :=
  fun _ => counted_encR ..

theorem WordCount.or (d a b : Sel) (w : Bool) (p : Option Pfx) : WordCount.Statement (.or d a b w p) :=
  fun _ => counted_encR ..

theorem WordCount.xor (d a b : Sel) (w : Bool) (p : Option Pfx) : WordCount.Statement (.xor d a b w p) :=
  fun _ => counted_encR ..

theorem WordCount.andn (d a b : Sel) (w : Bool) (p : Option Pfx) : WordCount.Statement (.andn d a b w p) :=
  fun _ => counted_encR ..

theorem WordCount.orn (d a b : Sel) (w : Bool) (p : Option Pfx) : WordCount.Statement (.orn d a b w p) :=
  fun _ => counted_encR ..

theorem WordCount.shl (d a b : Sel) (w : Bool) (p : Option Pfx) : WordCount.Statement (.shl d a b w p) :=
  fun _ => counted_encR ..

theorem WordCount.shr (d a b : Sel) (w : Bool) (p : Option Pfx) : WordCount.Statement (.shr d a b w p) :=
  fun _ => counted_encR ..

theorem WordCount.sra (d a b : Sel) (w : Bool) (p : Option Pfx) : WordCount.Statement (.sra d a b w p) :=
  fun _ => counted_encR ..

theorem WordCount.rol (d a b : Sel) (w : Bool) (p : Option Pfx) : WordCount.Statement (.rol d a b w p) :=
  fun _ => counted_encR ..

theorem WordCount.addc (d a b : Sel) (w : Bool) (p : Option Pfx) : WordCount.Statement (.addc d a b w p) :=
  fun _ => counted_encR ..

theorem WordCount.subc (d a b : Sel) (w : Bool) (p : Option Pfx) : WordCount.Statement (.subc d a b w p) :=
  fun _ => counted_encR ..

theorem WordCount.mad (d a b : Sel) (w : Bool) (p : Option Pfx) : WordCount.Statement (.mad d a b w p) :=
  fun _ => counted_encR ..

theorem WordCount.bfxI (d a b : Sel) (p : Option Pfx) : WordCount.Statement (.bfxI d a b p) :=
  fun _ => counted_encR ..

theorem WordCount.bfxN (d a b : Sel) (p : Option Pfx) : WordCount.Statement (.bfxN d a b p) :=
  fun _ => counted_encR ..

theorem WordCount.bfi (d a b : Sel) (p : Option Pfx) : WordCount.Statement (.bfi d a b p) :=
  fun _ => counted_encR ..

theorem WordCount.sel (d a b : Sel) (p : Option Pfx) : WordCount.Statement (.sel d a b p) :=
  fun _ => counted_encR ..

theorem WordCount.selB64 (d a b : Sel) (p : Option Pfx) : WordCount.Statement (.selB64 d a b p) :=
  fun _ => counted_encR ..

theorem WordCount.bsel (d a b : Sel) (p : Option Pfx) : WordCount.Statement (.bsel d a b p) :=
  fun _ => counted_encR ..

theorem WordCount.abs (d a : Sel) (w : Bool) (p : Option Pfx) : WordCount.Statement (.abs d a w p) :=
  fun _ => counted_encR ..

theorem WordCount.neg (d a : Sel) (w : Bool) (p : Option Pfx) : WordCount.Statement (.neg d a w p) :=
  fun _ => counted_encR ..

theorem WordCount.clz (d a : Sel) (w : Bool) (p : Option Pfx) : WordCount.Statement (.clz d a w p) :=
  fun _ => counted_encR ..

theorem WordCount.ctz (d a : Sel) (w : Bool) (p : Option Pfx) : WordCount.Statement (.ctz d a w p) :=
  fun _ => counted_encR ..

theorem WordCount.popc (d a : Sel) (w : Bool) (p : Option Pfx) : WordCount.Statement (.popc d a w p) :=
  fun _ => counted_encR ..

theorem WordCount.brev (d a : Sel) (w : Bool) (p : Option Pfx) : WordCount.Statement (.brev d a w p) :=
  fun _ => counted_encR ..

theorem WordCount.mov (d a : Sel) (w : Bool) (p : Option Pfx) : WordCount.Statement (.mov d a w p) :=
  fun _ => counted_encR ..

theorem WordCount.extI (d a : Sel) (p : Option Pfx) : WordCount.Statement (.extI d a p) :=
  fun _ => counted_encR ..

theorem WordCount.extN (d a : Sel) (p : Option Pfx) : WordCount.Statement (.extN d a p) :=
  fun _ => counted_encR ..

theorem WordCount.lea (d a b : Sel) (p : Option Pfx) : WordCount.Statement (.lea d a b p) :=
  fun _ => counted_encR ..

theorem WordCount.dot4Ii (d a b : Sel) (p : Option Pfx) : WordCount.Statement (.dot4Ii d a b p) :=
  fun _ => counted_encR ..

theorem WordCount.dot4Nn (d a b : Sel) (p : Option Pfx) : WordCount.Statement (.dot4Nn d a b p) :=
  fun _ => counted_encR ..

theorem WordCount.dot4In (d a b : Sel) (p : Option Pfx) : WordCount.Statement (.dot4In d a b p) :=
  fun _ => counted_encR ..

theorem WordCount.dot8Ii (d a b : Sel) (p : Option Pfx) : WordCount.Statement (.dot8Ii d a b p) :=
  fun _ => counted_encR ..

theorem WordCount.dot8Nn (d a b : Sel) (p : Option Pfx) : WordCount.Statement (.dot8Nn d a b p) :=
  fun _ => counted_encR ..

theorem WordCount.dot8In (d a b : Sel) (p : Option Pfx) : WordCount.Statement (.dot8In d a b p) :=
  fun _ => counted_encR ..

theorem WordCount.addImm (d a : Sel) (i : Imm8) (lit : Option Imm) (p : Option Pfx) : WordCount.Statement (.addImm d a i lit p) :=
  fun _ => counted_encI ..

theorem WordCount.add64Imm (d a : Sel) (i : Imm8) (lit : Option Imm) (p : Option Pfx) : WordCount.Statement (.add64Imm d a i lit p) :=
  fun _ => counted_encI ..

theorem WordCount.mulImm (d a : Sel) (i : Imm8) (lit : Option Imm) (p : Option Pfx) : WordCount.Statement (.mulImm d a i lit p) :=
  fun _ => counted_encI ..

theorem WordCount.andImm (d a : Sel) (i : Imm8) (lit : Option Imm) (p : Option Pfx) : WordCount.Statement (.andImm d a i lit p) :=
  fun _ => counted_encI ..

theorem WordCount.orImm (d a : Sel) (i : Imm8) (lit : Option Imm) (p : Option Pfx) : WordCount.Statement (.orImm d a i lit p) :=
  fun _ => counted_encI ..

theorem WordCount.xorImm (d a : Sel) (i : Imm8) (lit : Option Imm) (p : Option Pfx) : WordCount.Statement (.xorImm d a i lit p) :=
  fun _ => counted_encI ..

theorem WordCount.shlImm (d a : Sel) (i : Imm8) (lit : Option Imm) (p : Option Pfx) : WordCount.Statement (.shlImm d a i lit p) :=
  fun _ => counted_encI ..

theorem WordCount.shrImm (d a : Sel) (i : Imm8) (lit : Option Imm) (p : Option Pfx) : WordCount.Statement (.shrImm d a i lit p) :=
  fun _ => counted_encI ..

theorem WordCount.sraImm (d a : Sel) (i : Imm8) (lit : Option Imm) (p : Option Pfx) : WordCount.Statement (.sraImm d a i lit p) :=
  fun _ => counted_encI ..

theorem WordCount.minIImm (d a : Sel) (i : Imm8) (lit : Option Imm) (p : Option Pfx) : WordCount.Statement (.minIImm d a i lit p) :=
  fun _ => counted_encI ..

theorem WordCount.maxIImm (d a : Sel) (i : Imm8) (lit : Option Imm) (p : Option Pfx) : WordCount.Statement (.maxIImm d a i lit p) :=
  fun _ => counted_encI ..

theorem WordCount.moviB32 (d : Sel) (i : Imm8) (p : Option Pfx) : WordCount.Statement (.moviB32 d i p) :=
  fun _ => counted_encI ..

theorem WordCount.moviB64 (d : Sel) (i : Imm8) (p : Option Pfx) : WordCount.Statement (.moviB64 d i p) :=
  fun _ => counted_encI ..

theorem WordCount.leaImm (d a : Sel) (i : Imm8) (lit : Option Imm) (p : Option Pfx) : WordCount.Statement (.leaImm d a i lit p) :=
  fun _ => counted_encI ..

theorem WordCount.litB32 (d : Sel) (k : Imm) (p : Option Pfx) : WordCount.Statement (.litB32 d k p) :=
  fun _ => counted_encI ..

theorem WordCount.litB64 (d : Sel) (k : Imm) (p : Option Pfx) : WordCount.Statement (.litB64 d k p) :=
  fun _ => counted_encI ..

theorem WordCount.fadd (d a b : Sel) (t : FTy) (p : Option Pfx) : WordCount.Statement (.fadd d a b t p) :=
  fun _ => counted_encR ..

theorem WordCount.fsub (d a b : Sel) (t : FTy) (p : Option Pfx) : WordCount.Statement (.fsub d a b t p) :=
  fun _ => counted_encR ..

theorem WordCount.fmul (d a b : Sel) (t : FTy) (p : Option Pfx) : WordCount.Statement (.fmul d a b t p) :=
  fun _ => counted_encR ..

theorem WordCount.fma (d a b : Sel) (t : FTy) (p : Option Pfx) : WordCount.Statement (.fma d a b t p) :=
  fun _ => counted_encR ..

theorem WordCount.fnma (d a b : Sel) (t : FTy) (p : Option Pfx) : WordCount.Statement (.fnma d a b t p) :=
  fun _ => counted_encR ..

theorem WordCount.fmin (d a b : Sel) (t : FTy) (p : Option Pfx) : WordCount.Statement (.fmin d a b t p) :=
  fun _ => counted_encR ..

theorem WordCount.fmax (d a b : Sel) (t : FTy) (p : Option Pfx) : WordCount.Statement (.fmax d a b t p) :=
  fun _ => counted_encR ..

theorem WordCount.fminm (d a b : Sel) (t : FTy) (p : Option Pfx) : WordCount.Statement (.fminm d a b t p) :=
  fun _ => counted_encR ..

theorem WordCount.fmaxm (d a b : Sel) (t : FTy) (p : Option Pfx) : WordCount.Statement (.fmaxm d a b t p) :=
  fun _ => counted_encR ..

theorem WordCount.fdiv (d a b : Sel) (t : FTy) (p : Option Pfx) : WordCount.Statement (.fdiv d a b t p) :=
  fun _ => counted_encR ..

theorem WordCount.fsqrt (d a : Sel) (t : FTy) (p : Option Pfx) : WordCount.Statement (.fsqrt d a t p) :=
  fun _ => counted_encR ..

theorem WordCount.fabs (d a : Sel) (t : FTy) (p : Option Pfx) : WordCount.Statement (.fabs d a t p) :=
  fun _ => counted_encR ..

theorem WordCount.fneg (d a : Sel) (t : FTy) (p : Option Pfx) : WordCount.Statement (.fneg d a t p) :=
  fun _ => counted_encR ..

theorem WordCount.fsgn (d a b : Sel) (t : FTy) (p : Option Pfx) : WordCount.Statement (.fsgn d a b t p) :=
  fun _ => counted_encR ..

theorem WordCount.fclass (d a : Sel) (t : FTy) (p : Option Pfx) : WordCount.Statement (.fclass d a t p) :=
  fun _ => counted_encR ..

theorem WordCount.fscale (d a b : Sel) (t : FTy) (p : Option Pfx) : WordCount.Statement (.fscale d a b t p) :=
  fun _ => counted_encR ..

theorem WordCount.frcp (d a : Sel) (t : FTy) (p : Option Pfx) : WordCount.Statement (.frcp d a t p) :=
  fun _ => counted_encR ..

theorem WordCount.frsq (d a : Sel) (t : FTy) (p : Option Pfx) : WordCount.Statement (.frsq d a t p) :=
  fun _ => counted_encR ..

theorem WordCount.fex2 (d a : Sel) (t : FTy) (p : Option Pfx) : WordCount.Statement (.fex2 d a t p) :=
  fun _ => counted_encR ..

theorem WordCount.flg2 (d a : Sel) (t : FTy) (p : Option Pfx) : WordCount.Statement (.flg2 d a t p) :=
  fun _ => counted_encR ..

theorem WordCount.fsin (d a : Sel) (t : FTy) (p : Option Pfx) : WordCount.Statement (.fsin d a t p) :=
  fun _ => counted_encR ..

theorem WordCount.fcos (d a : Sel) (t : FTy) (p : Option Pfx) : WordCount.Statement (.fcos d a t p) :=
  fun _ => counted_encR ..

theorem WordCount.ftanh (d a : Sel) (t : FTy) (p : Option Pfx) : WordCount.Statement (.ftanh d a t p) :=
  fun _ => counted_encR ..

theorem WordCount.fcvt (d a : Sel) (n : Bool) (s t : CvtTy) (p : Option Pfx) : WordCount.Statement (.fcvt d a n s t p) :=
  fun _ => counted_encR ..

theorem WordCount.fround (d a : Sel) (t : FmtTy) (p : Option Pfx) : WordCount.Statement (.fround d a t p) :=
  fun _ => counted_encR ..

theorem WordCount.fsplitBf16 (d a : Sel) (p : Option Pfx) : WordCount.Statement (.fsplitBf16 d a p) :=
  fun _ => counted_encR ..

theorem WordCount.fpack (d a : Sel) (e : MxElem) (p : Option Pfx) : WordCount.Statement (.fpack d a e p) :=
  fun _ => counted_encR ..

theorem WordCount.funpk (d a : Sel) (e : MxElem) (p : Option Pfx) : WordCount.Statement (.funpk d a e p) :=
  fun _ => counted_encR ..

theorem WordCount.caddCi16 (d a b : Sel) (p : Option Pfx) : WordCount.Statement (.caddCi16 d a b p) :=
  fun _ => counted_encR ..

theorem WordCount.caddCi32 (d a b : Sel) (p : Option Pfx) : WordCount.Statement (.caddCi32 d a b p) :=
  fun _ => counted_encR ..

theorem WordCount.cmulCi16 (d a b : Sel) (p : Option Pfx) : WordCount.Statement (.cmulCi16 d a b p) :=
  fun _ => counted_encR ..

theorem WordCount.cmacCi16 (d a b : Sel) (p : Option Pfx) : WordCount.Statement (.cmacCi16 d a b p) :=
  fun _ => counted_encR ..

theorem WordCount.cmacCi8 (d a b : Sel) (p : Option Pfx) : WordCount.Statement (.cmacCi8 d a b p) :=
  fun _ => counted_encR ..

theorem WordCount.cconjCi16 (d a : Sel) (p : Option Pfx) : WordCount.Statement (.cconjCi16 d a p) :=
  fun _ => counted_encR ..

theorem WordCount.cconjCi32 (d a : Sel) (p : Option Pfx) : WordCount.Statement (.cconjCi32 d a p) :=
  fun _ => counted_encR ..

theorem WordCount.cmag2Ci16 (d a : Sel) (p : Option Pfx) : WordCount.Statement (.cmag2Ci16 d a p) :=
  fun _ => counted_encR ..

theorem WordCount.cunpkCi8 (d a : Sel) (p : Option Pfx) : WordCount.Statement (.cunpkCi8 d a p) :=
  fun _ => counted_encR ..

theorem WordCount.cunpkCi4 (d a : Sel) (p : Option Pfx) : WordCount.Statement (.cunpkCi4 d a p) :=
  fun _ => counted_encR ..

theorem WordCount.cmp (d a b : Sel) (t : ITy) (c : Cond) (p : Option Pfx) : WordCount.Statement (.cmp d a b t c p) :=
  fun _ => counted_encR ..

theorem WordCount.fcmp (d a b : Sel) (t : FTy) (c : Cond) (p : Option Pfx) : WordCount.Statement (.fcmp d a b t c p) :=
  fun _ => counted_encR ..

theorem WordCount.xlPick (d a b : Sel) (k : BitVec 3) (p : Option Pfx) : WordCount.Statement (.xlPick d a b k p) :=
  fun _ => counted_encR ..

theorem WordCount.xlSwap (d a b : Sel) (k : BitVec 3) (p : Option Pfx) : WordCount.Statement (.xlSwap d a b k p) :=
  fun _ => counted_encR ..

theorem WordCount.xlFwd (d a b : Sel) (k : BitVec 3) (p : Option Pfx) : WordCount.Statement (.xlFwd d a b k p) :=
  fun _ => counted_encR ..

theorem WordCount.xlBack (d a b : Sel) (k : BitVec 3) (p : Option Pfx) : WordCount.Statement (.xlBack d a b k p) :=
  fun _ => counted_encR ..

theorem WordCount.red (d a : Sel) (o : RedOp) : WordCount.Statement (.red d a o) :=
  fun _ => counted_encR ..

theorem WordCount.scan (d a : Sel) (o : RedOp) : WordCount.Statement (.scan d a o) :=
  fun _ => counted_encR ..

theorem WordCount.mand (d a b : Sel) : WordCount.Statement (.mand d a b) :=
  fun _ => counted_encR ..

theorem WordCount.mor (d a b : Sel) : WordCount.Statement (.mor d a b) :=
  fun _ => counted_encR ..

theorem WordCount.mxor (d a b : Sel) : WordCount.Statement (.mxor d a b) :=
  fun _ => counted_encR ..

theorem WordCount.mnot (d a : Sel) : WordCount.Statement (.mnot d a) :=
  fun _ => counted_encR ..

theorem WordCount.mmov (d a : Sel) : WordCount.Statement (.mmov d a) :=
  fun _ => counted_encR ..

theorem WordCount.mpop (d a : Sel) : WordCount.Statement (.mpop d a) :=
  fun _ => counted_encR ..

theorem WordCount.mfirst (d a : Sel) : WordCount.Statement (.mfirst d a) :=
  fun _ => counted_encR ..

theorem WordCount.mset (d a : Sel) : WordCount.Statement (.mset d a) :=
  fun _ => counted_encR ..

theorem WordCount.mget (d a : Sel) : WordCount.Statement (.mget d a) :=
  fun _ => counted_encR ..

theorem WordCount.voteAny (d a : Sel) : WordCount.Statement (.voteAny d a) :=
  fun _ => counted_encR ..

theorem WordCount.voteAll (d a : Sel) : WordCount.Statement (.voteAll d a) :=
  fun _ => counted_encR ..

theorem WordCount.ballot (d a : Sel) : WordCount.Statement (.ballot d a) :=
  fun _ => counted_encR ..

theorem WordCount.matchLanes (d a : Sel) : WordCount.Statement (.matchLanes d a) :=
  fun _ => counted_encR ..

theorem WordCount.popm (d a : Sel) : WordCount.Statement (.popm d a) :=
  fun _ => counted_encR ..

theorem WordCount.sadd (d a b : Sel) : WordCount.Statement (.sadd d a b) :=
  fun _ => counted_encR ..

theorem WordCount.ssub (d a b : Sel) : WordCount.Statement (.ssub d a b) :=
  fun _ => counted_encR ..

theorem WordCount.smul (d a b : Sel) : WordCount.Statement (.smul d a b) :=
  fun _ => counted_encR ..

theorem WordCount.smulhi (d a b : Sel) : WordCount.Statement (.smulhi d a b) :=
  fun _ => counted_encR ..

theorem WordCount.sdiv (d a b : Sel) : WordCount.Statement (.sdiv d a b) :=
  fun _ => counted_encR ..

theorem WordCount.sdivN (d a b : Sel) : WordCount.Statement (.sdivN d a b) :=
  fun _ => counted_encR ..

theorem WordCount.srem (d a b : Sel) : WordCount.Statement (.srem d a b) :=
  fun _ => counted_encR ..

theorem WordCount.sremN (d a b : Sel) : WordCount.Statement (.sremN d a b) :=
  fun _ => counted_encR ..

theorem WordCount.smin (d a b : Sel) : WordCount.Statement (.smin d a b) :=
  fun _ => counted_encR ..

theorem WordCount.sminN (d a b : Sel) : WordCount.Statement (.sminN d a b) :=
  fun _ => counted_encR ..

theorem WordCount.smax (d a b : Sel) : WordCount.Statement (.smax d a b) :=
  fun _ => counted_encR ..

theorem WordCount.smaxN (d a b : Sel) : WordCount.Statement (.smaxN d a b) :=
  fun _ => counted_encR ..

theorem WordCount.sand (d a b : Sel) : WordCount.Statement (.sand d a b) :=
  fun _ => counted_encR ..

theorem WordCount.sor (d a b : Sel) : WordCount.Statement (.sor d a b) :=
  fun _ => counted_encR ..

theorem WordCount.sxor (d a b : Sel) : WordCount.Statement (.sxor d a b) :=
  fun _ => counted_encR ..

theorem WordCount.sshl (d a b : Sel) : WordCount.Statement (.sshl d a b) :=
  fun _ => counted_encR ..

theorem WordCount.sshr (d a b : Sel) : WordCount.Statement (.sshr d a b) :=
  fun _ => counted_encR ..

theorem WordCount.ssra (d a b : Sel) : WordCount.Statement (.ssra d a b) :=
  fun _ => counted_encR ..

theorem WordCount.sclz (d a : Sel) : WordCount.Statement (.sclz d a) :=
  fun _ => counted_encR ..

theorem WordCount.spopc (d a : Sel) : WordCount.Statement (.spopc d a) :=
  fun _ => counted_encR ..

theorem WordCount.smov (d a : Sel) : WordCount.Statement (.smov d a) :=
  fun _ => counted_encR ..

theorem WordCount.ssel (d a b : Sel) : WordCount.Statement (.ssel d a b) :=
  fun _ => counted_encR ..

theorem WordCount.scmpEq (d a b : Sel) : WordCount.Statement (.scmpEq d a b) :=
  fun _ => counted_encR ..

theorem WordCount.scmpNe (d a b : Sel) : WordCount.Statement (.scmpNe d a b) :=
  fun _ => counted_encR ..

theorem WordCount.scmpLt (d a b : Sel) : WordCount.Statement (.scmpLt d a b) :=
  fun _ => counted_encR ..

theorem WordCount.scmpLe (d a b : Sel) : WordCount.Statement (.scmpLe d a b) :=
  fun _ => counted_encR ..

theorem WordCount.scmpLtN (d a b : Sel) : WordCount.Statement (.scmpLtN d a b) :=
  fun _ => counted_encR ..

theorem WordCount.scmpLeN (d a b : Sel) : WordCount.Statement (.scmpLeN d a b) :=
  fun _ => counted_encR ..

theorem WordCount.saddImm (d a : Sel) (i : Imm8) (lit : Option Imm) : WordCount.Statement (.saddImm d a i lit) :=
  fun _ => counted_encI ..

theorem WordCount.smulImm (d a : Sel) (i : Imm8) (lit : Option Imm) : WordCount.Statement (.smulImm d a i lit) :=
  fun _ => counted_encI ..

theorem WordCount.sandImm (d a : Sel) (i : Imm8) (lit : Option Imm) : WordCount.Statement (.sandImm d a i lit) :=
  fun _ => counted_encI ..

theorem WordCount.sorImm (d a : Sel) (i : Imm8) (lit : Option Imm) : WordCount.Statement (.sorImm d a i lit) :=
  fun _ => counted_encI ..

theorem WordCount.sxorImm (d a : Sel) (i : Imm8) (lit : Option Imm) : WordCount.Statement (.sxorImm d a i lit) :=
  fun _ => counted_encI ..

theorem WordCount.sshlImm (d a : Sel) (i : Imm8) (lit : Option Imm) : WordCount.Statement (.sshlImm d a i lit) :=
  fun _ => counted_encI ..

theorem WordCount.sshrImm (d a : Sel) (i : Imm8) (lit : Option Imm) : WordCount.Statement (.sshrImm d a i lit) :=
  fun _ => counted_encI ..

theorem WordCount.ssraImm (d a : Sel) (i : Imm8) (lit : Option Imm) : WordCount.Statement (.ssraImm d a i lit) :=
  fun _ => counted_encI ..

theorem WordCount.smovi (d : Sel) (i : Imm8) : WordCount.Statement (.smovi d i) :=
  fun _ => counted_encI ..

theorem WordCount.slit (d : Sel) (k : Imm) : WordCount.Statement (.slit d k) :=
  fun _ => counted_encI ..

theorem WordCount.csrr (d : Sel) (c : BitVec 12) : WordCount.Statement (.csrr d c) :=
  fun _ => counted_one (by simp)

theorem WordCount.csrw (d : Sel) (c : BitVec 12) : WordCount.Statement (.csrw d c) :=
  fun _ => counted_one (by simp)

theorem WordCount.csrs (d : Sel) (c : BitVec 12) : WordCount.Statement (.csrs d c) :=
  fun _ => counted_one (by simp)

theorem WordCount.csrc (d : Sel) (c : BitVec 12) : WordCount.Statement (.csrc d c) :=
  fun _ => counted_one (by simp)

theorem WordCount.sRd (d a b : Sel) : WordCount.Statement (.sRd d a b) :=
  fun _ => counted_encR ..

theorem WordCount.sWr (d a b : Sel) : WordCount.Statement (.sWr d a b) :=
  fun _ => counted_encR ..

theorem WordCount.srseedWrite (f : CsrFn) (d : Sel) : WordCount.Statement (.srseedWrite f d) :=
  fun _ => counted_one (by simp)

theorem WordCount.rmWrite (f : CsrFn) (d : Sel) : WordCount.Statement (.rmWrite f d) :=
  fun _ => counted_one (by simp)

theorem WordCount.fflagsWrite (f : CsrFn) (d : Sel) : WordCount.Statement (.fflagsWrite f d) :=
  fun _ => counted_one (by simp)

theorem WordCount.rcvbaseWrite (f : CsrFn) (d : Sel) : WordCount.Statement (.rcvbaseWrite f d) :=
  fun _ => counted_one (by simp)

theorem WordCount.bpcWrite (f : CsrFn) (d : Sel) : WordCount.Statement (.bpcWrite f d) :=
  fun _ => counted_one (by simp)

theorem WordCount.bra (o : BitVec 14) (lit : Option Imm) : WordCount.Statement (.bra o lit) :=
  fun _ => counted_encB ..

theorem WordCount.brz (c : Sel) (o : BitVec 14) (lit : Option Imm) : WordCount.Statement (.brz c o lit) :=
  fun _ => counted_encB ..

theorem WordCount.brnz (c : Sel) (o : BitVec 14) (lit : Option Imm) : WordCount.Statement (.brnz c o lit) :=
  fun _ => counted_encB ..

theorem WordCount.bsz (c : Sel) (o : BitVec 14) (lit : Option Imm) : WordCount.Statement (.bsz c o lit) :=
  fun _ => counted_encB ..

theorem WordCount.bsnz (c : Sel) (o : BitVec 14) (lit : Option Imm) : WordCount.Statement (.bsnz c o lit) :=
  fun _ => counted_encB ..

theorem WordCount.call (c : Sel) (o : BitVec 14) (lit : Option Imm) : WordCount.Statement (.call c o lit) :=
  fun _ => counted_encB ..

theorem WordCount.ret (c : Sel) : WordCount.Statement (.ret c) :=
  fun _ => counted_encB ..

theorem WordCount.jmp (c : Sel) : WordCount.Statement (.jmp c) :=
  fun _ => counted_encB ..

theorem WordCount.exit : WordCount.Statement .exit :=
  fun _ => counted_encB ..

theorem WordCount.nop : WordCount.Statement .nop :=
  fun _ => counted_encB ..

theorem WordCount.yield : WordCount.Statement .yield :=
  fun _ => counted_encB ..

theorem WordCount.sleep (c : Sel) : WordCount.Statement (.sleep c) :=
  fun _ => counted_encB ..

theorem WordCount.rcvPush (o : BitVec 14) (lit : Option Imm) : WordCount.Statement (.rcvPush o lit) :=
  fun _ => counted_encB ..

theorem WordCount.rcvWait : WordCount.Statement .rcvWait :=
  fun _ => counted_encB ..

theorem WordCount.rcvPop : WordCount.Statement .rcvPop :=
  fun _ => counted_encB ..

theorem WordCount.rcvDrop : WordCount.Statement .rcvDrop :=
  fun _ => counted_encB ..

theorem WordCount.barTeam : WordCount.Statement .barTeam :=
  fun _ => counted_encI ..

theorem WordCount.barClu : WordCount.Statement .barClu :=
  fun _ => counted_encI ..

theorem WordCount.barNamed (a : Sel) (n : Imm8) : WordCount.Statement (.barNamed a n) :=
  fun _ => counted_encI ..

theorem WordCount.barArrive (a : Sel) (n : Imm8) : WordCount.Statement (.barArrive a n) :=
  fun _ => counted_encI ..

theorem WordCount.cbInit (a : Sel) (n : Imm8) : WordCount.Statement (.cbInit a n) :=
  fun _ => counted_encI ..

theorem WordCount.cbArrive (n : Imm8) : WordCount.Statement (.cbArrive n) :=
  fun _ => counted_encI ..

theorem WordCount.cbWait (n : Imm8) : WordCount.Statement (.cbWait n) :=
  fun _ => counted_encI ..

theorem WordCount.cbTest (d : Sel) (n : Imm8) : WordCount.Statement (.cbTest d n) :=
  fun _ => counted_encI ..

theorem WordCount.ecall (n : Imm8) : WordCount.Statement (.ecall n) :=
  fun _ => counted_encI ..

theorem WordCount.ebreak (n : Imm8) : WordCount.Statement (.ebreak n) :=
  fun _ => counted_encI ..

theorem WordCount.wcall (n : Imm8) : WordCount.Statement (.wcall n) :=
  fun _ => counted_encI ..

theorem WordCount.trap (n : Imm8) : WordCount.Statement (.trap n) :=
  fun _ => counted_encI ..

theorem WordCount.wfe : WordCount.Statement .wfe :=
  fun _ => counted_encI ..

theorem WordCount.fenceI : WordCount.Statement .fenceI :=
  fun _ => counted_encI ..

theorem WordCount.halt : WordCount.Statement .halt :=
  fun _ => counted_encI ..

theorem WordCount.ld (d a : Sel) (s : MemSize) (o : MemOrd) (q : Scope) (t : MemAt) (lit : Option Imm) (p : Option Pfx) : WordCount.Statement (.ld d a s o q t lit p) :=
  fun _ => counted_encM ..

theorem WordCount.st (d a : Sel) (s : MemSize) (o : MemOrd) (q : Scope) (t : MemAt) (lit : Option Imm) (p : Option Pfx) : WordCount.Statement (.st d a s o q t lit p) :=
  fun _ => counted_encM ..

theorem WordCount.ldx (d a : Sel) (s : MemSize) (o : MemOrd) (q : Scope) (t : MemAt) (off : BitVec 32) (k : BitVec 3) (x : Sel) (p : Option Pfx) : WordCount.Statement (.ldx d a s o q t off k x p) :=
  fun _ => counted_encX ..

theorem WordCount.stx (d a : Sel) (s : MemSize) (o : MemOrd) (q : Scope) (t : MemAt) (off : BitVec 32) (k : BitVec 3) (x : Sel) (p : Option Pfx) : WordCount.Statement (.stx d a s o q t off k x p) :=
  fun _ => counted_encX ..

theorem WordCount.loadDataArrival (id : Nat) : WordCount.Statement (.loadDataArrival id) :=
  fun h => nomatch h

theorem WordCount.atomAdd (d a : Sel) (r : AtomOrd) (q : Scope) (w : Bool) : WordCount.Statement (.atomAdd d a r q w) :=
  fun _ => counted_one (by simp)

theorem WordCount.atomSub (d a : Sel) (r : AtomOrd) (q : Scope) (w : Bool) : WordCount.Statement (.atomSub d a r q w) :=
  fun _ => counted_one (by simp)

theorem WordCount.atomMinI (d a : Sel) (r : AtomOrd) (q : Scope) (w : Bool) : WordCount.Statement (.atomMinI d a r q w) :=
  fun _ => counted_one (by simp)

theorem WordCount.atomMaxI (d a : Sel) (r : AtomOrd) (q : Scope) (w : Bool) : WordCount.Statement (.atomMaxI d a r q w) :=
  fun _ => counted_one (by simp)

theorem WordCount.atomMinN (d a : Sel) (r : AtomOrd) (q : Scope) (w : Bool) : WordCount.Statement (.atomMinN d a r q w) :=
  fun _ => counted_one (by simp)

theorem WordCount.atomMaxN (d a : Sel) (r : AtomOrd) (q : Scope) (w : Bool) : WordCount.Statement (.atomMaxN d a r q w) :=
  fun _ => counted_one (by simp)

theorem WordCount.atomAnd (d a : Sel) (r : AtomOrd) (q : Scope) (w : Bool) : WordCount.Statement (.atomAnd d a r q w) :=
  fun _ => counted_one (by simp)

theorem WordCount.atomOr (d a : Sel) (r : AtomOrd) (q : Scope) (w : Bool) : WordCount.Statement (.atomOr d a r q w) :=
  fun _ => counted_one (by simp)

theorem WordCount.atomXor (d a : Sel) (r : AtomOrd) (q : Scope) (w : Bool) : WordCount.Statement (.atomXor d a r q w) :=
  fun _ => counted_one (by simp)

theorem WordCount.atomXchg (d a : Sel) (r : AtomOrd) (q : Scope) (w : Bool) : WordCount.Statement (.atomXchg d a r q w) :=
  fun _ => counted_one (by simp)

theorem WordCount.atomCas (d a : Sel) (r : AtomOrd) (q : Scope) (w : Bool) : WordCount.Statement (.atomCas d a r q w) :=
  fun _ => counted_one (by simp)

theorem WordCount.atomIncw (d a : Sel) (r : AtomOrd) (q : Scope) (w : Bool) : WordCount.Statement (.atomIncw d a r q w) :=
  fun _ => counted_one (by simp)

theorem WordCount.atomDecw (d a : Sel) (r : AtomOrd) (q : Scope) (w : Bool) : WordCount.Statement (.atomDecw d a r q w) :=
  fun _ => counted_one (by simp)

theorem WordCount.atomAddF (d a : Sel) (r : AtomOrd) (q : Scope) (w : Bool) : WordCount.Statement (.atomAddF d a r q w) :=
  fun _ => counted_one (by simp)

theorem WordCount.atomXchgA16 (d a : Sel) (r : AtomOrd) (q : Scope) : WordCount.Statement (.atomXchgA16 d a r q) :=
  fun _ => counted_one (by simp)

theorem WordCount.atomCasA16 (d a : Sel) (r : AtomOrd) (q : Scope) : WordCount.Statement (.atomCasA16 d a r q) :=
  fun _ => counted_one (by simp)

theorem WordCount.memoryReduction (d a : Sel) (o : MrOp) (r : AtomOrd) (q : Scope) (w : Bool) : WordCount.Statement (.memoryReduction d a o r q w) :=
  fun _ => counted_one (by simp)

theorem WordCount.pf (l : Bool) (a : Sel) (lit : Option Imm) : WordCount.Statement (.pf l a lit) :=
  fun _ => counted_encMemc ..

theorem WordCount.ipf (a : Sel) (lit : Option Imm) : WordCount.Statement (.ipf a lit) :=
  fun _ => counted_encMemc ..

theorem WordCount.phaseBegin (q : Scope) : WordCount.Statement (.phaseBegin q) :=
  fun _ => counted_encMemc ..

theorem WordCount.phaseEnd (q : Scope) : WordCount.Statement (.phaseEnd q) :=
  fun _ => counted_encMemc ..

theorem WordCount.phase (q : Scope) : WordCount.Statement (.phase q) :=
  fun _ => counted_encMemc ..

theorem WordCount.fence (q : Scope) : WordCount.Statement (.fence q) :=
  fun _ => counted_encMemc ..

theorem WordCount.cwb (a : Sel) (q : Scope) (lit : Option Imm) : WordCount.Statement (.cwb a q lit) :=
  fun _ => counted_encMemc ..

theorem WordCount.cinv (a : Sel) (q : Scope) (lit : Option Imm) : WordCount.Statement (.cinv a q lit) :=
  fun _ => counted_encMemc ..

theorem WordCount.spClr (a : Sel) (lit : Option Imm) : WordCount.Statement (.spClr a lit) :=
  fun _ => counted_encMemc ..

theorem WordCount.spSet (a : Sel) (lit : Option Imm) : WordCount.Statement (.spSet a lit) :=
  fun _ => counted_encMemc ..

theorem WordCount.spTest (d a : Sel) (lit : Option Imm) : WordCount.Statement (.spTest d a lit) :=
  fun _ => counted_encMemc ..

theorem WordCount.push (q : CmdQ) (a b : Sel) : WordCount.Statement (.push q a b) :=
  fun _ => counted_encR ..

theorem WordCount.pop (d : Sel) (q : RecQ) : WordCount.Statement (.pop d q) :=
  fun _ => counted_encR ..

theorem WordCount.mrdy : WordCount.Statement .mrdy :=
  fun _ => counted_encR ..

theorem WordCount.mma (cmd : BitVec 96) : WordCount.Statement (.mma cmd) :=
  fun h => counted_ext96 cmd (ext96_l cmd 0xB0#8 rfl (by simp [Instr.wellFormed, mmaOk] at h; exact h.1.1))

theorem WordCount.mmaJ (cmd : BitVec 96) : WordCount.Statement (.mmaJ cmd) :=
  fun h => counted_ext96 cmd (ext96_l cmd 0xB0#8 rfl (by simp [Instr.wellFormed, mmaOk] at h; exact h.1.1))

theorem WordCount.mmaStart (id : Nat) : WordCount.Statement (.mmaStart id) :=
  fun h => nomatch h

theorem WordCount.mmaComplete (id : Nat) : WordCount.Statement (.mmaComplete id) :=
  fun h => nomatch h

theorem WordCount.cp (cmd : BitVec 96) : WordCount.Statement (.cp cmd) :=
  fun h => counted_ext96 cmd (ext96_l cmd 0xB1#8 rfl (by simp [Instr.wellFormed, cpOk] at h; exact h.1.1))

theorem WordCount.cpMx (cmd : BitVec 96) : WordCount.Statement (.cpMx cmd) :=
  fun h => counted_ext96 cmd (ext96_l cmd 0xB1#8 rfl (by simp [Instr.wellFormed, cpOk] at h; exact h.1.1))

theorem WordCount.cpGx (cmd : BitVec 96) : WordCount.Statement (.cpGx cmd) :=
  fun h => counted_ext96 cmd (ext96_l cmd 0xB1#8 rfl (by simp [Instr.wellFormed, cpOk] at h; exact h.1.1))

theorem WordCount.copyEnterFlight (id : Nat) : WordCount.Statement (.copyEnterFlight id) :=
  fun h => nomatch h

theorem WordCount.copyRowLanding (id row : Nat) : WordCount.Statement (.copyRowLanding id row) :=
  fun h => nomatch h

theorem WordCount.copyComplete (id : Nat) : WordCount.Statement (.copyComplete id) :=
  fun h => nomatch h

theorem WordCount.copyFail (id row : Nat) : WordCount.Statement (.copyFail id row) :=
  fun h => nomatch h

theorem WordCount.followOnAppend (id : Nat) : WordCount.Statement (.followOnAppend id) :=
  fun h => nomatch h

theorem WordCount.netPut (a b : Sel) : WordCount.Statement (.netPut a b) :=
  fun _ => counted_encR ..

theorem WordCount.netGet (a b : Sel) : WordCount.Statement (.netGet a b) :=
  fun _ => counted_encR ..

theorem WordCount.netSend (a b : Sel) : WordCount.Statement (.netSend a b) :=
  fun _ => counted_encR ..

theorem WordCount.netRecv (a b : Sel) : WordCount.Statement (.netRecv a b) :=
  fun _ => counted_encR ..

theorem WordCount.netRed (a b : Sel) : WordCount.Statement (.netRed a b) :=
  fun _ => counted_encR ..

theorem WordCount.netFence (b : Sel) : WordCount.Statement (.netFence b) :=
  fun _ => counted_encR ..

theorem WordCount.netCommandStart (id : Nat) : WordCount.Statement (.netCommandStart id) :=
  fun h => nomatch h

theorem WordCount.netPacketReceive (k : NetPacket) : WordCount.Statement (.netPacketReceive k) :=
  fun h => nomatch h

theorem WordCount.packetRetransmit (id : Nat) : WordCount.Statement (.packetRetransmit id) :=
  fun h => nomatch h

theorem WordCount.netLocalCompletion (id : Nat) : WordCount.Statement (.netLocalCompletion id) :=
  fun h => nomatch h

theorem WordCount.completionRingSpace (id : Nat) : WordCount.Statement (.completionRingSpace id) :=
  fun h => nomatch h

theorem WordCount.launch (d a b : Sel) : WordCount.Statement (.launch d a b) :=
  fun _ => counted_encR ..

theorem WordCount.gang (d a b : Sel) : WordCount.Statement (.gang d a b) :=
  fun _ => counted_encR ..

theorem WordCount.cancel (a : Sel) : WordCount.Statement (.cancel a) :=
  fun _ => counted_encR ..

theorem WordCount.vsel (d a b : Sel) : WordCount.Statement (.vsel d a b) :=
  fun _ => counted_encR ..

theorem WordCount.pipePut (a b : Sel) : WordCount.Statement (.pipePut a b) :=
  fun _ => counted_encR ..

theorem WordCount.pipeGet (d a : Sel) : WordCount.Statement (.pipeGet d a) :=
  fun _ => counted_encR ..

theorem WordCount.pipeClose (a : Sel) : WordCount.Statement (.pipeClose a) :=
  fun _ => counted_encR ..

theorem WordCount.svcReg (a b : Sel) : WordCount.Statement (.svcReg a b) :=
  fun _ => counted_encR ..

theorem WordCount.launchStart : WordCount.Statement .launchStart :=
  fun h => nomatch h

theorem WordCount.teamRelease (q n : Nat) : WordCount.Statement (.teamRelease q n) :=
  fun h => nomatch h

theorem WordCount.teamPlacement (q n : Nat) : WordCount.Statement (.teamPlacement q n) :=
  fun h => nomatch h

theorem WordCount.fairnessExpiry (q n : Nat) : WordCount.Statement (.fairnessExpiry q n) :=
  fun h => nomatch h

theorem WordCount.teamRetire (team : Nat) : WordCount.Statement (.teamRetire team) :=
  fun h => nomatch h

theorem WordCount.groupTeardown (core slot : Nat) : WordCount.Statement (.groupTeardown core slot) :=
  fun h => nomatch h

theorem WordCount.agingPromotion (core slot : Nat) : WordCount.Statement (.agingPromotion core slot) :=
  fun h => nomatch h

theorem WordCount.srep (a b : Sel) : WordCount.Statement (.srep a b) :=
  fun _ => counted_encR ..

theorem WordCount.sdone (a : Sel) : WordCount.Statement (.sdone a) :=
  fun _ => counted_encR ..

theorem WordCount.freeze (a : Sel) : WordCount.Statement (.freeze a) :=
  fun _ => counted_encR ..

theorem WordCount.thaw (a : Sel) : WordCount.Statement (.thaw a) :=
  fun _ => counted_encR ..

theorem WordCount.swapout (a : Sel) : WordCount.Statement (.swapout a) :=
  fun _ => counted_encR ..

theorem WordCount.swapoutDrainDone (core : Nat) : WordCount.Statement (.swapoutDrainDone core) :=
  fun h => nomatch h

theorem WordCount.swapin (a : Sel) : WordCount.Statement (.swapin a) :=
  fun _ => counted_encR ..

theorem WordCount.fltDone (a : Sel) : WordCount.Statement (.fltDone a) :=
  fun _ => counted_encR ..

theorem WordCount.logReplayRecord (core slot lane : Nat) : WordCount.Statement (.logReplayRecord core slot lane) :=
  fun h => nomatch h

theorem WordCount.tlbInv (s a : Sel) : WordCount.Statement (.tlbInv s a) :=
  fun _ => counted_encR ..

theorem WordCount.tlbProbe (d a : Sel) : WordCount.Statement (.tlbProbe d a) :=
  fun _ => counted_encR ..

theorem WordCount.bld (d a b : Sel) (z : BSize) : WordCount.Statement (.bld d a b z) :=
  fun _ => counted_encR ..

theorem WordCount.bst (d a b : Sel) (z : BSize) : WordCount.Statement (.bst d a b z) :=
  fun _ => counted_encR ..

theorem WordCount.potSet (d a b : Sel) : WordCount.Statement (.potSet d a b) :=
  fun _ => counted_encR ..

theorem WordCount.potGet (d a : Sel) : WordCount.Statement (.potGet d a) :=
  fun _ => counted_encR ..

theorem WordCount.frameCls (d a b : Sel) : WordCount.Statement (.frameCls d a b) :=
  fun _ => counted_encR ..

theorem WordCount.gesso (d a b : Sel) : WordCount.Statement (.gesso d a b) :=
  fun _ => counted_encR ..

theorem WordCount.keyNew (d a b : Sel) : WordCount.Statement (.keyNew d a b) :=
  fun _ => counted_encR ..

theorem WordCount.hotRd (d a b : Sel) : WordCount.Statement (.hotRd d a b) :=
  fun _ => counted_encR ..

theorem WordCount.varnishBegin (d a : Sel) : WordCount.Statement (.varnishBegin d a) :=
  fun _ => counted_encR ..

theorem WordCount.varnishEnd (d a : Sel) : WordCount.Statement (.varnishEnd d a) :=
  fun _ => counted_encR ..

theorem WordCount.clkPlan (d : Sel) : WordCount.Statement (.clkPlan d) :=
  fun _ => counted_encR ..

theorem WordCount.clockRelock : WordCount.Statement .clockRelock :=
  fun h => nomatch h

theorem WordCount.cntCfg (d a b : Sel) : WordCount.Statement (.cntCfg d a b) :=
  fun _ => counted_encR ..

theorem WordCount.cntRd (d a : Sel) : WordCount.Statement (.cntRd d a) :=
  fun _ => counted_encR ..

theorem WordCount.cntClr (d a : Sel) : WordCount.Statement (.cntClr d a) :=
  fun _ => counted_encR ..

theorem WordCount.ebudSet (d a b : Sel) : WordCount.Statement (.ebudSet d a b) :=
  fun _ => counted_encR ..

theorem WordCount.ebudRd (d a : Sel) : WordCount.Statement (.ebudRd d a) :=
  fun _ => counted_encR ..

theorem WordCount.tokLim (d a b : Sel) : WordCount.Statement (.tokLim d a b) :=
  fun _ => counted_encR ..

theorem WordCount.tcmpSet (d a b : Sel) : WordCount.Statement (.tcmpSet d a b) :=
  fun _ => counted_encR ..

theorem WordCount.icacheFill (core line : Nat) : WordCount.Statement (.icacheFill core line) :=
  fun h => nomatch h

theorem WordCount.breakpointMatch (core slot lane : Nat) : WordCount.Statement (.breakpointMatch core slot lane) :=
  fun h => nomatch h

theorem WordCount.sleepExpiry (core slot lane : Nat) : WordCount.Statement (.sleepExpiry core slot lane) :=
  fun h => nomatch h

theorem WordCount.wfeWake (core slot lane : Nat) : WordCount.Statement (.wfeWake core slot lane) :=
  fun h => nomatch h

theorem WordCount.ecallRetry (core slot lane : Nat) : WordCount.Statement (.ecallRetry core slot lane) :=
  fun h => nomatch h

theorem WordCount.timerFire (core world : Nat) : WordCount.Statement (.timerFire core world) :=
  fun h => nomatch h

theorem WordCount.deviceRecordPost (core : Nat) : WordCount.Statement (.deviceRecordPost core) :=
  fun h => nomatch h

theorem WordCount.barTimeout (team kind n : Nat) : WordCount.Statement (.barTimeout team kind n) :=
  fun h => nomatch h

theorem WordCount.patrol (line : Nat) : WordCount.Statement (.patrol line) :=
  fun h => nomatch h

theorem WordCount.hotnessIntervalEnd (n : Nat) : WordCount.Statement (.hotnessIntervalEnd n) :=
  fun h => nomatch h

theorem WordCount.ingestPacket (k : RawPacket) : WordCount.Statement (.ingestPacket k) :=
  fun h => nomatch h

theorem WordCount.ingestHeldWrite (id : Nat) : WordCount.Statement (.ingestHeldWrite id) :=
  fun h => nomatch h

theorem WordCount.pauseBudgetExpiry (die rule : Nat) : WordCount.Statement (.pauseBudgetExpiry die rule) :=
  fun h => nomatch h

theorem WordCount.xoffRefresh (port prio : Nat) : WordCount.Statement (.xoffRefresh port prio) :=
  fun h => nomatch h

theorem WordCount.doorbellWrite (id : Nat) : WordCount.Statement (.doorbellWrite id) :=
  fun h => nomatch h

theorem WordCount.ssdDataAccess (port qid : Nat) (wr : Bool) (addr : BitVec 64) (len : Nat) (data : List (BitVec 8)) : WordCount.Statement (.ssdDataAccess port qid wr addr len data) :=
  fun h => nomatch h

theorem WordCount.nvmeCompletion (port qid slot : Nat) (entry : BitVec 128) : WordCount.Statement (.nvmeCompletion port qid slot entry) :=
  fun h => nomatch h

theorem WordCount.domainStateWrite (world : Nat) (v : BitVec 2) : WordCount.Statement (.domainStateWrite world v) :=
  fun h => nomatch h

theorem WordCount.domainDrained (world : Nat) : WordCount.Statement (.domainDrained world) :=
  fun h => nomatch h

theorem WordCount.tctlWrite (v : BitVec 64) : WordCount.Statement (.tctlWrite v) :=
  fun h => nomatch h

theorem WordCount.potInitialisationDone : WordCount.Statement .potInitialisationDone :=
  fun h => nomatch h

theorem WordCount.worldTableReserveWrite (world : Nat) (v : BitVec 64) : WordCount.Statement (.worldTableReserveWrite world v) :=
  fun h => nomatch h

theorem WordCount.wayGlazingDone (world : Nat) : WordCount.Statement (.wayGlazingDone world) :=
  fun h => nomatch h

theorem WordCount.vaultAllocationWrite (site seg : Nat) (v : BitVec 32) : WordCount.Statement (.vaultAllocationWrite site seg v) :=
  fun h => nomatch h

theorem WordCount.segmentZeroingDone (site seg : Nat) : WordCount.Statement (.segmentZeroingDone site seg) :=
  fun h => nomatch h

theorem WordCount.flashProgram (o : Nat) (data : List (BitVec 8)) : WordCount.Statement (.flashProgram o data) :=
  fun h => nomatch h

theorem WordCount.sectorErase (o : Nat) : WordCount.Statement (.sectorErase o) :=
  fun h => nomatch h

theorem WordCount.flashOperationDone (o : Nat) : WordCount.Statement (.flashOperationDone o) :=
  fun h => nomatch h

theorem WordCount.deviceRegisterWrite (o len : Nat) (v : BitVec 64) : WordCount.Statement (.deviceRegisterWrite o len v) :=
  fun h => nomatch h

theorem WordCount.powerOn : WordCount.Statement .powerOn :=
  fun h => nomatch h

theorem WordCount.pinReset : WordCount.Statement .pinReset :=
  fun h => nomatch h

theorem WordCount.stackTrainingDone (stack : Nat) : WordCount.Statement (.stackTrainingDone stack) :=
  fun h => nomatch h

theorem WordCount.thermtrip : WordCount.Statement .thermtrip :=
  fun h => nomatch h

theorem WordCount.translationWalkDone (id : Nat) : WordCount.Statement (.translationWalkDone id) :=
  fun h => nomatch h

theorem WordCount.arrayFinish (id q : Nat) : WordCount.Statement (.arrayFinish id q) :=
  fun h => nomatch h

theorem WordCount.scratchpadClearDone (team : Nat) : WordCount.Statement (.scratchpadClearDone team) :=
  fun h => nomatch h

theorem WordCount.softError (place : ErrPlace) (g : ErrGrade) (v : BitVec 64) : WordCount.Statement (.softError place g v) :=
  fun h => nomatch h

theorem WordCount.powerRemoval : WordCount.Statement .powerRemoval :=
  fun h => nomatch h

theorem WordCount.resetNAsserted : WordCount.Statement .resetNAsserted :=
  fun h => nomatch h

theorem WordCount.portLinkChange (port : Nat) (up : Bool) : WordCount.Statement (.portLinkChange port up) :=
  fun h => nomatch h

end Laws

end Sys2Proof
end

