-- ==== Sys2Proof/Laws/Records.lean ====
section
/-! SUPPORT. Taking an exception, record slots, and the sorted maps of tables: what each operation does. -/

namespace Sys2Proof.Machine

/-! ## Slots -/

/-- Numbers that all lie in a list are at most as many as the list has elements. -/
theorem range_length_le {l : List Nat} {n k : Nat} (h : ∀ i, i < k → n + i ∈ l) : k ≤ l.length := by
  induction k generalizing l n with
  | zero => exact Nat.zero_le _
  | succ k ih =>
    have h0 : n ∈ l := by simpa using h 0 (Nat.succ_pos k)
    have hl := List.length_erase_of_mem h0
    have hp : 0 < l.length := List.length_pos_of_mem h0
    have := ih (l := l.erase n) (n := n + 1) fun i hi => by
      have hm := h (i + 1) (Nat.succ_lt_succ hi)
      rw [show n + 1 + i = n + (i + 1) by omega]
      exact (List.mem_erase_of_ne (by omega)).2 hm
    omega

theorem firstFree_cases (used : List Nat) (n k : Nat) :
    firstFree used n k ∉ used ∨ (firstFree used n k = n + k ∧ ∀ i, i < k → n + i ∈ used) := by
  induction k generalizing n with
  | zero => exact .inr ⟨rfl, fun i hi => absurd hi (Nat.not_lt_zero i)⟩
  | succ k ih =>
    simp only [firstFree]
    split
    · rename_i h
      have h : n ∈ used := by simpa using h
      rcases ih (n + 1) with hn | ⟨he, ha⟩
      · exact .inl hn
      · refine .inr ⟨by omega, fun i hi => ?_⟩
        cases i with
        | zero => exact h
        | succ i =>
          have := ha i (by omega)
          rwa [show n + 1 + i = n + (i + 1) by omega] at this
    · rename_i h
      exact .inl (by simpa using h)

/-- The smallest free number is free while fewer are used than are looked at. -/
theorem firstFree_not_mem {used : List Nat} {n k : Nat} (h : used.length < k) : firstFree used n k ∉ used := by
  rcases firstFree_cases used n k with h' | ⟨_, ha⟩
  · exact h'
  · have := range_length_le ha
    omega

/-! ## Posting a fault record (R298, R299) -/

/-- The new record stands in the slot that was free. -/
theorem postFault_head (s : State) (core : Nat) (r : FaultRec) : ∃ q, (s.postFault core r).faultq.head? = some q ∧
    q.core = core ∧ q.slot = s.freeFaultSlot core ∧ q.live = true ∧ q.delivered = none ∧ q.body = r :=
  ⟨_, rfl, rfl, rfl, rfl, rfl, rfl⟩

/-- No live record is lost while the core has a free slot. -/
theorem postFault_keeps {s : State} {core : Nat} {r : FaultRec} {q : FaultSlot} (hq : q ∈ s.faultq) (hl : q.live = true)
    (h : (s.faultq.filter fun q => q.core == core && q.live).length < 2048) : q ∈ (s.postFault core r).faultq := by
  simp only [State.postFault, List.mem_cons, List.mem_filter]
  refine .inr ⟨hq, ?_⟩
  by_cases hc : q.core = core
  · have hn : s.freeFaultSlot core ∉ _ :=
      firstFree_not_mem (used := (s.faultq.filter fun q => q.core == core && q.live).map (·.slot)) (n := 0)
        (by simpa using h)
    have : q.slot ≠ s.freeFaultSlot core := fun e => hn (e ▸ List.mem_map.2 ⟨q, List.mem_filter.2 ⟨hq, by simp [hc, hl]⟩, rfl⟩)
    simp [this]
  · simp [hc]

@[simp] theorem postFault_groups (s : State) (core : Nat) (r : FaultRec) : (s.postFault core r).groups = s.groups := rfl
@[simp] theorem postFault_mem (s : State) (core : Nat) (r : FaultRec) : (s.postFault core r).mem = s.mem := rfl
@[simp] theorem postFault_easel (s : State) (core : Nat) (r : FaultRec) : (s.postFault core r).easel = s.easel := rfl
@[simp] theorem postFault_cur (s : State) (core : Nat) (r : FaultRec) : (s.postFault core r).cur = s.cur := rfl

/-! ## Changing the threads of a mask -/

@[simp] theorem mapLanes_mem (s : State) (c n : Nat) (m : DWord) (f : Thread → Thread) : (s.mapLanes c n m f).mem = s.mem := rfl
@[simp] theorem mapLanes_faultq (s : State) (c n : Nat) (m : DWord) (f : Thread → Thread) :
    (s.mapLanes c n m f).faultq = s.faultq := rfl
@[simp] theorem mapLanes_easel (s : State) (c n : Nat) (m : DWord) (f : Thread → Thread) :
    (s.mapLanes c n m f).easel = s.easel := rfl
@[simp] theorem mapLanes_cur (s : State) (c n : Nat) (m : DWord) (f : Thread → Thread) : (s.mapLanes c n m f).cur = s.cur := rfl

/-- The group at the place, with those threads changed. -/
theorem group?_mapLanes_same (s : State) (c n : Nat) (m : DWord) (f : Thread → Thread) :
    (s.mapLanes c n m f).group? c n =
      (s.group? c n).map fun g => g.mapThreads fun t => if laneBit m t.lane then f t else t := by
  simp only [State.group?, State.mapLanes]
  generalize s.groups = l
  induction l with
  | nil => rfl
  | cons a l ih =>
    simp only [List.map_cons, List.find?_cons]
    by_cases e : (a.core == c && a.slot == n) = true
    · simp [e, Group.mapThreads]
    · simp only [e, Bool.false_eq_true, ↓reduceIte, ih]

/-- Any other group is as it was. -/
theorem group?_mapLanes_other {s : State} {c n c' n' : Nat} (m : DWord) (f : Thread → Thread) (h : ¬(c' = c ∧ n' = n)) :
    (s.mapLanes c n m f).group? c' n' = s.group? c' n' := by
  simp only [State.group?, State.mapLanes]
  generalize s.groups = l
  induction l with
  | nil => rfl
  | cons a l ih =>
    simp only [List.map_cons, List.find?_cons]
    by_cases e : (a.core == c && a.slot == n) = true
    · have hp := e
      simp only [Bool.and_eq_true, beq_iff_eq] at hp
      have ha : (a.core == c' && a.slot == n') = false := by simp only [hp.1, hp.2]; simp; omega
      have hb (h : Thread → Thread) : ((a.mapThreads h).core == c' && (a.mapThreads h).slot == n') = false := ha
      simp only [e, ↓reduceIte, ha, hb]
      exact ih
    · simp only [e, Bool.false_eq_true, ↓reduceIte, ih]

/-! ## A fault of a cohort (R300) -/

/-- A cohort of which no thread holds an ACC 7 record takes a fault: one record, on which all of it parks. -/
theorem raiseMask_eq {s : State} {g : Group} {m : DWord} {t : Thread} {ts : List Thread} (i : FaultInfo) (ws : List Word)
    (h : g.inMask m = t :: ts) (hl : ∀ u ∈ g.inMask m, u.logRec = none) :
    raiseMask s g m i ws =
      (s.postFault g.core (faultRec g t.lane true i t.pc m (laneMask []) ws)).mapLanes g.core g.slot
        (laneMask ((t :: ts).map (·.lane))) (parkOn (s.freeFaultSlot g.core)) := by
  have h1 : ((t :: ts).filter fun u => u.logRec.isSome) = [] :=
    List.filter_eq_nil_iff.2 fun u hu => by rw [hl u (h ▸ hu)]; simp
  have h2 : ((t :: ts).filter fun u => u.logRec.isNone) = t :: ts :=
    List.filter_eq_self.2 fun u hu => by rw [hl u (h ▸ hu)]; rfl
  simp only [raiseMask, h, h1, h2, List.foldl_nil, List.map_nil]

/-- A fault of the cohort is always a next state. -/
theorem raiseCohort_next (s : State) (g : Group) (i : FaultInfo) :
    raiseCohort s g i = .next (raiseMask s g s.cur.lanes i s.cur.words) := rfl

/-! ## Guards of meanings -/

theorem atLevel_ok {s : State} {g : Group} {l : Priv} (h : l.code ≤ g.priv.code) (k : Out) : atLevel s g l k = k := by
  simp only [atLevel]; rw [if_neg (by omega)]

theorem atLevel_low {s : State} {g : Group} {l : Priv} (h : g.priv.code < l.code) (k : Out) :
    atLevel s g l k = raiseCohort s g (.plain .priv) := by
  simp only [atLevel]; rw [if_pos h]

theorem withRegs_ok {s : State} {g : Group} {r : List (Sel × Nat)} (h : g.nregOk r = true) (k : Out) : withRegs s g r k = k := by
  simp [withRegs, h]

/-! ## Sorted maps -/

theorem rising_cons {α : Type} {a : Nat} {b : α} {r : List (Nat × α)} :
    Rising ((a, b) :: r) ↔ (∀ c ∈ r, a < c.1) ∧ Rising r := by
  simp [Rising]

theorem mapGet_below {α : Type} {d : α} {m : List (Nat × α)} {k : Nat} (h : ∀ c ∈ m, k < c.1) : mapGet d m k = d := by
  cases m with
  | nil => rfl
  | cons c r =>
    have := h c (List.mem_cons_self ..)
    have e : (c.1 == k) = false := by simp; omega
    simp [mapGet, e, this]

theorem mapSet_keys {α : Type} [BEq α] {d : α} {m : List (Nat × α)} {k : Nat} {v : α} {c : Nat × α} (h : c ∈ mapSet d m k v) :
    c.1 = k ∨ c ∈ m := by
  induction m with
  | nil =>
    simp only [mapSet] at h
    split at h <;> simp_all
  | cons a r ih =>
    obtain ⟨a, b⟩ := a
    simp only [mapSet] at h
    split at h
    · split at h
      · exact .inr (List.mem_cons_of_mem _ h)
      · rcases List.mem_cons.1 h with rfl | h
        · exact .inl rfl
        · exact .inr (List.mem_cons_of_mem _ h)
    · split at h
      · split at h
        · exact .inr h
        · rcases List.mem_cons.1 h with rfl | h
          · exact .inl rfl
          · exact .inr h
      · rcases List.mem_cons.1 h with rfl | h
        · exact .inr (List.mem_cons_self ..)
        · rcases ih h with h | h
          · exact .inl h
          · exact .inr (List.mem_cons_of_mem _ h)

/-- Setting a key keeps the keys rising. -/
theorem mapSet_rising {α : Type} [BEq α] {d : α} {m : List (Nat × α)} (k : Nat) (v : α) (hm : Rising m) :
    Rising (mapSet d m k v) := by
  induction m with
  | nil =>
    simp only [mapSet]
    split <;> simp [Rising]
  | cons a r ih =>
    obtain ⟨a, b⟩ := a
    obtain ⟨h2, h3⟩ := rising_cons.1 hm
    simp only [mapSet]
    split
    · rename_i e
      obtain rfl : a = k := by simpa using e
      split
      · exact h3
      · exact rising_cons.2 ⟨h2, h3⟩
    · rename_i e
      have e : a ≠ k := by simpa using e
      split
      · split
        · exact hm
        · rename_i hlt hv
          refine rising_cons.2 ⟨?_, hm⟩
          intro c hc
          rcases List.mem_cons.1 hc with rfl | hc
          · exact hlt
          · have := h2 c hc
            omega
      · refine rising_cons.2 ⟨?_, ih h3⟩
        intro c hc
        rcases mapSet_keys hc with h | h
        · omega
        · exact h2 c h

/-- What a map gives after a key is set. -/
theorem mapGet_mapSet {α : Type} [BEq α] [LawfulBEq α] {d : α} {m : List (Nat × α)} (hm : Rising m) (k j : Nat) (v : α) :
    mapGet d (mapSet d m k v) j = if j = k then v else mapGet d m j := by
  induction m with
  | nil =>
    simp only [mapSet]
    split
    · rename_i h
      have h : v = d := by simpa using h
      simp [h, mapGet]
    · simp only [mapGet, beq_iff_eq, ite_self]
      by_cases e : k = j
      · simp [e]
      · simp [e, Ne.symm e]
  | cons a r ih =>
    obtain ⟨a, b⟩ := a
    obtain ⟨h2, h3⟩ := rising_cons.1 hm
    have hr : ∀ j, j ≤ a → mapGet d r j = d := fun j hj => mapGet_below fun c hc => by have := h2 c hc; omega
    simp only [mapSet]
    split
    · rename_i e
      obtain rfl : a = k := by simpa using e
      split
      · rename_i hv
        have hv : v = d := by simpa using hv
        by_cases e : j = a
        · rw [if_pos e, e, hv]; exact hr a (Nat.le_refl a)
        · rw [if_neg e]
          simp only [mapGet]
          rw [if_neg (by simpa using Ne.symm e)]
          split
          · exact hr j (by omega)
          · rfl
      · simp only [mapGet]
        by_cases e : j = a
        · simp [e]
        · simp only [beq_iff_eq, if_neg e, if_neg (Ne.symm e)]
    · rename_i e
      have e : a ≠ k := by simpa using e
      split
      · rename_i hlt
        split
        · rename_i hv
          have hv : v = d := by simpa using hv
          by_cases ej : j = k
          · rw [if_pos ej, ej, hv]
            exact mapGet_below fun c hc => by
              rcases List.mem_cons.1 hc with rfl | hc
              · exact hlt
              · have := h2 c hc
                omega
          · rw [if_neg ej]
        · by_cases ej : j = k
          · simp [mapGet, ej]
          · have ej' : k ≠ j := Ne.symm ej
            rw [if_neg ej]
            conv => lhs; unfold mapGet
            simp only [beq_iff_eq, if_neg ej']
            split
            · exact (mapGet_below fun c hc => by
                rcases List.mem_cons.1 hc with rfl | hc
                · simp only; omega
                · have := h2 c hc
                  omega).symm
            · rfl
      · rename_i hlt
        conv => lhs; unfold mapGet
        simp only [beq_iff_eq]
        by_cases ej : a = j
        · rw [if_pos ej, if_neg (by omega)]
          simp [mapGet, ej]
        · rw [if_neg ej, ih h3]
          by_cases ek : j = k
          · rw [if_pos ek, if_pos ek, if_neg (by omega)]
          · rw [if_neg ek, if_neg ek]
            conv => rhs; unfold mapGet
            simp only [beq_iff_eq, if_neg ej]

/-- A device register after one of them is set, both named by their doubleword's offset. -/
theorem devGet_devSet {s : State} (h : Rising s.dev) (o p : Nat) (v : DWord) (ho : o % 8 = 0) (hp : p % 8 = 0) :
    (s.devSet o v).devGet p = if p = o then v else s.devGet p := by
  simp only [State.devGet, State.devSet]
  by_cases e : p = o
  · subst e
    rw [if_pos rfl, mapGet_mapSet h, if_pos rfl]
  · rw [if_neg e]
    have e8 : p / 8 ≠ o / 8 := by omega
    generalize s.dev = m at h
    clear ho hp e
    -- the default of the one read may differ from that of the one set
    induction m with
    | nil =>
      simp only [mapSet]
      split
      · rfl
      · simp only [mapGet, beq_iff_eq, if_neg (Ne.symm e8), ite_self]
    | cons a r ih =>
      obtain ⟨a, b⟩ := a
      obtain ⟨h2, h3⟩ := rising_cons.1 h
      simp only [mapSet]
      split
      · rename_i ea
        obtain rfl : a = o / 8 := by simpa using ea
        split
        · simp only [mapGet, beq_iff_eq, if_neg (Ne.symm e8)]
          split
          · exact mapGet_below fun c hc => by have := h2 c hc; omega
          · rfl
        · simp only [mapGet, beq_iff_eq, if_neg (Ne.symm e8)]
      · split
        · split
          · rfl
          · rename_i hlt _
            conv => lhs; unfold mapGet
            simp only [beq_iff_eq, if_neg (Ne.symm e8)]
            split
            · exact (mapGet_below fun c hc => by
                rcases List.mem_cons.1 hc with rfl | hc
                · simp only; omega
                · have := h2 c hc
                  omega).symm
            · rfl
        · conv => lhs; unfold mapGet
          conv => rhs; unfold mapGet
          rw [ih h3]

end Sys2Proof.Machine
end

