-- ==== Sys2Proof/Laws/Step.lean ====
section
/-! SUPPORT. The skeletons of scalar and cross-lane instructions, and what a step is: whatever it does, it ends with
`finish`. -/

namespace Sys2Proof.Machine

/-- A scalar instruction answers for the issuing group. -/
theorem scalarIssue_ready {s : State} {g : Group} (h : Issuer s g) (k : Group → Group) :
    scalarIssue s k = .next (s.putGroup (movePast s (k g))) := by
  simp only [scalarIssue, onGroup_issuer h]

/-- A cross-lane instruction that is ready runs for its participants. -/
theorem crossLane_ready {s : State} {g : Group} {r : List (Sel × Nat)} {m : DWord} (h : XReady s g r m)
    (k : Group → DWord → Out) : crossLane s r k = k g m := by
  obtain ⟨h1, h2, h3⟩ := h
  simp only [crossLane, onGroup_issuer h1, h3, withRegs_ok h2]

/-- A cross-lane instruction whose set is not there yet is not ready. -/
theorem crossLane_waits {s : State} {g : Group} {r : List (Sel × Nat)} (h : Issuer s g)
    (hp : participants s g = none) (k : Group → DWord → Out) : crossLane s r k = notReady s := by
  simp only [crossLane, onGroup_issuer h, hp]

/-! ## The end of a step -/

@[simp] theorem finish_tick (s : State) (r : List Cohort) (u : State) : (finish s r u).tick = u.tick + 1 := rfl
@[simp] theorem finish_cycle (s : State) (r : List Cohort) (u : State) :
    (finish s r u).cycle = u.cycle + (1 + Config.lapse s.tick) := rfl
@[simp] theorem finish_time (s : State) (r : List Cohort) (u : State) :
    (finish s r u).time = u.time + BitVec.ofNat 64 (Config.elapsed s.tick) := rfl
@[simp] theorem finish_stalled (s : State) (r : List Cohort) (u : State) : (finish s r u).stalled = false := rfl
@[simp] theorem finish_cur (s : State) (r : List Cohort) (u : State) :
    (finish s r u).cur = { core := 0, slot := 0, lanes := 0, words := [] } := rfl

theorem after_next {o : Out} {f : State → State} {t : State} (h : after o f = .next t) : ∃ u, o = .next u ∧ t = f u := by
  cases o with
  | next u => exact ⟨u, rfl, by simpa [after] using h.symm⟩
  | fault x => simp [after] at h
  | refused x => simp [after] at h

theorem issueAll_next {s t : State} {r : List Cohort} {cs : List Cohort} {u : State} (h : s.issueAll r cs u = .next t) :
    ∃ q v, t = finish s q v := by
  induction cs generalizing r u with
  | nil => exact ⟨r, u.renew s, by simpa [State.issueAll] using h.symm⟩
  | cons c cs ih =>
    simp only [State.issueAll] at h
    split at h
    · split at h
      · exact ih h
      · split at h <;> exact ih h
    · simp at h
    · simp at h

theorem take_next {s t : State} {m : Move} {r : List Cohort} (h : s.take m r = .next t) : ∃ q u, t = finish s q u := by
  cases m with
  | input i =>
    simp only [State.take] at h
    split at h
    · obtain ⟨u, _, e⟩ := after_next h
      exact ⟨r, u.renew s, e⟩
    · exact ⟨r, _, by simpa using h.symm⟩
  | device i =>
    obtain ⟨u, _, e⟩ := after_next h
    exact ⟨r, _, e⟩
  | issue c =>
    simp only [State.take] at h
    split at h
    · obtain ⟨u, _, e⟩ := after_next h
      split at e <;> exact ⟨_, _, e⟩
    · exact issueAll_next h

theorem idle_next {s t : State} (h : s.idle = .next t) : ∃ u, t = s.still u := by
  simp only [State.idle] at h
  split at h
  · exact ⟨s, by simpa using h.symm⟩
  · split at h
    · split at h
      · exact ⟨_, by simpa using h.symm⟩
      · simp at h
      · simp at h
    · exact ⟨_, by simpa using h.symm⟩

/-- Whatever a step does, it ends with `finish`, and notes what it passed over, or with `still` where the clocks stand still. -/
theorem step_finish {s t : State} (h : step s = .next t) :
    (∃ q u d, t = { finish s q u with due := d }) ∨ ∃ u, t = s.still u := by
  simp only [step, State.advance] at h
  split at h
  · exact .inl ⟨[], s.rom, (finish s [] s.rom).due, (Host.Outcome.next.inj h).symm⟩
  · obtain ⟨v, hv, e⟩ := after_next h
    split at hv
    · exact .inl ⟨_, s, _, by rw [e, ← Host.Outcome.next.inj hv]; rfl⟩
    · obtain ⟨q, u, e'⟩ := take_next hv
      exact .inl ⟨q, u, _, by rw [e, e']; rfl⟩
  · exact .inr (idle_next h)

end Sys2Proof.Machine
end

