-- ==== Sys2Proof/Laws/Vector.lean ====
section
/-! SUPPORT. What the vector skeleton answers: the one lemma about `vectorIssue` that the vector instructions cite, and the
widths of operand values. -/

namespace Sys2Proof.Machine

/-- A vector instruction that is ready answers `vecNext`. -/
theorem vectorIssue_ready {s : State} {g : Group} {x : VInst} (h : VReady s g x)
    (f : Group → Thread → List DWord → LaneRes) : vectorIssue s x f = .next (vecNext s g x (f g)) := by
  obtain ⟨h1, h2, h3, h4⟩ := h
  simp only [vectorIssue, onGroup_issuer h1, withRegs, h2, h3, h4, ↓reduceIte, Bool.false_eq_true]
  rfl

/-- Everything `vecNext` changes: threads, flags and the notes for matrix commands of one group. -/
theorem vecNext_form (s : State) (g : Group) (x : VInst) (r : Thread → List DWord → LaneRes) : ∃ o a fl, vecNext s g x r =
    s.putGroup { g with
      threads := g.threads.map (vecThread s g x r), owned := o, armDirty := a, fflags := g.fflags ||| fl } := by
  obtain ⟨o, a, e⟩ := Group.noteWrites_eq (g.mapThreads (vecThread s g x r))
    (if pfxZeroes x.p then s.cur.lanes else s.cur.lanes &&& (pfxLanes s.tick g x.p).1) x.dw x.d
  refine ⟨o, a, (activeThreads s g x.p).foldl
        (fun m t => m ||| (r t ((x.values s.tick g t).map fun v => v.val.setWidth 64)).flags) 0#5, ?_⟩
  rw [vecNext, e]
  rfl

/-- Writing a list over another from a position on: which element stands where. -/
theorem setFrom_get {α : Type} (l xs : List α) (n i : Nat) :
    (setFrom l n xs)[i]? = if n ≤ i ∧ i < n + xs.length ∧ i < l.length then xs[i - n]? else l[i]? := by
  induction xs generalizing l n with
  | nil => simp only [setFrom, List.length_nil]; rw [if_neg (by omega)]
  | cons x xs ih =>
    rw [setFrom, ih]
    simp only [List.length_set, List.length_cons]
    by_cases h : n + 1 ≤ i ∧ i < n + 1 + xs.length ∧ i < l.length
    · rw [if_pos h, if_pos (by omega)]
      rw [show i - n = (i - (n+1)) + 1 by omega]; simp
    · rw [if_neg h]
      by_cases e : i = n
      · subst e
        by_cases hl : i < l.length
        · rw [if_pos (by omega)]; simp [hl]
        · rw [if_neg (by omega)]; simp [hl]
      · rw [List.getElem?_set_ne (by omega), if_neg (by omega)]

/-- A lane of `lowLanes n` is set when it lies below `n`. -/
theorem lowLanes_bit (n i : Nat) (h : i < 64) : laneBit (lowLanes n) i = decide (i < n) := by
  simp only [laneBit, lowLanes, BitVec.getLsbD_ofNat, h, decide_true, Bool.true_and, Nat.testBit_two_pow_sub_one]

/-- Lanes that compute alike leave the same state. -/
theorem vecNext_congr {s : State} {g : Group} {x : VInst} {r r' : Thread → List DWord → LaneRes}
    (h : ∀ t, r t ((x.values s.tick g t).map fun v => v.val.setWidth 64) =
      r' t ((x.values s.tick g t).map fun v => v.val.setWidth 64)) : vecNext s g x r = vecNext s g x r' := by
  have e : (fun t => vecThread s g x r t) = fun t => vecThread s g x r' t := by
    funext t
    simp only [vecThread, h]
  simp only [vecNext, h, e]

/-- A 32-bit source's value has no bit above 31. -/
theorem vsource_narrow (tick : Nat) (g : Group) (t : Thread) (sel : Sel) :
    ((vsource tick g t false sel).val.setWidth 64).toNat < 2 ^ 32 := by
  simp only [vsource, Bool.false_eq_true, ↓reduceIte]
  split
  · simp only [BitVec.toNat_setWidth]; omega
  · split
    · simp only [BitVec.toNat_setWidth]; omega
    · split
      · simp only [BitVec.toNat_setWidth]; omega
      · split
        · simp [Val.const]
        · simp only [Val.const, BitVec.toNat_setWidth, BitVec.toNat_ofNat]; omega

end Sys2Proof.Machine
end

