-- ==== Sys2Proof/Tests/Slice0.lean ====
section
/-! SUPPORT. Tests: ill-formed terms, words of the encoding tables, single steps, and states that meet the hypotheses of the
statements. Expected values are worked by hand from the rules named, or are the specification's own examples. -/

namespace Sys2Proof.Machine

set_option Elab.async false

noncomputable section

/-! ## Small states -/

/-- A lane at an address, with registers `v`. -/
def wThread (pc : DWord) (v : List Word) (lane : Nat) : Thread :=
  { lane := lane, pc := pc, v := (v ++ List.replicate (32 - v.length) 0).map fun x => { val := x, taint := false, poison := false, wait := [] },
    h := List.replicate 16 { val := 0, taint := false, poison := false, wait := [] }, srg := 1, st := .ready, setId := 0, path := [],
    since := 0, logRec := none, logErr := none, tph := 0, bpSkip := false }

/-- A group of eight lanes, of which four are live, at a level: core 3, slot 5, team 1. -/
def wGroup (pr : Priv) (v : List Word) : Group :=
  { core := 3, slot := 5, quarter := 1, team := 1, priv := pr, world := if pr = .f then 0 else 1, asid := 0, kcls := .p, prom := false,
    gid := 0, tx := 0, ty := 0, tz := 0, clid := 0, ch := 1, cw := 1, cy := 0, cx := 0, lseq := 0, lq := 0, ginst := 0, gw := 8,
    nreg := 32, rm := 1, srseed := 0, fflags := 0, rcvbase := 0, rcvdepth := 0, stkBase := 0, stkSzc := 0, spadsz := 4096,
    s := List.replicate 32 { val := 0, taint := false, poison := false }, m := List.replicate 8 { val := 0, poison := false },
    frames := [], armed := false, armDirty := [], fzS := false, fzF := false, fzB := false, fzC := false, dead := false, pri := 0,
    age := false, waited := 0, boost := 0, service := none, seated := 0, owned := [],
    threads := (List.range 4).map (wThread 0x1000 v) }

/-- A team of one group with 4 KiB of scratchpad. -/
def wTeam : Team :=
  { num := 1, core := 3, lq := 0, lseq := 0, index := 0, world := 1, ginst := 0, clid := 0, kcls := .p, svc := false, groups := 1,
    base := 0, size := 4096, lines := [], uncleared := [],
    cbs := List.replicate 16 { exp := 1, cnt := 0, ph := false, scp := 0, since := none },
    nbs := List.replicate 16 { arr := 0, tgt := 0, since := none }, tbSince := none, cbSince := none, bto := 0 }

/-- A running device in which all four lanes of a group issue a one-word instruction. -/
def wState (g : Group) : State :=
  { State.reset with
    phase := .running, cycle := 100, groups := [g], teams := [wTeam], fresh := 9
    cur := { core := 3, slot := 5, lanes := 0xF, words := [0] } }

/-- The same for a U group whose registers start with `v`. -/
def wU (v : List Word) : State := wState (wGroup .u v)

/-- What is checked of an answer. -/
def nextAnd (o : Out) (p : State → Bool) : Bool :=
  match o with
  | .next u => p u
  | _ => false

/-- What is checked of the issuing group after an answer. -/
def groupAnd (o : Out) (p : Group → Bool) : Bool := nextAnd o fun u => (u.group? 3 5).any p

/-- What is checked of a lane after an answer. -/
def laneAnd (o : Out) (lane : Nat) (p : Thread → Bool) : Bool := groupAnd o fun g => (g.thread? lane).any p

/-- The words of a lane's registers. -/
def regAt (t : Thread) (n : Nat) : Word := (t.v.getD n { val := 0, taint := false, poison := false, wait := [] }).val

/-- The newest history entry. -/
def h0 (t : Thread) : DWord := (t.h.headD { val := 0, taint := false, poison := false, wait := [] }).val

/-- A prefix. -/
def pf (msk : BitVec 3) (z : Bool) (c : Sel) (sat : BitVec 2) : Option Pfx :=
  some { msk := msk, inv := false, z := z, rm := 0, c := c, sat := sat }

/-! ## Witnesses: states that meet the hypotheses of the statements -/

/-- Registers for the witnesses of vector instructions. -/
def wRegs : List Word := [7, 5, 0x80000000, 0xFFFFFFFF, 1, 2, 3, 4]

/-- The group of `wU wRegs`. -/
def wG : Group := wGroup .u wRegs

theorem vready_of {s : State} {g : Group} {x : VInst} (h : s.group? s.cur.core s.cur.slot = some g)
    (h2 : (g.nregOk x.names && !pfxFaults g x.p && !x.waits s g (pfxLanes s.tick g x.p).1) = true) : VReady s g x := by
  simp only [Bool.and_eq_true, Bool.not_eq_true'] at h2
  exact ⟨h, h2.1.1, h2.1.2, h2.2⟩

theorem wU_issuer (pr : Priv) (v : List Word) : Issuer (wState (wGroup pr v)) (wGroup pr v) := rfl

/-- Every shape of operands that the vector statements name, at the last register or pair. -/
def wShapes (p : Option Pfx) : List VInst := [
    vin p 31 .w32 [(3, false), (0x3D, false)] none, vin p 30 .w64 [(30, true), (0x2F, true)] none,
    vin p 30 .w64 [(30, true), (31, false)] none, vin p 31 .w32 [(31, false), (0x3F, false)] (some false),
    vin p 0x3F .w64 [(28, true), (30, true)] (some true), vin p 0 .w64 [(0, true), (2, true), (0x20, true)] none,
    vin p 0 .w64 [(0, false), (31, false), (0x20, true)] none, vin p 30 .w64 [(28, true), (30, true)] (some false),
    vin p 31 .w32 [(31, false)] none, vin p 30 .w64 [(30, true)] none, vin p 30 .w64 [(31, false)] none,
    vin p 31 .w32 [(30, true)] none, vin p 28 .w128 [(31, false)] none, vin p 31 .w32 [] none, vin p 30 .w64 [] none,
    { vin p 31 .w32 [(31, false), (0, false)] none with old := true },
    { vin p 30 .w64 [(31, false), (0, false)] none with old := true },
    vin p 0x3F .w32 [(31, false), (0, false)] none, vin p 0x3F .w64 [(30, true), (0, true)] none,
    vin p 31 .w32 [(31, false), (0, false)] (some false), vin p 30 .w64 [(30, true), (0, true)] (some true),
    vin p 30 .w64 [(30, true), (0, false)] none]

/-- VectorIntegerTwoSources, VectorIntegerFurther, VectorImmediates, FloatArithmetic, FloatSpecialFunctions, FloatConversions,
Compares, SignOperations, FormsComplete: every shape, without and with a prefix. -/
theorem witness_VectorShapes : ∀ p ∈ [none, pf 0 true 30 1], ∀ x ∈ wShapes p, VReady (wU wRegs) wG x := by
  have h : ∀ p ∈ [none, pf 0 true 30 1], ∀ x ∈ wShapes p, (wG.nregOk x.names && !pfxFaults wG x.p &&
      !x.waits (wU wRegs) wG (pfxLanes (wU wRegs).tick wG x.p).1) = true := by decide +kernel
  exact fun p hp x hx => vready_of rfl (h p hp x hx)

/-- VectorLanes: an active lane, and under either policy an inactive one. -/
theorem witness_VectorLanes :
    (VReady (wU wRegs) wG (vin none 31 .w32 [(0, false)] none) ∧ (wThread 0x1000 wRegs 3) ∈ wG.threads ∧
      laneBit (wU wRegs).cur.lanes 3 = true ∧ laneBit (pfxLanes 0 wG none).1 3 = true) ∧
    ∀ z ∈ [true, false], VReady (wU wRegs) wG (vin (pf 1 z 0 0) 30 .w64 [(0, true)] none) ∧
      VReady (wU wRegs) wG (vin (pf 1 z 0 0) 28 .w128 [(0, false)] none) ∧
      laneBit (pfxLanes 0 wG (pf 1 z 0 0)).1 3 = false :=
  ⟨⟨vready_of rfl (by decide +kernel), by and_intros <;> decide +kernel⟩, fun z hz =>
    ⟨vready_of rfl (by revert z; decide +kernel), vready_of rfl (by revert z; decide +kernel), by revert z; decide +kernel⟩⟩

/-- Masks: the first and the last mask, and lane 7 of 8; the scalar and mask instructions have a group. -/
theorem witness_Masks : (∀ n ∈ [1, 7], 0 < n ∧ n < 8 ∧ n < wG.m.length ∧ 7 < wG.gw) ∧ Issuer (wU wRegs) wG :=
  ⟨by decide +kernel, rfl⟩

/-- Shuffles, ReductionsAndScans, Votes: the whole set of four lanes is ready. -/
theorem witness_CrossLane : ∀ r ∈ [[(31, 1), (0x2F, 1), (0x3D, 1)], [(31, 1), (30, 1), (0, 1)], [(30, 2), (0, 2)], [(31, 1), (31, 1)],
      [(30, 1)], [(30, 1), (28, 2)]],
    XReady (wU wRegs) wG r 0xF ∧ pfxFaults wG (pf 0 true 1 0) = false ∧
      ∀ t ∈ wG.threads, (vsource 0 wG t false 0x2F).wait = [] ∧ (vsource 0 wG t true 30).wait = [] := by
  have h : ∀ r ∈ [[(31, 1), (0x2F, 1), (0x3D, 1)], [(31, 1), (30, 1), (0, 1)], [(30, 2), (0, 2)], [(31, 1), (31, 1)],
      [(30, 1)], [(30, 1), (28, 2)]], wG.nregOk r = true ∧ participants (wU wRegs) wG = some 0xF ∧ pfxFaults wG (pf 0 true 1 0) = false ∧
      ∀ t ∈ wG.threads, (vsource 0 wG t false 0x2F).wait = [] ∧ (vsource 0 wG t true 30).wait = [] := by decide +kernel
  intro r hr
  obtain ⟨h1, h2, h3, h4⟩ := h r hr
  exact ⟨⟨rfl, h1, h2⟩, h3, h4⟩

/-- ReductionsAndScans, the folds: eight positions, one of them empty. -/
theorem witness_IntegerNetworksFold :
    let pos : List (Option Nat) := [some 0, some 0xFFFFFFFF, none, some 1, some 2, some 3, some 4, some 5]
    pos.length = 2 ^ 3 ∧ ∀ x ∈ pos.filterMap id, x < 2 ^ (if RedOp.addI32.wide then 64 else 32) := by decide +kernel

/-- ScalarInstructions: a live lane, and one that does not exist, named by a scalar. -/
theorem witness_ScalarInstructions :
    let g := { wG with s := wG.s.set 1 { val := 3, taint := false, poison := false } }
    (Issuer (wState g) g ∧ g.nregOk [(31, 1)] = true ∧ g.thread? (ssource g 1).val.toNat = some (wThread 0x1000 wRegs 3) ∧
      (vsource 0 g (wThread 0x1000 wRegs 3) false 31).wait = [] ∧ (vsource 0 g (wThread 0x1000 wRegs 3) true 0x2F).wait = [] ∧
      (readReg 0 g (wThread 0x1000 wRegs 3) 31).wait = []) ∧
    ({ wG with s := wG.s.set 1 { val := 4, taint := false, poison := false } } : Group).exited 4 = true := by
  refine ⟨⟨rfl, ?_⟩, ?_⟩ <;> decide +kernel

/-- A group with other scalars. -/
def wScalar (g : Group) (l : List (Nat × DWord)) : Group :=
  { g with s := l.foldl (fun s p => s.set p.1 { val := p.2, taint := false, poison := false }) g.s }

/-- A state with other device registers. -/
def wDev (s : State) (l : List (Nat × DWord)) : State := l.foldl (fun u p => u.devSet p.1 p.2) s

/-- Easel room for worlds 0 and 1 on core 3. -/
def wRoom (s : State) : State := wDev s [(2 * 2 ^ 40 + 0x30000, 0x0000010000000100)]

/-- CsrReads, CsrWrites, ReconvergenceFrames, RestWakeAndHalt: each level's group, with `s0` readable; fields at their widest. -/
theorem witness_Csr : (∀ pr ∈ [Priv.u, .s, .f], (wState (wGroup pr [])).group? 3 5 = some (wGroup pr []) ∧
      consumeS 0 100000 (wGroup pr []) 31 = some 0) ∧
    (let g := wScalar { wGroup .s [] with gw := 64, nreg := 32, cx := 15, cy := 15, cw := 15, ch := 15, clid := 2 ^ 20 - 1, core := 279 }
        [(31, 0xFFFFFFFFFFFFFFFF)]
     g.gw < 256 ∧ g.nreg < 64 ∧ g.core < 512 ∧ g.cx < 16 ∧ g.clid < 2 ^ 20 ∧ consumeS 0 100000 g 31 = some 0xFFFFFFFFFFFFFFFF) ∧
    (0xFFF#12).toNat ∉ [0, 1, 2, 3, 4, 5, 6, 7, 8, 0x10, 0x6F] := by decide +kernel

/-- The world that owns breakpoint register `c.bpc` and the counters, and one that does not. -/
theorem witness_CsrWorlds :
    let c : CoreRec := { CoreRec.reset 3 with bpc := 0x1000F, cnsel := List.replicate 8 0x10400 }
    let s := { wState (wGroup .s []) with cores := [c] }
    ((s.core 3).bpc.extractLsb' 16 6 = (wGroup .s []).world ∧ ((s.core 3).cnsel.getD 7 0).extractLsb' 16 6 = (wGroup .s []).world ∧
      ((s.core 3).cnsel.getD 7 0).getLsbD 10 = true) ∧
    (((wState (wGroup .s [])).core 3).bpc.extractLsb' 16 6 ≠ (wGroup .s []).world) := by decide +kernel

/-- BranchesAndCalls: clean operands, and poisoned ones in a group of class P. -/
theorem witness_BranchesAndCalls :
    (Issuer (wU wRegs) wG ∧ wG.nregOk [(31, 1)] = true ∧ wG.nregOk [(30, 2)] = true ∧ (ssource wG 0x3F).poison = false ∧
      ∀ t ∈ wG.inMask 0xF, (vsource 0 wG t false 31).wait = [] ∧ (vsource 0 wG t false 31).poison = false ∧
        (vsource 0 wG t true 30).wait = [] ∧ (vsource 0 wG t true 30).poison = false) ∧
    (let g := { wG with
        s := wG.s.set 31 { val := 0, taint := false, poison := true }
        threads := wG.threads.map fun t => { t with v := t.v.set 30 { val := 0, taint := false, poison := t.lane == 3, wait := [] } } }
     Issuer (wState g) g ∧ g.kcls ≠ .n ∧ (ssource g 31).poison = true ∧ g.inMask 0xF ≠ [] ∧ g.nregOk [(30, 2)] = true ∧
      (g.threads.map (·.lane)).Nodup ∧ (∀ t ∈ g.threads, t.lane < 64 ∧ t.logRec = none) ∧
      ((wState g).faultq.filter fun q => q.core == g.core && q.live).length + g.threads.length ≤ 2048 ∧
      (∀ t ∈ g.inMask 0xF, (vsource 0 g t true 30).wait = [] ∧ (vsource 0 g t false 30).wait = []) ∧
      ∃ t ∈ g.inMask 0xF, (vsource 0 g t true 30).poison = true) := by
  refine ⟨⟨rfl, ?_⟩, rfl, ?_⟩ <;> decide +kernel

/-- RestWakeAndHalt: lanes that rest, and the F level. -/
theorem witness_RestWakeAndHalt :
    let g := { wGroup .f [] with
      threads := [{ wThread 0x1000 [] 0 with st := .sleeping 100 }, { wThread 0x1000 [] 63 with st := .wfe 200 }] }
    Issuer (wState g) g ∧ g.priv = .f ∧ (∃ t, g.threads.find? (fun u => u.lane == 0) = some t ∧ ∃ w, t.st = .sleeping w ∧ w ≤ 100) ∧
      ∃ t, g.threads.find? (fun u => u.lane == 63) = some t ∧ ∃ w, t.st = .wfe w :=
  ⟨rfl, rfl, ⟨_, rfl, 100, rfl, Nat.le_refl _⟩, ⟨_, rfl, 200, rfl⟩⟩

/-- A group with frames. -/
def wFrames (fs : List Frame) : Group := { wG with frames := fs, rcvdepth := fs.length }

/-- A frame whose label is the cohort's `pc`. -/
def wFrame (members arrived : DWord) (depth : Nat) : Frame :=
  { label := 0x1000, members := members, arrived := arrived, gw := 8, depth := depth }

/-- ReconvergenceFrames: room for another frame; a frame of exactly the cohort, one of more lanes; eight frames; none. -/
theorem witness_ReconvergenceFrames :
    (∀ n ∈ [0, 7], (wFrames ((List.range n).map fun i => wFrame 0xF 0 (n - i))).rcvdepth < 8) ∧
    (∀ fs ∈ [wFrames [wFrame 0xF 0 1], wFrames (wFrame 0xFF 0 8 :: List.replicate 7 (wFrame 0xFF 0 1))],
      fs.rcvdepth = fs.frames.length ∧ fs.rcvdepth ≤ 8 ∧
        ∀ h ∈ fs.frames.tail, h.releases fs.exitedMask = false ∧ h.members ≠ 0) ∧
    (0xF#64 &&& ~~~0xF#64 = 0 ∧ 0xF#64 &&& ~~~0xFF#64 = 0) ∧
    (wG.threads.map (·.lane)).Nodup ∧
    (∀ th ∈ wG.threads, th.lane < 64 ∧ th.logRec = none ∧ (laneBit 0xF th.lane = true → th.st ≠ .exited)) ∧
    (∀ i, i < 64 → laneBit 0xF i = true → ∃ th ∈ wG.threads, th.lane = i) ∧
    (wG.frames = [] ∧ wG.rcvdepth = 0 ∧ wG.inMask 0xF ≠ []) ∧
    0xF#64 &&& ~~~(wFrame 7 0 1).members ≠ 0 := by
  and_intros <;> decide +kernel

/-- ExitEndsThreads: with frames, and for the whole group. -/
theorem witness_ExitEndsThreads : let g := wFrames [wFrame 0xFF 0 1]
    Issuer (wState g) g ∧ g.rcvdepth = g.frames.length ∧ g.rcvdepth ≤ 8 ∧
      ∀ t ∈ g.threads, laneBit (wState g).cur.lanes t.lane = true ∨ t.st = .exited := by
  refine ⟨rfl, ?_⟩; decide +kernel

/-- TeamClusterAndNamedBarriers: a team of one group, whose arrival completes the barriers; and one of two groups, whose does not. -/
theorem witness_TeamAndClusterBarriers :
    Issuer (wU wRegs) wG ∧ (wU wRegs).team? wG.team = some wTeam ∧ (∀ t ∈ wG.inMask 0xF, (wU wRegs).logPending wG t.lane = false) ∧
    (∀ t ∈ wG.threads, laneBit (wU wRegs).cur.lanes t.lane = true) ∧ (wU wRegs).images = [] ∧
    (∃ t ∈ { wG with slot := 6 }.threads, t.st = .ready) := by
  refine ⟨rfl, ?_⟩; decide +kernel

/-- TeamClusterAndNamedBarriers: the whole group arrives, alone and before a second group; part of it does; its count is poisoned. -/
theorem witness_NamedBarriers :
    let s2 := { wU wRegs with groups := [wG, { wG with slot := 6 }], teams := [{ wTeam with groups := 2 }] }
    let part := { wU wRegs with cur := { (wU wRegs).cur with lanes := 7 } }
    (∀ s ∈ [wU wRegs, s2, part], s.group? 3 5 = some wG ∧ (∃ tm, s.team? wG.team = some tm ∧ tm.nbs[15]? = some { arr := 0, tgt := 0, since := none }) ∧
      consumeS 0 100000 wG 0x3E = some 0 ∧ (∀ t ∈ wG.threads, s.logPending wG t.lane = false) ∧ wG.inMask s.cur.lanes ≠ [] ∧
      ∀ t ∈ wG.inMask s.cur.lanes, t.st ≠ .exited) ∧
    (∀ t ∈ wG.threads, laneBit s2.cur.lanes t.lane = false → t.st = .exited) ∧
    (∃ t ∈ wG.threads, laneBit part.cur.lanes t.lane = false ∧ t.st ≠ .exited ∧ ∀ m st k, t.st = .converging m st k → m ≠ 15) ∧
    (let g := { wG with s := wG.s.set 31 { val := 1, taint := false, poison := true } }
     Issuer (wState g) g ∧ (ssource g 31).poison = true ∧ g.kcls ≠ .n ∧ (∀ t ∈ g.threads, t.lane < 64 ∧ t.logRec = none ∧
       (laneBit (wState g).cur.lanes t.lane = false → t.st = .exited)) ∧
      ((wState g).faultq.filter fun q => q.core == g.core && q.live).length < 2048 ∧
      ∀ t ∈ g.inMask (wState g).cur.lanes, t.pc = 0x1000) := by
  refine ⟨?_, by decide +kernel, ⟨wThread 0x1000 wRegs 3, by decide +kernel, by decide +kernel, by decide, ?_⟩, rfl, by decide +kernel⟩
  · intro s hs
    simp only [List.mem_cons, List.not_mem_nil, or_false] at hs
    rcases hs with rfl | rfl | rfl <;>
      exact ⟨by decide +kernel, ⟨_, rfl, by decide +kernel⟩, by and_intros <;> decide +kernel⟩
  · intro m st k h; cases h

/-- CompletionBarriers: barrier 15, waiting for one arrival, the other phase, and none. -/
theorem witness_CompletionBarriers : Issuer (wU wRegs) wG ∧ (wU wRegs).team? wG.team = some wTeam ∧
    wTeam.cbs[15]? = some { exp := 1, cnt := 0, ph := false, scp := 0, since := none } ∧ consumeS 0 100000 wG 0x3E = some 0 ∧
    (∀ t ∈ wG.inMask 0xF, (wU wRegs).logPending wG t.lane = false) ∧ (1#16 ≠ 0#16 ∧ 0#16 + 1#16 = 1#16) := by
  refine ⟨rfl, ?_⟩; decide +kernel

/-- BarrierTimeouts: each kind of barrier, its clock just run out, with a waiting lane and one that does not wait. -/
theorem witness_BarrierTimeouts : ∀ x ∈ [(0, 0, BarWait.team), (1, 0, .clu), (2, 15, .named 15), (3, 15, .cb 15 true)],
    let g := { wG with threads := [{ wThread 0x1000 [] 0 with st := .atBar x.2.2 0 }, wThread 0x1000 [] 63] }
    let tm := { wTeam with
      bto := 1, tbSince := some 0, cbSince := some 0, nbs := List.replicate 16 { arr := 1, tgt := 2, since := some 0 }
      cbs := List.replicate 16 { exp := 2, cnt := 1, ph := true, scp := 0, since := some 0 } }
    let s := { wState g with teams := [tm], time := 1000 }
    s.team? 1 = some tm ∧ s.barClock tm x.1 x.2.1 = some 0 ∧ tm.bto ≠ 0 ∧ 0 + 1000 * tm.bto ≤ s.time.toNat ∧
      (s.groups.map fun k => (k.core, k.slot)).Nodup ∧
      ((s.faultq.filter fun q => q.live).length + (s.groups.flatMap Group.threads).length ≤ 2048) ∧
      (g.threads.map (·.lane)).Nodup ∧ ∀ t ∈ g.threads, t.lane < 64 := by decide +kernel

/-- CohortFault: a queue whose lowest slot is taken. -/
theorem witness_CohortFault :
    let s := (wU wRegs).postFault 3 (faultRec wG 0 true (.plain .ill) 0x1000 0xF 0 [0])
    s.group? 3 5 = some wG ∧ (∃ ts, wG.inMask s.cur.lanes = wThread 0x1000 wRegs 0 :: ts) ∧
      (∀ th ∈ wG.inMask s.cur.lanes, th.logRec = none) ∧ (∀ th ∈ wG.threads, th.lane < 64) ∧
      (s.faultq.filter fun q => q.core == wG.core && q.live).length < 2048 := by
  exact ⟨by decide +kernel, ⟨(wG.inMask 0xF).tail, by decide +kernel⟩, by and_intros <;> decide +kernel⟩

/-- PrivilegeAndNregRefused: a pair that begins below NREG and ends above, and a register at NREG. -/
theorem witness_RegistersAboveNreg : let g := { wG with nreg := 31 }
    Issuer (wState g) g ∧ (∃ x ∈ [((30 : Sel), 2)], x.1.toNat < 0x20 ∧ g.nreg < x.1.toNat + x.2) ∧
      ∃ x ∈ [((31 : Sel), 1)], x.1.toNat < 0x20 ∧ g.nreg < x.1.toNat + x.2 := by
  refine ⟨rfl, ?_⟩; decide +kernel

/-- CallsBreaksAndTraps, the calls: the levels that may call, with room and without; a lane that is stalled at a call. -/
theorem witness_Calls :
    (∀ p ∈ [(false, Priv.u), (false, .s), (true, .s), (true, .f)], let g := wGroup p.2 wRegs
      (if p.1 then g.priv = .s ∨ (g.priv = .f ∧ g.service = none) else g.priv = .u ∨ (g.priv = .s ∧ g.service = none)) ∧
      (g.threads.map (·.lane)).Nodup ∧ (∀ t ∈ g.threads, t.lane < 64) ∧ 12 ≤ g.nreg ∧
      (∀ t ∈ g.inMask 0xF, (wState g).logPending g t.lane = false ∧
        ∀ k, k < 6 → (joinRegs (readReg 0 g t (2 * k)) (readReg 0 g t (2 * k + 1))).wait = []) ∧
      (wRoom (wState g)).isHalted g.core = false ∧
      (wRoom (wState g)).easelUsed g.core g.world.toNat + (g.inMask 0xF).length ≤ (wRoom (wState g)).quota g.core g.world.toNat ∧
      64 + (g.inMask 0xF).length ≤ (wRoom (wState g)).easelFree g.core ∧ (wState g).easelRoom g.core g.world.toNat = false) ∧
    (let t := { wThread 0x1000 [] 3 with st := .ecallStall false 255 4 }
     let g := { wG with threads := [wThread 0x1000 [] 0, t] }
     let s := wRoom (wState g)
     s.group? 3 5 = some g ∧ g.frozen = false ∧ g.dead = false ∧ s.easelRoom 3 g.world.toNat = true ∧
      (g.threads.find? fun th => match th.st with | .ecallStall _ _ _ => true | _ => false) = some t ∧ t.lane < 64 ∧
      (g.threads.map (·.lane)).Nodup) := by
  refine ⟨?_, ?_⟩ <;> decide +kernel

/-- CallsBreaksAndTraps, the breaks and traps: with room and without; breakpoint register 3 matches. -/
theorem witness_BreaksAndTraps :
    ((∃ ts, wG.inMask 0xF = wThread 0x1000 wRegs 0 :: ts) ∧ (wRoom (wU wRegs)).easelRoom 3 1 = true ∧
      (wU wRegs).easelRoom 3 1 = false) ∧
    (let c : CoreRec := { CoreRec.reset 3 with bpc := 0x10008, bpa := [0, 0, 0, 0x1003] }
     let s := wRoom { wU wRegs with cores := [c] }
     s.group? 3 5 = some wG ∧ wG.priv = .u ∧ wG.service = none ∧ wG.frozen = false ∧ wG.dead = false ∧
      (wG.threads.map (·.lane)).Nodup ∧ (∀ th ∈ wG.threads, th.lane < 64) ∧
      (∃ ts, wG.threads.filter (fun th => th.st == .ready && th.pc == 0x1000 && !th.bpSkip && th.logErr.isNone) =
        wThread 0x1000 wRegs 0 :: ts) ∧ s.easelRoom 3 wG.world.toNat = true ∧ (s.core 3).bpc.extractLsb' 16 6 = wG.world ∧
      3 < 4 ∧ (s.core 3).bpc.getLsbD 3 = true ∧ ((s.core 3).bpa.getD 3 0) >>> 2 = 0x1000#64 >>> 2) := by
  refine ⟨⟨⟨(wG.inMask 0xF).tail, by decide +kernel⟩, by decide +kernel⟩, ?_⟩
  and_intros
  on_goal 8 => exact ⟨wG.threads.tail, by decide +kernel⟩
  all_goals decide +kernel

/-- PrivilegeAndNregRefused: each level, and the service groups. -/
theorem witness_PrivilegeRefused : (wGroup .s []).priv ≠ .f ∧ (wGroup .u []).priv = .u ∧ wG.nregOk [(30, 2), (28, 2), (28, 4)] = true ∧
    (wGroup .f []).priv = .f ∧ { wGroup .s [] with service := some 0 }.service.isSome = true := by decide +kernel

/-- A group whose lane `i` holds in `v0:v1` the address of the 16 bytes before the last 16·`i` of its scratchpad. -/
def wAddr (lanes : List Nat) (hi : Word) : Group :=
  { wG with threads := lanes.map fun i => wThread 0x1000 [BitVec.ofNat 32 (4080 - 16 * i), hi, 7, 9] i }

/-- Its group. -/
def wSp : Group := wAddr [0, 1, 2, 3] 0xF0000000

/-- The keys of `n` bytes there. -/
def wKeys (n : Nat) (t : Thread) : List Nat := (List.range n).map fun i => spadKey 3 (4080 - 16 * t.lane + i)

theorem wSp_reaches (n : Nat) (hn : n ∈ [1, 2, 4, 8, 16]) (k : AKind) (hk : k ∈ [AKind.load, .store, .atomic, .reduction]) :
    Reaches (wState wSp) wSp wSp.threads k (fun t => (vsource 0 wSp t true 0).val.setWidth 64 + (none : Option Imm).getD 0) n
      (wKeys n) (fun t => some (1, 4080 - 16 * t.lane)) := by
  have h : ∀ n ∈ [1, 2, 4, 8, 16], ∀ k ∈ [AKind.load, .store, .atomic, .reduction], ∀ t ∈ wSp.threads,
      (wState wSp).resolve (wSp.poster t.lane) ((vsource 0 wSp t true 0).val.setWidth 64 + (none : Option Imm).getD 0) n k =
        .keys (wKeys n t) .p false (some (1, 4080 - 16 * t.lane)) ∧
      (wState wSp).presence 1 (4080 - 16 * t.lane) n = .present ∧ (wKeys n t).Nodup ∧
      ∀ x ∈ wKeys n t, isFlash x = false ∧ isMain x = false := by decide +kernel
  refine ⟨⟨rfl, rfl, rfl, rfl⟩, by decide +kernel, fun t ht => ⟨.p, false, (h n hn k hk t ht).1, ?_⟩,
    fun t ht => ⟨(h n hn k hk t ht).2.2.1, fun x hx => ⟨((h n hn k hk t ht).2.2.2 x hx).1, fun hm => ?_⟩⟩⟩
  · intro team off e
    simp only [Option.some.injEq, Prod.mk.injEq] at e
    obtain ⟨rfl, rfl⟩ := e
    exact .inr (h n hn k hk t ht).2.1
  · rw [((h n hn k hk t ht).2.2.2 x hx).2] at hm; cases hm

/-- Loads, Stores, Atomics: every size, to the last bytes of the team's scratchpad. -/
theorem witness_Accesses : Issuer (wState wSp) wSp ∧ (wState wSp).cur.lanes ≠ 0 ∧
    (∀ p ∈ [none, pf 0 true 0 0], pfxFaults wSp p = false ∧ activeThreads (wState wSp) wSp p = wSp.threads) ∧
    wSp.inMask (wState wSp).cur.lanes = wSp.threads ∧
    (∀ r ∈ [[(28, 4), (0, 2), (0x3F, 1)], [(31, 1), (0, 2), (0x3E, 1)], [((24 : Sel), 8), (0, 2)]], wSp.nregOk r = true) ∧
    (∀ t ∈ wSp.threads, (vsource 0 wSp t true 0).wait = [] ∧ (vsource 0 wSp t true 0).poison = false ∧
      (vsource 0 wSp t false 0x3F).wait = [] ∧ (vsource 0 wSp t false 0x3F).poison = false ∧
      (∀ w ∈ [DW.w32, .w64, .w128], (source 0 wSp t w 28).wait = [] ∧ (source 0 wSp t w 28).poison = false) ∧
      (vsource 0 wSp t true 0).val.toNat % 16 = 0 ∧ (wKeys 16 t).all (fun k => !(wState wSp).isPoisoned k) = true) ∧
    ∀ l ∈ (wState wSp).l1, l.core ≠ wSp.core := by
  refine ⟨rfl, ?_⟩; decide +kernel

/-- The data of a load. -/
theorem witness_LoadData : ({ wState wSp with flights := [{ id := 4, core := 3, slot := 5 }] } : State).flights.find?
    (fun x => x.id == 4) = some { id := 4, core := 3, slot := 5 } := by decide

/-- Windows: the first and the last address of each window's ranges, and the first beyond. -/
theorem witness_Windows : (∀ x ∈ [((0x0200000000000000 : DWord), 0x02), (0x00FFFFFFFFFFFFFF, 0x00), (0x01FFFFFFFF000000, 0x01),
      (0x01FFFFFFFFFFFFF0, 0x01), (0xF000000000000FF0, 0xF0), (0xF1000000000FFFF0, 0xF1), (0xF100000000100000 - 15, 0xF1),
      (0xF100000010000000, 0xF1), (0xF200000200000000, 0xF2), (0xF200000000800000, 0xF2), (0xFE00000000000000, 0xFE),
      (0xFF00000000000000, 0xFF)], (x.1.extractLsb' 56 8).toNat = x.2) ∧
    (2 ^ 56 < 2 ^ 56 - 1 + 16) ∧ (2 ^ 56 - 2 ^ 24 ≤ 0xFFFFFFFFFFFFF0 ∧ 0xFFFFFFFFFFFFF0 + 16 ≤ 2 ^ 56) ∧
    ((wGroup .u []).poster 0).priv = .u ∧ ((wGroup .s []).poster 0).priv ≠ .u ∧ ((wGroup .f []).poster 0).priv = .f ∧
    (wState wSp).team? 1 = some wTeam ∧ (wState wSp).team? 2 = none := by decide +kernel

/-- One thread whose page does not translate, as a walk has found. -/
def wMissG : Group := { wAddr [3] 0x00000000 with asid := 1 }

/-- Its state. -/
def wMiss : State :=
  { wState wMissG with
    cur := { core := 3, slot := 5, lanes := 8, words := [0] }
    walks := [AKind.load, .store, .atomic, .reduction].map fun k =>
      { id := 1, core := 3, world := 1, asid := 1, sup := false, vpn := 0, kind := k, by_ := wMissG.poster 3, done := some .pageMiss } }

/-- Stores to the side log, AccessFaults: one thread whose page does not translate; a misaligned address; one that leads nowhere. -/
theorem witness_AccessFaults :
    (wMiss.group? 3 5 = some wMissG ∧ (∃ t, wMissG.inMask wMiss.cur.lanes = [t] ∧ t.lane < 64 ∧ t.lane < wMissG.gw ∧ t.logRec = none ∧
        ∀ w ∈ [DW.w32, .w64], (source 0 wMissG t w 30).wait = [] ∧ (source 0 wMissG t w 30).poison = false) ∧ wMiss.slog = [] ∧
      (wMissG.threads.map (·.lane)).Nodup ∧ wMissG.nregOk [(31, 1), (0, 2)] = true ∧ wMissG.nregOk [(30, 2), (0, 2)] = true ∧
      (wMiss.faultq.filter fun x => x.core == wMissG.core && x.live).length < 2048) ∧
    (∀ k ∈ [(AKind.load, 1), (.store, 2), (.atomic, 3), (.reduction, 4)],
      wMiss.resolve (wMissG.poster 3) 4032 4 k.1 = .fault { code := .pageMiss, acc := k.2, addr := 4032, addr2 := 0 } ∧
      wMiss.resolve (wMissG.poster 3) 0xF000000000001000 8 k.1 =
        .fault { code := .aperture, acc := k.2, addr := 0xF000000000001000, addr2 := 0 }) ∧
    (4032#64).extractLsb' 56 8 = 0x00#8 ∧ (4033#64).toNat % 4 ≠ 0 := by
  refine ⟨⟨by decide +kernel, ⟨_, rfl, by decide +kernel, by decide +kernel, rfl, by decide +kernel⟩, by decide +kernel⟩,
    by and_intros <;> decide +kernel⟩

/-- A device in which page 2 of world 1 is mapped, for everything, to page 7. -/
def wMapped (g : Group) : State :=
  { wState g with
    trained := List.range 8
    tlbs := [{ core := 3, quarter := none, world := 1, asid := none, sup := false, vpn := 2, pages := 1, ppn := 7, r := true, w := true, x := true, u := true,
               ro := false, sz := 0 }] }

/-- FencesPrefetchesAndLines: nothing pending, and an entry of the side log; addresses in the team's scratchpad; a mapped one, which is
cached. -/
theorem witness_Fences :
    (Issuer (wState wSp) wSp ∧ ¬ ∃ t ∈ wSp.inMask 0xF, ∃ e ∈ (wState wSp).slog, e.core = wSp.core ∧ e.slot = wSp.slot ∧ e.lane = t.lane) ∧
    (let e : LogEnt :=
      { stk := false, core := 3, slot := 5, lane := 3, addr := 0, seq := 0, typ := 0, aop := 0, wd := false, bytes := [1], ord := 0, scp := 0, kcls := .p }
     ∃ t ∈ wSp.inMask 0xF, e.core = wSp.core ∧ e.slot = wSp.slot ∧ e.lane = t.lane) ∧
    (wSp.nregOk [(30, 2), (31, 1)] = true ∧ (wState wSp).errs = [] ∧ (wState wSp).slog = [] ∧ (wSp.threads.map (·.lane)).Nodup ∧
      (∀ t ∈ wSp.threads, t.lane < 64) ∧ (wState wSp).team? wTeam.num = some wTeam ∧
      ∀ t ∈ wSp.inMask 0xF, (vsource 0 wSp t true 0).wait = [] ∧ (vsource 0 wSp t true 0).poison = false ∧ t.st = .ready ∧
        (wState wSp).resolve (wSp.poster t.lane) ((vsource 0 wSp t true 0).val.setWidth 64) 1 .load =
          .keys (wKeys 1 t) .p false (some (wTeam.num, 4080 - 16 * t.lane))) ∧
    (wMapped wG).resolve (wG.poster 0) 0x2FFF 1 .load = .keys [mainKey 0x7FFF] .p true none ∧
    (wMapped wG).fetchAt (wG.poster 0) 0x2FFC = .keys (mainKey 0x7FFC :: [mainKey 0x7FFD, mainKey 0x7FFE, mainKey 0x7FFF]) .p true none := by
  exact ⟨⟨rfl, by decide +kernel⟩, by and_intros <;> decide +kernel⟩

/-- A group of full width, armed, with 16 KiB of scratchpad. -/
def wMat : Group := { wG with gw := 64, armed := true, spadsz := 16384 }

/-- A solo command of format 0xA with C in `v28` to `v31`, and a joint one of quarter 1. -/
def wSolo : BitVec 96 := 0xB000A01C
def wJoint : BitVec 96 := 0xB050A01C

/-- A command of the FIFO, and its team. -/
def wCmd (id : Nat) (drawn running : Bool) : MCmd :=
  { id := id, by_ := wMat.poster 0, cmd := wSolo, parts := [(1, 5, 0, 28)], drawn := drawn, running := running, done := [], dirty := [] }

/-- MatrixPosts: the last registers and the last bytes of the scratchpad; a free token and none; no assembly, and one that lacks this
quarter. -/
theorem witness_MatrixPosts :
    let s := wState wMat
    let j : Joint := { id := 4, by_ := wMat.poster 0, cmd := wJoint, parts := [(0, 4, 0, 28), (2, 6, 0, 28), (3, 7, 0, 28)] }
    (s.group? 3 5 = some wMat ∧ laneMask (wMat.live.map (·.lane)) = s.cur.lanes ∧ (∀ t ∈ wMat.inMask s.cur.lanes, s.logPending wMat t.lane = false) ∧
      (∀ f ∈ s.flights, f.core ≠ wMat.core ∨ f.slot ≠ wMat.slot)) ∧
    (∀ p ∈ [(wSolo, 0), (wJoint, 1)], let c := p.1
      wMat.gw = 64 ∧ wMat.armed = true ∧ (c.extractLsb' 12 4).toNat = 0xA ∧ c.getLsbD 8 = false ∧ c.getLsbD 10 = false ∧
      c.getLsbD 11 = false ∧ (c.extractLsb' 0 5).toNat % 4 = 0 ∧ (c.extractLsb' 0 5).toNat + 4 ≤ wMat.nreg ∧
      (c.extractLsb' 38 5).toNat % 4 = 0 ∧ (c.extractLsb' 38 5).toNat + 4 ≤ (c.extractLsb' 0 5).toNat ∧
      ∀ r ∈ cmdRegions c, r.1 + r.2 ≤ wMat.spadsz) ∧
    ((wJoint.extractLsb' 20 2).toNat = wMat.quarter ∧ (wSolo.extractLsb' 22 2 == 1#2) = false ∧ (wJoint.extractLsb' 22 2 == 1#2) = true) ∧
    ((s.mcmds.filter fun m => m.by_.core == 3 && !m.running).length < 16 ∧ s.tokq = [] ∧ s.dieOf 3 < s.pools.length ∧
      (s.pools.getD (s.dieOf 3) (0, 0)).2 + 4 ≤ (s.pools.getD (s.dieOf 3) (0, 0)).1) ∧
    ((0 : Nat) < 0 + 1 ∧ sharedFields j.cmd = sharedFields wJoint ∧ j.parts.length = 3 ∧ (∀ q ∈ j.parts, q.1 ≠ wMat.quarter) ∧
      j.by_.team = wMat.team ∧ j.cmd.extractLsb' 16 4 = wJoint.extractLsb' 16 4) ∧
    { wMat with armed := false }.armed = false := by decide +kernel

/-- MatrixCommands: the FIFO's head, drawn and not; a running command of one array and of two; a plain 8-bit integer command. -/
theorem witness_MatrixCommands :
    (∀ d ∈ [true, false], let s := { wState wMat with mcmds := [wCmd 7 d false] }
      s.mcmds.find? (fun x => x.id == 7) = some (wCmd 7 d false) ∧
      (s.mcmds.filter fun x => x.by_.core == 3 && !x.running).head? = some (wCmd 7 d false) ∧ s.cancelled 1 0 = false ∧
      (∀ x ∈ s.mcmds, x.running = false) ∧ s.cmdAbsent (wCmd 7 d false) = false ∧ s.dieOf 3 < s.pools.length ∧
      (s.pools.getD (s.dieOf 3) (0, 0)).2 + 1 ≤ (s.pools.getD (s.dieOf 3) (0, 0)).1) ∧
    ({ wState wMat with tokens := [(1, 0)] } : State).cancelled 1 0 = true ∧
    (let m := { wCmd 7 true true with parts := [(1, 5, 0, 28), (2, 6, 0, 28)] }
     1 ∈ ((m.parts.map (·.1)).filter fun q => !m.done.contains q) ∧ 1 < ((m.parts.map (·.1)).filter fun q => !m.done.contains q).length) ∧
    (let g := { wMat with owned := [{ cmd := 7, input := false, lo := 28, len := 4, freed := 0, dirty := [], stale := [], cb := 0, stage := 0 }] }
     let s := { wState g with mcmds := [wCmd 7 true true] }
     s.team? (wCmd 7 true true).by_.team = some wTeam ∧ s.group? 3 g.slot = some g ∧ (wCmd 7 true true).parts = [(g.quarter, g.slot, 0, 28)] ∧
      wSolo.extractLsb' 22 2 ≠ 1#2 ∧ wSolo.extractLsb' 12 4 = 0xA#4 ∧ wSolo.getLsbD 8 = false ∧ wSolo.getLsbD 9 = false ∧
      wSolo.getLsbD 10 = false ∧ s.errs = [] ∧ s.poisoned = [] ∧ (∀ l ∈ wTeam.lines, l.failed = false) ∧
      (∀ o ∈ g.owned, o.dirty = [] ∧ o.stale = []) ∧ (g.threads.map (·.lane)).Nodup ∧ (wThread 0x1000 wRegs 3) ∈ g.threads ∧ 3 < 4 ∧
      28 + 4 ≤ (wThread 0x1000 wRegs 3).v.length ∧ ∀ r ∈ (wThread 0x1000 wRegs 3).v, r.poison = false) := by decide +kernel

/-- An undelivered record of core 3, for the S level or for F. -/
def wRec (slot seq : Nat) (dest : Bool) : EaselSlot :=
  { core := 3, slot := slot, live := true, delivered := none, answered := false, posted := true, batch := seq, owner := (1, 0), seq := seq
    body := { a := [1, 2, 3, 4, 5, 6], berr := 0, bcnt := 0, apoi := 0, kind := 1, num := 7, world := 1, dest := dest, gslot := 5, lane := 0,
              priv := .u, cls := .p, ginst := 0 } }

/-- A fault record. -/
def wFlt (slot seq : Nat) (dest : Bool) : FaultSlot :=
  { core := 3, slot := slot, live := true, delivered := none, seq := seq, body := { faultRec wG 0 true (.plain .ill) 0x1000 0xF 0 [0] with dest := dest } }

/-- PopDelivers: no record; more records than threads; fewer; for S and for F. -/
theorem witness_PopDelivers : ∀ p ∈ [(Priv.s, false), (.f, true)], ∀ n ∈ [0, 1, 5],
    let g := wGroup p.1 []
    let s := { wState g with
      easel := (List.range n).map fun i => wRec (255 - i) i p.2, faultq := (List.range n).map fun i => wFlt (2047 - i) i p.2 }
    s.group? 3 5 = some g ∧ g.priv ≠ .u ∧
    s.easel = (s.easel.filter fun x => x.core == g.core && x.live && x.delivered.isNone &&
      (if g.priv = .f then x.body.dest else !x.body.dest && x.body.world == g.world)) ∧
    s.faultq = (s.faultq.filter fun x => x.core == g.core && x.live && x.delivered.isNone &&
      (if g.priv = .f then x.body.dest else !x.body.dest && x.body.world == g.world)) ∧
    (s.easel.map (·.seq)).Nodup ∧ (s.faultq.map (·.seq)).Nodup ∧ s.tokens = [] ∧ g.inMask s.cur.lanes ≠ [] := by decide +kernel

/-- A state whose team's scratchpad starts with the bytes of a number, at the address in `s1`. -/
def wData (g : Group) (n : Nat) (len : Nat) : State :=
  { wState (wScalar g [(1, 0xF000000000000000)]) with mem := memFill [] (spadKey 3 0) (toBytes n len) }

/-- The group of `wData`. -/
def wDataG (g : Group) : Group := wScalar g [(1, 0xF000000000000000)]

theorem readsAt_of {s : State} {g : Group} {ea : DWord} {n : Nat} {ks : List Nat} {c : Cls} {b : Bool} {l : Nat × Nat}
    (h0 : s.slog = [] ∧ s.errs = [] ∧ ∀ l ∈ s.l1, l.core ≠ g.core)
    (h1 : s.resolve (g.poster (leadOf s g).1) ea n .load = .keys ks c b (some l)) (h2 : s.presence l.1 l.2 n = .present)
    (h3 : ∀ k ∈ ks, s.isPoisoned k = false) : ReadsAt s g ea n (ks.map (s.readKeyFor (leadOf s g).1)) := by
  refine ⟨h0.1, h0.2.1, h0.2.2, ks, c, b, some l, h1, ?_, h3, rfl⟩
  intro t o e
  cases e
  exact h2

/-- The 64 bytes at `s1`. -/
theorem wData_reads (n len : Nat) : ReadsAt (wData wG n len) (wDataG wG) 0xF000000000000000 64
    (((List.range 64).map fun i => spadKey 3 i).map ((wData wG n len).readKeyFor (leadOf (wData wG n len) (wDataG wG)).1)) :=
  readsAt_of (l := (1, 0)) (c := .p) (b := false) ⟨rfl, rfl, fun _ h => nomatch h⟩ rfl rfl (by
    have h : ∀ k ∈ (List.range 64).map fun i => spadKey 3 i, isMain k = false := by decide +kernel
    intro k hk
    show State.isPoisoned _ k = false
    rw [State.isPoisoned, h k hk]
    rfl)

/-- A copy descriptor of one row of 256 bytes within the scratchpad, and a command header whose DS is zero. -/
def wCopyDesc : Nat := 0xF000000000000000 + 0xF000000000000F00 * 2 ^ 64 + 256 * 2 ^ 128
def wCopyHdr : BitVec 96 := 0xF000000000000000#64 ++ 0xB13E0000#32

/-- A network descriptor: a `put` of 8 bytes. -/
def wNetDesc : Nat := 8 * 2 ^ 32

/-- CommandPosts: a good and a bad descriptor read from scratchpad, by each form; a FIFO with room for one more command, and full. -/
theorem witness_CommandPosts :
    (Issuer (wData wG wCopyDesc 64) (wDataG wG) ∧ (wDataG wG).inMask (wData wG wCopyDesc 64).cur.lanes ≠ [] ∧
      consumeS 0 100000 (wDataG wG) (wCopyHdr.extractLsb' 16 6) = some 0 ∧ (0 + wCopyHdr.extractLsb' 32 64 : DWord) = 0xF000000000000000) ∧
    (cpDescBad wCopyHdr (BitVec.ofNat 512 wCopyDesc) = false ∧ cpDescBad wCopyHdr 0 = true ∧ cpHeaderOk wCopyHdr = true ∧
      (wData wG wCopyDesc 64).cpCheck (wDataG wG) ((wDataG wG).poster 0) wCopyHdr (BitVec.ofNat 512 wCopyDesc) = none) ∧
    (word512 (((List.range 64).map fun i => spadKey 3 i).map ((wData wG wCopyDesc 64).readKeyFor 0)) = BitVec.ofNat 512 wCopyDesc) ∧
    (let g := wScalar wG [(2, wCopyHdr.extractLsb' 0 64), (3, (wCopyHdr.extractLsb' 64 32).setWidth 64)]
     (ssource g 2).poison = false ∧ (ssource g 3).poison = false ∧ (ssource g 3).val.extractLsb' 0 32 ++ (ssource g 2).val = wCopyHdr ∧
      (ssource g 3).val.extractLsb' 32 32 = 0) ∧
    (let c : CCmd := { id := 1, by_ := wG.poster 0, hdr := wCopyHdr, desc := 0, addr := 0, flying := false, todo := [], got := [], put := [],
                       failed := none, ended := false, dirty := [] }
     ({ wU [] with ccmds := List.replicate 63 c } : State).copyFifo 3 |>.length < 64) ∧
    ((ssource (wDataG wG) 1).poison = false ∧ (ssource (wDataG wG) 1).val = 0xF000000000000000 ∧
      netBad .u (BitVec.ofNat 512 wNetDesc) 0 (some 0) = false ∧ netBad .u (BitVec.ofNat 512 wNetDesc) 0 (some 1) = true ∧
      ((wU []).port 3).length < 32 ∧ compOk .u 0 = true ∧ compOk .u 1 = false) := by
  refine ⟨⟨rfl, ?_⟩, ?_⟩ <;> decide +kernel

/-- A copy command over the last 256 bytes of the scratchpad. -/
def wCopy (flying : Bool) (todo : List Nat) : CCmd :=
  { id := 7, by_ := wG.poster 0, hdr := wCopyHdr, desc := BitVec.ofNat 512 wCopyDesc, addr := 0xF000000000000000, flying := flying,
    todo := todo, got := [], put := [], failed := none, ended := false, dirty := [] }

/-- CopyCommands: the FIFO's head; the second piece of two; a command that is done; a row that leads nowhere; a follow-on. -/
theorem witness_CopyCommands :
    (let s := { wU [] with ccmds := [wCopy false []] }
     s.ccmds.find? (fun x => x.id == 7) = some (wCopy false []) ∧ (s.ccmds.map (·.id)).Nodup ∧
      (s.ccmds.filter fun x => x.by_.core == 3 && !x.flying).head? = some (wCopy false []) ∧ s.cancelled 1 0 = false ∧
      ({ s with tokens := [(1, 0)] } : State).cancelled 1 0 = true) ∧
    (let c := wCopy true [0, 1]
     let s := { wU [] with ccmds := [c] }
     1 ∈ c.todo ∧ s.rowsBefore c 1 = true ∧
      s.piece c 1 = (s, .ready ((List.range 128).map fun i => spadKey 3 (128 + i)) [(1, 1)]
        ((List.range 128).map fun i => spadKey 3 (3968 + i)) [(1, 31)]) ∧ ((List.range 128).map fun i => spadKey 3 (3968 + i)).Nodup ∧
      (∀ x ∈ (List.range 128).map fun i => spadKey 3 (128 + i), s.keyFailed x = false) ∧
      (∀ x ∈ (List.range 128).map fun i => spadKey 3 (3968 + i), isFlash x = false ∧ isMain x = false) ∧ s.idxKeys c (1 / pieceBase) = [] ∧
      s.errs = [] ∧ s.snaps = [] ∧ s.poisoned = [] ∧ Memory.wf s.mem = true) ∧
    ((wCopy true []).todo = [] ∧ (wU []).team? 1 = some wTeam) ∧
    (let c := { wCopy true [0] with desc := BitVec.ofNat 512 (wCopyDesc + 256 * 2 ^ 64) }
     0 ∈ c.todo ∧ (∀ x ∈ c.todo, 0 / 2 ^ 18 ≤ x / 2 ^ 18) ∧ ({ wU [] with ccmds := [c] } : State).piece c 0 =
      ({ wU [] with ccmds := [c] }, .bad 5 0xF000000000001000)) ∧
    (let c := { wCopy true [] with ended := true, hdr := wCopyHdr + 0x400000 }
     c.ended = true ∧ cpKind c.hdr = 1 ∧ (wU []).group? 3 5 ≠ none ∧ (wU []).tokq = [] ∧
      ((wU []).mcmds.filter fun m => m.by_.core == 3 && !m.running).length < 16) := by decide +kernel

/-- A device with one group of world 1, no teams, a vault segment of that world, the world's domain in a
state, and a port of each die up. -/
def wNet (st : DWord) : State :=
  { wDev (wU []) [(domOff 1, st), (vatOff 0 0, 0x80000801)] with teams := [], down := [1, 2, 3, 4, 5, 6] }

/-- A network command of 8 bytes at the segment's start, or elsewhere, and a completion specifier. -/
def wN (op : Nat) (local_ : Nat) (comp : DWord) (taken : Bool) (acked : Option (Nat × Nat)) : NCmd :=
  { id := 7, by_ := wG.poster 0, desc := BitVec.ofNat 512 (op + 8 * 2 ^ 32 + local_ * 2 ^ 64 + (2 ^ 32 - 1) * 2 ^ 192), addr := 0x40,
    comp := comp, taken := taken, todo := if op = 1 ∨ op = 3 then [(0, 8)] else [], acked := acked, waitsRing := false }

/-- A packet of 8 bytes, for the segment's start, the first of an ROD flow. -/
def wPkt (op : Nat) (remote : DWord) : NetPacket :=
  { world := 1, epoch := 0, tagOk := true, port := 7, op := op, mode := 1, seq := 9, id := 7, flow := 3, rod := 0, peer := 3, remote := remote, off := 0, len := 8, tag := 0,
    rcomp := 0, rop := 0, kcls := 0, lvl := 0, status := 0, data := [1, 2, 3, 4, 5, 6, 7, 8] }

/-- The segment's start, a ring's header there, and an address that leads nowhere. -/
def wVault : DWord := 0xF200000000000000
def wNowhere : DWord := 0xF100000000000000

/-- NetworkEngine, commands: every operation, in every state of its domain; a local buffer that leads nowhere, a poisoned one, a write
without acknowledgement; a length that fits a packet of whatever size; the last retry and one more, of a command's packet. -/
theorem witness_NetworkEngine_commands :
    (∀ op ∈ [0, 1, 2, 3, 4, 5], ∀ st ∈ [0, 1], let s := { wNet (BitVec.ofNat 64 st) with ncmds := [wN op wVault.toNat 0 false none] }
      s.ncmd? 7 = some (wN op wVault.toNat 0 false none) ∧ (s.ncmds.map (·.id)).Nodup ∧ s.errs = [] ∧ s.teams = [] ∧
      (s.port (wN op wVault.toNat 0 false none).by_.core).head? = some (wN op wVault.toNat 0 false none) ∧
      s.fenced (wN op wVault.toNat 0 false none).by_.core = false ∧
      s.cancelled (wN op wVault.toNat 0 false none).by_.world.toNat (wN op wVault.toNat 0 false none).by_.ginst.toNat = false ∧
      s.domState (wN op wVault.toNat 0 false none).by_.world.toNat = st ∧ netOp (wN op wVault.toNat 0 false none).desc = op) ∧
    (wN 0 wNowhere.toNat 0 false none).by_.world = 1 ∧
    (∃ i, (wNet 1).span (wG.poster 0) (netLocal (wN 0 wNowhere.toNat 0 false none).desc) 8 .load = .fault i) ∧
    (wNet 1).span (wG.poster 0) (netLocal (wN 0 wVault.toNat 0 false none).desc) (netLen (wN 0 wVault.toNat 0 false none).desc) .load =
      .keys ((List.range 8).map vaultKey) [] ∧
    (((List.range 8).map vaultKey).any ({ wNet 1 with poisoned := [vaultKey 0 / 64] } : State).isPoisoned = true) ∧
    (((List.range 8).map vaultKey).any (wNet 1).isPoisoned = false) ∧
    netMode (wN 0x30000 wVault.toNat 0 false none).desc = 3 ∧ netOp (wN 0x30000 wVault.toNat 0 false none).desc = 0 ∧
    netMode (wN 0 wVault.toNat 0 false none).desc ≠ 3 ∧
    ({ wNet 1 with tokens := [(1, 0)] } : State).cancelled 1 0 = true ∧
    ((wNet 1).upPorts 0 ≠ [] ∧ Memory.wf (wNet 1).mem = true ∧ 0 < netLen (wN 0 wVault.toNat 0 false none).desc) ∧
    (∀ r ∈ [(15, true), (16, false)], let x : Sent := { id := 9, die := 0, cmd := some 7, pkt := wPkt 0 wVault, retries := r.1 }
      let s := { wNet 1 with sentq := [x], ncmds := [wN 0 wVault.toNat 0 true none] }
      (s.sentq.find? fun y => y.id == x.id) = some x ∧ s.domState x.pkt.world ≠ 0 ∧
        (decide (r.1 < bits (s.devGet (domOff 1 + 8)) 47 40)) = r.2 ∧
        (s.ncmds.find? fun c => some c.id == x.cmd && c.acked.isNone) = some (wN 0 wVault.toNat 0 true none)) ∧
    netLen (wN 0 wVault.toNat 0 false none).desc ≤ (wNet 1).payload := by
  refine ⟨by decide +kernel, by decide +kernel, ⟨{ code := .aperture, acc := 1, addr := wNowhere, addr2 := 0 }, by decide +kernel⟩, ?_⟩
  have h : netLen (wN 0 wVault.toNat 0 false none).desc = 8 := by decide +kernel
  and_intros
  on_goal 12 => rw [h]; exact Nat.le_add_right 8 _
  all_goals decide +kernel

/-- A device whose world 1 owns page 200 of frame 200, mapped at the start of window 0x00 for core 3, with a ring's header there: of one
entry, at 64 on. -/
def wRing (widx ridx : Nat) : State :=
  { wDev (wU []) [(dev3, 0x8000000000000000), (worldOff 1, 1), (domOff 1, 1)] with
    teams := [], trained := [0], pot := [(potIdx 204800, 0x2001)]
    tlbs := [{ core := 3, quarter := none, world := 1, asid := none, sup := false, vpn := 0, pages := 1, ppn := 204800, r := true, w := true, x := true,
               u := true, ro := false, sz := 0 }]
    mem := memFill [] (mainKey (204800 * 4096 + 128)) (toBytes (192 + 2 ^ 64 + widx * 2 ^ 96 + ridx * 2 ^ 128) 64) }

/-- The keys of that page from a byte on. -/
def wPage (o n : Nat) : List Nat := (List.range n).map fun i => mainKey (204800 * 4096 + (o + i))

/-- A completion for it. -/
def wWait : RingWait := { id := 4, by_ := wG.poster 0, ring := 128, op := 0, status := 0, tag := 9, len := 8, cmd := some 7, counted := false }

theorem ringRoom_of {v : State} {x : RingWait} {hk ek wk : List Nat}
    (h : v.errs = [] ∧ v.snaps = [] ∧ v.poisoned = [] ∧ v.teams = [] ∧ Memory.wf v.mem = true ∧ v.span x.by_ x.ring 64 .load = .keys hk [] ∧
      (ringHead v x hk).1.toNat % 16 = 0 ∧ (ringHead v x hk).2.1 = 1 ∧
      (ringHead v x hk).2.2.1 ≠ ((ringHead v x hk).2.2.2 + (ringHead v x hk).2.1) % 2 ^ 32 ∧
      (v.walksFor x.by_ x.ring 64 .load).span x.by_
        ((ringHead v x hk).1 + BitVec.ofNat 64 (16 * ((ringHead v x hk).2.2.1 % (ringHead v x hk).2.1))) 16 .store = .keys ek [] ∧
      v.span x.by_ (x.ring + 12#64) 4 .store = .keys wk [] ∧
      (ek ++ wk).Nodup ∧ ek.length = 16 ∧ wk.length = 4 ∧
      ∀ k ∈ ek ++ wk, isFlash k = false ∧ v.potPage (pageOf k) = false ∧ potState (v.potGet (pageOf k)) ≠ 3 ∧
        v.kstate (potWorld (v.potGet (pageOf k))) = 1) : RingRoom v x hk ek wk := by
  obtain ⟨a, b, c, d, w, e, f, g, i, j, k, m, n, o, p⟩ := h
  exact ⟨⟨a, b, c, d, w⟩, ⟨⟨_, e⟩, f, 0, by decide, g⟩, i, ⟨_, j⟩, ⟨_, k⟩, ⟨m, n, o, fun y hy =>
    ⟨(p y hy).1, fun _ => ⟨(p y hy).2.1, (p y hy).2.2.1, .inr (p y hy).2.2.2⟩⟩⟩⟩

/-- NetworkEngine, rings: one that has never been written, and one whose indices are about to wrap; for a completion that waits there
and for one that comes. -/
theorem witness_NetworkEngine_rings (n : Nat) (hn : n ∈ [0, 2 ^ 32 - 1]) (x : RingWait)
    (hx : x ∈ [wWait, { id := 9, by_ := wG.poster 0, ring := compRing 0x8000000000000080, op := 5, status := 0, tag := 0, len := 0, cmd := some 7, counted := false }]) :
    RingRoom { wRing n n with fresh := 10 } x (wPage 128 64) (wPage 192 16) (wPage 140 4) := by
  refine ringRoom_of ?_
  revert n x
  decide +kernel

/-- NetworkEngine, completions: success and failure, by a record, at barrier 15, and in a ring that has never been written and one whose
indices are about to wrap. -/
theorem witness_NetworkEngine_completions :
    (∀ st ∈ [0, 1, 3], ({ wNet 1 with ncmds := [wN 0 0 0 true (some (st, 8))] } : State).localDone (wN 0 0 0 true (some (st, 8))) =
      some (st, 8)) ∧
    ((wU []).localDone (wN 5 0 0 true none) = some (0, 0)) ∧
    (bits (0 : DWord) 63 62 = 0 ∧ bits (0x7C00000000000000 : DWord) 63 62 = 1 ∧ bits (0x7C00000000000000 : DWord) 61 58 = 15 ∧
      bits (0x8000000000000080 : DWord) 63 62 = 2) ∧
    ((wU []).team? (wN 0 0 0 true none).by_.team = some wTeam ∧ wTeam.cbs[15]? = some { exp := 1, cnt := 0, ph := false, scp := 0, since := none }) ∧
    (let s := { wNet 1 with ringq := [wWait] }
     (s.ringq.find? fun y => y.id == wWait.id) = some wWait ∧ s.ringq.find? wWait.same = some wWait ∧ s.errs = []) := by decide +kernel

/-- NetworkEngine, packets: a domain that is off, a bad tag, another epoch; each operation within the segment, a reduction of doublewords
among them; an address that leads nowhere; a message with and without a `recv`; acknowledgements and the last data of a `get`. -/
theorem witness_NetworkEngine_packets :
    let s := wNet 1
    let ks := (List.range 8).map vaultKey
    (s.errs = [] ∧ s.snaps = [] ∧ s.poisoned = [] ∧ s.teams = []) ∧
    ((wNet 0).domState 1 = 0 ∧ s.domState 1 ≠ 0 ∧ bits (s.devGet (domOff 1 + 8)) 39 32 = 0) ∧
    (Memory.wf s.mem = true ∧ s.rx = [] ∧ s.inmsgs = [] ∧ s.sends = [] ∧ (wPkt 0 0).rod = (flowOf s.rodIn (wPkt 0 0)).next ∧
      s.upPorts ((wPkt 0 0).port / 4 % 2) ≠ [] ∧ s.rodTurn (wN 3 wVault.toNat 0 true none) = true ∧ (wPkt 0 0).off = 0 ∧
      (wPkt 0 0).data.length = (wPkt 0 0).len ∧ (wPkt 0 0).data.length ≤ 4096) ∧
    (∀ op ∈ [0, 1, 4], (s.peerSpan (wPkt op wVault) 0 8 (if op = 0 then .store else if op = 1 then .load else .reduction)).2 = .keys ks [] ∧
      ∃ i ∈ [FaultInfo.mk .aperture (if op = 0 then 2 else if op = 1 then 1 else 4) wNowhere 0],
        (s.peerSpan (wPkt op wNowhere) 0 8 (if op = 0 then .store else if op = 1 then .load else .reduction)).2 = .fault i) ∧
    (ks.Nodup ∧ ks.length = (wPkt 0 wVault).data.length ∧ ∀ k ∈ ks, isFlash k = false ∧ isMain k = false) ∧
    (∀ r ∈ [0, 1, 10, 12], wVault.toNat % ropBytes r = 0 ∧ 8 % ropBytes r = 0) ∧ bits (wPkt 0 wVault).rcomp 63 62 ≠ 2 ∧
    (∀ c ∈ s.ncmds, c.taken = true → c.acked = none → c.matches (wPkt 2 0) = false) ∧
    (let u := { s with ncmds := [wN 3 wVault.toNat 0 true none] }
     (u.ncmds.find? fun c => c.taken && c.acked.isNone && c.matches (wPkt 2 0)) = some (wN 3 wVault.toNat 0 true none) ∧
      (wN 3 wVault.toNat 0 true none).todo = [(0, netLen (wN 3 wVault.toNat 0 true none).desc)] ∧
      u.span (wG.poster 0) (netLocal (wN 3 wVault.toNat 0 true none).desc) 8 .store = .keys ks []) ∧
    (∀ op ∈ [0, 1, 2, 4], let c := wN op wVault.toNat 0 true none
      c.id = (wPkt 8 0).id ∧ c.by_.world.toNat = (wPkt 8 0).world ∧ netOp c.desc = op) ∧
    (let x : Sent := { id := 9, die := 0, cmd := some 7, pkt := wPkt 0 wVault, retries := 0 }
     let u := { s with sentq := [x], ncmds := [wN 0 wVault.toNat 0 true none] }
     (u.sentq.find? fun y => y.id == (wPkt 8 0).seq && y.pkt.world == (wPkt 8 0).world && y.pkt.peer == (wPkt 8 0).peer) = some x ∧
      (u.ncmds.find? fun c => some c.id == x.cmd && c.acked.isNone) = some (wN 0 wVault.toNat 0 true none)) ∧
    ({ wPkt 9 0 with peer := 2 ^ 32 - 1 } : NetPacket).peer = (wN 1 0 0 true none).peer ∧
    s.span (wG.poster 0) (netLocal (wN 1 wVault.toNat 0 true none).desc + BitVec.ofNat 64 0) 8 .store = .keys ks [] := by decide +kernel

/-- NetworkEngine, domains: one that drains with nothing unacknowledged, and of the commands taken only one that waits for its ring. -/
theorem witness_NetworkEngine_domains :
    (wNet 2).domState 1 = 2 ∧ (∀ x ∈ (wNet 2).sentq, x.pkt.world ≠ 1) ∧
    (∀ c ∈ [{ wN 0 0 0 true (some (0, 8)) with waitsRing := true }, wN 0 0 0 false none],
      c.by_.world.toNat = 1 → c.taken = true → c.waitsRing = true) ∧
    ((wNet 2).dev.map (·.1)).Pairwise (· < ·) ∧ 63 < 64 := by decide +kernel

/-- What the engine does, by hand from R289, R291, R340 and R342: the entry of a completion that is command 7's, 8 bytes, TAG 9. -/
theorem test_completionRingSpace : nextAnd (execCompletionRingSpace 4
    { wRing (2 ^ 32 - 1) (2 ^ 32 - 1) with ringq := [wWait], ncmds := [wN 0 0 0 true (some (0, 8))] }) (fun u =>
      decide (u.ringq = [] ∧ u.ncmds = [] ∧ leNat ((wPage 192 16).map u.readKey) = 8 + 9 * 2 ^ 64 ∧ leNat ((wPage 140 4).map u.readKey) = 0)) =
    true := by decide +kernel

theorem test_netLocalCompletion : nextAnd (execNetLocalCompletion 7 { wU [] with ncmds := [wN 1 0 0x4000000000000000 true (some (0, 8))] })
    (fun u => decide (u.ncmds = [] ∧ (u.team? 1).any (fun t => (t.cbs[0]?).any fun b => b.ph && b.cnt == 0 && b.scp == 8))) = true := by
  decide +kernel

theorem test_netLocalCompletion_failed : nextAnd (execNetLocalCompletion 7
    { wRoom (wU []) with ncmds := [wN 1 0 0 true (some (3, 0))] }) (fun u => decide (u.ncmds = [] ∧ u.pending = [] ∧
      (u.easel.map fun e => (e.core, e.body.kind, e.body.num, e.body.a)) = [(3, 11, 3, [0x40])])) = true := by decide +kernel

theorem test_domainDrained : nextAnd (execDomainDrained 1 (wNet 2)) (fun u => u.domState 1 == 3) = true := by decide +kernel

theorem test_domainStateWrite : nextAnd (execDomainStateWrite 63 2 (wNet 1)) (fun u => u.domState 63 == 2 && u.domState 1 == 1) = true := by
  decide +kernel

theorem test_portLinkChange : nextAnd (execPortLinkChange 3 true (wNet 1)) (fun u => !u.down.contains 3 && u.down.contains 4) = true := by
  decide +kernel

theorem test_netCommandStart_closed : nextAnd (execNetCommandStart 7 { wNet 0 with ncmds := [wN 0 wVault.toNat 0 false none] })
    (fun u => decide (u.ncmds.map (·.acked) = [some (6, 0)])) = true := by decide +kernel

theorem test_netCommandStart_get : nextAnd (execNetCommandStart 7 { wNet 1 with ncmds := [wN 1 wVault.toNat 0 false none] })
    (fun u => decide (u.ncmds.map (fun c => (c.taken, c.acked)) = [(true, none)] ∧
      u.sentq.map (fun x => (x.cmd, x.retries, x.pkt.op, x.pkt.len, x.pkt.data)) = [(some 7, 0, 1, 8, [])])) = true := by decide +kernel

/-- A packet of command 7 that has been sent 16 times more. -/
def wSent : Sent := { id := 9, die := 0, cmd := some 7, pkt := wPkt 0 wVault, retries := 16 }

theorem test_packetRetransmit : nextAnd (execPacketRetransmit 9 { wNet 1 with ncmds := [wN 0 wVault.toNat 0 true none], sentq := [wSent] })
    (fun u => decide (u.sentq = [] ∧ u.ncmds.map (fun c => c.acked.map (·.1)) = [some 6])) = true := by decide +kernel

theorem test_netPacketReceive_ack : nextAnd (execNetPacketReceive { wPkt 8 0 with status := 2 }
    { wNet 1 with ncmds := [wN 0 wVault.toNat 0 true none], sentq := [wSent] }) (fun u => decide (u.sentq = [] ∧
      u.ncmds.map (fun c => c.acked.map (·.1)) = [some 2])) = true := by
  decide +kernel

theorem test_netPacketReceive_dropped : nextAnd (execNetPacketReceive { wPkt 0 wVault with tagOk := false } (wNet 1))
    (fun u => decide (u.mem = [])) = true := by decide +kernel

/-- A group of world 1's S level whose `s1` names the start of its scratchpad. -/
def wSup : Group := wScalar (wGroup .s []) [(1, 0xF000000000000000)]

/-- A device that takes launches on queue 63 of world 1, whose ASIDs are of world `w`, with bytes at the scratchpad's start. -/
def wLaunch (w : Nat) (n len : Nat) : State :=
  { wDev (wState wSup) [(dev3, 0xC0012C0000000000), (dev3 + 0x1F8, 0x8001000000000000), (worldOff 0, 1)] with
    mem := memFill (memSet [] (mainKey 0) (BitVec.ofNat 8 w)) (spadKey 3 0) (toBytes n len) }

/-- A record of one team whose descriptor lies at an offset of the scratchpad, its header 64 bytes further. -/
def wRecord (o : Nat) : Nat :=
  0xF000000000000000 + o + (0xF000000000000000 + o + 128) * 2 ^ 64 + 2 ^ 209 + 2 ^ 256

/-- A descriptor: one group of width 64 with 32 registers. -/
def wKd : Nat := (64 + 32 * 2 ^ 8 + 2 ^ 32 + 2 ^ 38 + 2 ^ 44) * 2 ^ 64

/-- `n` records, then their descriptor and their header. -/
def wRecords (n : Nat) : State :=
  wLaunch 1 ((List.range n).foldl (fun m k => m + wRecord (128 * n) * 2 ^ (1024 * k)) (wKd * 2 ^ (1024 * n))) (128 * n + 128)

/-- Keys of the scratchpad from an offset on. -/
def wSpad (o n : Nat) : List Nat := (List.range n).map fun i => spadKey 3 (o + i)

/-- What the lowest thread reads of its scratchpad. -/
theorem readsAt_spad {s : State} {g : Group} {ea : DWord} {n : Nat} {ks : List Nat} {l : Nat × Nat}
    (h : s.slog = [] ∧ s.errs = [] ∧ s.l1 = [] ∧ s.poisoned = [] ∧
      s.resolve (g.poster (leadOf s g).1) ea n .load = .keys ks .p false (some l) ∧ s.presence l.1 l.2 n = .present) :
    ReadsAt s g ea n (ks.map (s.readKeyFor (leadOf s g).1)) := by
  obtain ⟨a, b, c, d, e, f⟩ := h
  have clean : ∀ k, s.isPoisoned k = false := fun k => by
    unfold State.isPoisoned
    rw [d]
    repeat' split
    all_goals rfl
  exact readsAt_of ⟨a, b, fun _ m => by rw [c] at m; cases m⟩ e f fun k _ => clean k

theorem wRecords_hold : ∀ p ∈ [(1, 0, false), (2, 0, true), (2, 1, true)],
    let m := p.1
    let k := p.2.1
    ((wRecords m).slog = [] ∧ (wRecords m).errs = [] ∧ (wRecords m).l1 = [] ∧ (wRecords m).poisoned = [] ∧
      (wRecords m).resolve (wSup.poster (leadOf (wRecords m) wSup).1) (0xF000000000000000 + BitVec.ofNat 64 (128 * k)) 128 .load =
        .keys (wSpad (128 * k) 128) .p false (some (1, 128 * k)) ∧ (wRecords m).presence 1 (128 * k) 128 = .present) ∧
    (let r := word1024 ((wSpad (128 * k) 128).map ((wRecords m).readKeyFor (leadOf (wRecords m) wSup).1))
     r = BitVec.ofNat 1024 (wRecord (128 * m)) ∧ (wRecords m).recordStatus wSup r 63 false p.2.2 = none ∧ lrVar r = false ∧
      lrKdesc r = 0xF000000000000000 + BitVec.ofNat 64 (128 * m) ∧ lrArgp r - 64#64 = 0xF000000000000000 + BitVec.ofNat 64 (128 * m + 64) ∧
      launchVerdict (wRecords m) wSup 63 p.2.2 (r, [BitVec.ofNat 512 wKd], 0) = none) := by decide +kernel

theorem wRecords_more : ∀ m ∈ [1, 2], ∀ o ∈ [(128 * m, BitVec.ofNat 512 wKd), (128 * m + 64, 0)],
    ((wRecords m).slog = [] ∧ (wRecords m).errs = [] ∧ (wRecords m).l1 = [] ∧ (wRecords m).poisoned = [] ∧
      (wRecords m).resolve (wSup.poster (leadOf (wRecords m) wSup).1) (0xF000000000000000 + BitVec.ofNat 64 o.1) 64 .load =
        .keys (wSpad o.1 64) .p false (some (1, o.1)) ∧ (wRecords m).presence 1 o.1 64 = .present) ∧
    word512 ((wSpad o.1 64).map ((wRecords m).readKeyFor (leadOf (wRecords m) wSup).1)) = o.2 := by decide +kernel

/-- The records read as records that R325 accepts. -/
theorem wRecords_read (p : Nat × Nat × Bool) (hp : p ∈ [(1, 0, false), (2, 0, true), (2, 1, true)]) :
    LaunchReads (wRecords p.1) wSup 63 p.2.2 (0xF000000000000000 + BitVec.ofNat 64 (128 * p.2.1)) (BitVec.ofNat 1024 (wRecord (128 * p.1)))
      [BitVec.ofNat 512 wKd] 0 := by
  have hm : p.1 ∈ [1, 2] := by revert p; decide
  have ha : ∀ p ∈ [(1, 0, false), (2, 0, true), (2, 1, true)],
      (0xF000000000000000 + BitVec.ofNat 64 (128 * p.2.1) : DWord).toNat % 128 = 0 := by decide +kernel
  obtain ⟨h, he, _, hv, hk, hh, _⟩ := wRecords_hold p hp
  have h1 := wRecords_more p.1 hm _ (.head _)
  have h2 := wRecords_more p.1 hm _ (.tail _ (.head _))
  simp only at h he hv hk hh h1 h2
  rw [he] at hv hk hh
  refine ⟨⟨ha p hp, _, readsAt_spad h, he.symm⟩, fun _ _ => ⟨_, hk ▸ readsAt_spad h1.1, by rw [h1.2]⟩, fun _ c => ?_,
    fun _ _ _ => ⟨_, hh ▸ readsAt_spad h2.1, h2.2.symm⟩⟩
  rw [hv] at c
  cases c

/-- A variant set of two descriptors, of capacities 100 and 2^32 − 1. -/
def wSet : Nat := 2 * 2 ^ 128 + 100 * 2 ^ 256 + (2 ^ 32 - 1) * 2 ^ 288 + 0x1000 * 2 ^ 512 + 0x2000 * 2 ^ 576

/-- A launch that holds a pipe 7, of which this group is the producer, and the pipe. -/
def wPipeL (put get : Bool) : Launch :=
  { newLaunch 0 0 1 (some (0, 2)) (BitVec.ofNat 1024 ((if put then (2 ^ 63 + 7 * 2 ^ 59 + 6 * 2 ^ 48) * 2 ^ 768 else 0) +
      (if get then (2 ^ 63 + 2 ^ 62 + 7 * 2 ^ 59 + 6 * 2 ^ 48) * 2 ^ 832 else 0))) 0 0 with started := some 0, placed := [0] }
/-- An element that this world's instance 0 has put. -/
def wElem (w : Word) : PipeElem := { val := w, world := 1, ginst := 0 }
def wPipe (elems : List PipeElem) (closed getGone : Bool) : Pipe :=
  { lq := 0, first := 0, idx := 7, site := 0, seg := 0, cap := 6, elems := elems, popped := 0, spoilt := false, closed := closed, putGone := false,
    getGone := getGone }
def wPiped (elems : List PipeElem) (closed getGone : Bool) : State :=
  { wState (wScalar wG [(1, 7)]) with launches := [wPipeL true true], pipes := [wPipe elems closed getGone] }

/-- LaunchInstructions: the last queue, with room for one record, and for none; two records that are accepted; queues and counts out of
range; a good and a bad variant set, sizes at and beyond a capacity; the registration of a group, as the world's fourth service and
fifth; instances with and without a token. -/
theorem witness_LaunchInstructions :
    (Issuer (wRecords 1) wSup ∧ wSup.priv ≠ .u ∧ wSup.inMask (wRecords 1).cur.lanes ≠ [] ∧ (wRecords 1).rdy = true ∧ (wRecords 1).slog = [] ∧
      consumeS 0 100000 wSup 1 = some 0xF000000000000000) ∧
    (let l := newLaunch 63 0 1 none 0 0 0
     ({ wRecords 1 with launches := List.replicate 15 l } : State).lqCount 63 < 16 ∧
      16 ≤ ({ wRecords 1 with launches := List.replicate 16 l } : State).lqCount 63 ∧
      16 < ({ wRecords 1 with launches := List.replicate 15 l } : State).lqCount 63 + 2) ∧
    (gangOk [BitVec.ofNat 1024 (wRecord 256), BitVec.ofNat 1024 (wRecord 256)] = true ∧
      gangOk [BitVec.ofNat 1024 (wRecord 256), BitVec.ofNat 1024 (wRecord 256 + 2 ^ 289)] = false ∧
      launchVerdict (wLaunch 2 0 0) wSup 63 false (BitVec.ofNat 1024 (wRecord 128), [BitVec.ofNat 512 wKd], 0) = some 2) ∧
    (64 ≤ (64 : DWord).toNat ∧ bits (0x3F0100 : DWord) 15 8 ≠ 0 ∧ bits (0x3F0001 : DWord) 7 0 < 2 ∧ 8 < bits (0x3F0009 : DWord) 7 0) ∧
    ((List.range 128).map fun i => spadKey 3 i) = wSpad 0 128 ∧
    (let s := wLaunch 1 wSet 128
     (s.slog = [] ∧ s.errs = [] ∧ s.l1 = [] ∧ s.poisoned = [] ∧
      s.resolve (wSup.poster (leadOf s wSup).1) 0xF000000000000000 128 .load = .keys (wSpad 0 128) .p false (some (1, 0)) ∧
      s.presence 1 0 128 = .present) ∧ word1024 ((wSpad 0 128).map (s.readKeyFor (leadOf s wSup).1)) = BitVec.ofNat 1024 wSet) ∧
    (vsBad (BitVec.ofNat 1024 wSet) = false ∧ vsBad 0 = true ∧ vsN (BitVec.ofNat 1024 wSet) = 2 ∧ vsCap (BitVec.ofNat 1024 wSet) 0 = 100 ∧
      vsCap (BitVec.ofNat 1024 wSet) 1 = 2 ^ 32 - 1) ∧
    (∀ n ∈ [3, 4], let s := { wState wSup with groups := wSup :: (List.range n).map fun i => { wSup with slot := 6 + i, service := some 0 } }
      (s.groups.filter fun h => h.core == wSup.core && h.world.toNat == wSup.world.toNat && h.service.isSome && h.slot != wSup.slot).length = n) ∧
    (∀ pr ∈ [Priv.s, .f], (if pr = .f then bits (0x3FFFFF : DWord) 63 22 else bits (0xFFFF : DWord) 63 16) = 0 ∧
      (if pr = .f then bits (0x400000 : DWord) 63 22 else bits (0x10000 : DWord) 63 16) ≠ 0) ∧
    ((wRecords 1).cancelled 1 0 = false ∧ ({ wRecords 1 with tokens := [(1, 0)] } : State).cancelled 1 0 = true ∧
      (let t := (List.range 16).map fun i => (1, i)
       16 ≤ ({ wRecords 1 with tokens := t } : State).tokens.length ∧ ({ wRecords 1 with tokens := t } : State).cancelled 1 16 = false) ∧
      ∃ h ∈ (wRecords 1).groups, h.core = 3 ∧ h.world.toNat = 1 ∧ h.ginst.toNat = 0 ∧ h.live.isEmpty = false) := by
  refine ⟨⟨rfl, ?_⟩, ?_⟩ <;> decide +kernel

/-- Pipes: one full, one with room for the cohort, one closed, one whose consumer has gone; no pipe of the number. -/
theorem witness_Pipes :
    (∀ p ∈ [(0, false, false), (2, false, false), (3, false, false), (6, true, false), (0, false, true)],
      let s := wPiped (List.replicate p.1 (wElem 7)) p.2.1 p.2.2
      let g := wScalar wG [(1, 7)]
      s.pipeFor g 7 false = some (wPipe (List.replicate p.1 (wElem 7)) p.2.1 p.2.2) ∧
      s.pipeFor g 7 true = some (wPipe (List.replicate p.1 (wElem 7)) p.2.1 p.2.2) ∧ s.pipeFor g 6 false = none ∧ s.pipeFor g 8 true = none ∧
      s.group? 3 5 = some g ∧ consumeS 0 100000 g 1 = some 7 ∧ g.nregOk [(31, 1)] = true ∧ g.nregOk [(30, 2)] = true ∧
      (g.threads.map (·.lane)).Nodup ∧ g.inMask s.cur.lanes ≠ [] ∧ (g.inMask s.cur.lanes).length = 4 ∧
      ∀ t ∈ g.inMask s.cur.lanes, s.logPending g t.lane = false ∧ (vsource 0 g t false 31).wait = [] ∧ (vsource 0 g t false 31).poison = false) ∧
    ((wPipe [] false false).cap = 6 ∧ Memory.wf (wPiped [] false false).mem = true ∧ (wPiped [] false false).cancelled 1 0 = false) := by decide +kernel

/-- R325: accepted with the queue's next number, 0; of a world that the queue does not serve: 2^63 + 2. -/
theorem test_launch : groupAnd (execLaunch 3 1 2 { wRecords 1 with groups := [wScalar wSup [(2, 63)]] })
    (fun g => ((g.s[3]?).any fun x => x.val == 0)) = true ∧
    nextAnd (execLaunch 3 1 2 { wRecords 1 with groups := [wScalar wSup [(2, 63)]] })
      (fun u => decide (u.launches.map (fun l => (l.lq, l.lseq, l.gang)) = [(63, 0, none)] ∧ u.lqNumber 63 = 1)) = true := by decide +kernel
theorem test_launch_world : groupAnd (execLaunch 3 1 2 { wRecords 1 with groups := [wScalar wSup [(2, 62)]] })
    (fun g => ((g.s[3]?).any fun x => x.val == 0x8000000000000002)) = true := by decide +kernel

/-- R326: two members with consecutive numbers. -/
theorem test_gang : nextAnd (execGang 3 1 2 { wRecords 2 with groups := [wScalar wSup [(2, 0x3F0002)]], lqNext := [(63, 2 ^ 32 - 1)] })
    (fun u => decide (u.launches.map (fun l => (l.lq, l.lseq, l.gang)) = [(63, 2 ^ 32 - 1, some (2 ^ 32 - 1, 2)), (63, 0, some (2 ^ 32 - 1, 2))])) =
    true := by decide +kernel

/-- R382: the least capacity that holds 100, then 101. -/
theorem test_vsel : ∀ p ∈ [((100 : DWord), 0x1000), (101, 0x2000), (2 ^ 32, 0)],
    groupAnd (execVsel 3 1 2 { wLaunch 1 wSet 128 with groups := [wScalar wSup [(2, p.1)]] })
      (fun g => ((g.s[3]?).any fun x => x.val.toNat == p.2)) = true := by decide +kernel

/-- R332: the group freezes and its core is told. -/
theorem test_cancel : nextAnd (execCancel 31 (wRoom (wState wSup))) (fun u => u.cancelled 1 0 && (u.groups.all (·.fzC)) &&
    (u.easel.map fun e => (e.core, e.body.kind, e.body.a)) == [(3, 9, [0, 1])]) = true := by decide +kernel

/-- R334. -/
theorem test_svcReg : groupAnd (execSvcReg 1 2 (wState (wScalar (wGroup .s []) [(1, 1), (2, 7)]))) (fun g => g.service == some 7) = true := by
  decide +kernel

/-- R331: four elements fit exactly; the oldest elements go to the lanes in order, and 2^32 after a closed pipe's last. -/
theorem test_pipePut : nextAnd (execPipePut 1 31 (wPiped [wElem 7, wElem 8] false false))
    (fun u => u.pipes.map (fun p => p.elems.length) == [6]) = true := by decide +kernel
theorem test_pipeGet : groupAnd (execPipeGet 30 1 (wPiped [wElem 7, wElem 8] true false))
    (fun g => g.threads.map (fun t => (regAt t 30, regAt t 31)) == [(7, 0), (8, 0), (0, 1), (0, 1)]) = true := by decide +kernel
theorem test_pipeClose : nextAnd (execPipeClose 1 (wPiped [] false false)) (fun u => u.pipes.all (·.closed)) = true := by decide +kernel

/-- A launch of `n` teams with a vector of (0, 0, −1) or none, accepted and perhaps started, with teams in their places. -/
def wL (ndep teams : Nat) (started : Option Nat) (queued : List (Nat × Nat)) (placed retired : List Nat) : Launch :=
  { newLaunch 0 0 1 none (BitVec.ofNat 1024 ((teams - 1) * (if ndep = 0 then 2 ^ 128 else 2 ^ 168) + ndep * 2 ^ 212 + 2 ^ 209 + 2 ^ 256 +
      (if ndep = 0 then 0 else 0x1F * 2 ^ 394) + 0xF200000000000000 * 2 ^ 448)) (BitVec.ofNat 512 wKd) 0 with
    started := started, queued := queued, placed := placed, retired := retired }

/-- A device with it, whose vault segment world 1 owns, and with service groups of world 1 on cores 0, 1 and 279. -/
def wLs (l : Launch) : State :=
  { wNet 0 with launches := [l], groups := [0, 1, 279].map fun c => { wGroup .s [] with core := c, service := some 0 } }

/-- LaunchesStartAndTeamsArePlaced, starting: heads of two queues, of which one is of higher class; the last team of a grid of two
layers whose first has retired. -/
theorem witness_LaunchesStart :
    (let a := { wL 0 2 none [] [] [] with lq := 63 }
     let b := { wL 0 2 none [] [] [] with acc := 9, image := (wL 0 2 none [] [] []).image ||| 0x1#1024 <<< 200 }
     let s := { wNet 0 with launches := [a, b] }
     s.tokens = [] ∧ s.eligibleHeads = [[b], [a]] ∧ headBefore [b] [a] = true ∧ lrVar b.image = false ∧ lrNdep b.image = 0 ∧
      (s.launches.map fun l => (l.lq, l.lseq)).Nodup) ∧
    (let l := wL 1 2 (some 3) [] [] [0]
     let s := { wLs l with mem := memSet [] (vaultKey 0) 1 }
     s.launch? 0 0 = some l ∧ lrTeams l.image = 2 ∧ lrNdep l.image = 1 ∧ lrDepVec l.image 0 = (0, 0, -1) ∧
      s.scoreKeys l 0 1 .atomic = (s, .keys [vaultKey 0]) ∧ (∀ i ∈ [0, 1], (s.readKey (vaultKey 0)).getLsbD i = l.retired.contains i) ∧
      l.released 1 = false ∧ l.released 0 = true ∧ s.cancelled (lrWorld l.image) (lrGinst l.image) = false ∧
      s.errs = [] ∧ s.poisoned = [] ∧ l.stopped = false) := by decide +kernel

/-- LaunchesStartAndTeamsArePlaced, placing: a team that the first core takes, one of a cluster, the last of a service launch. -/
theorem witness_TeamsArePlaced :
    (let l := wL 0 2 (some 3) [(1, 0)] [] [0]
     let s := wLs l
     s.launch? 0 0 = some l ∧ s.heldOff l = false ∧ lrSvc l.image = false ∧ l.gang = none ∧ lrCw l.image * lrCh l.image = 1 ∧
      l.nextUnit.map (·.1) = some [1] ∧ (∀ k ∈ s.launches, k.older l = false) ∧
      (∀ c ∈ [0, 1, 279], (s.admitted l c && s.hosts l c) = true ∧ s.coreThreads c = 8) ∧ (s.admitted l 3 && s.hosts l 3) = false) ∧
    (let l := { wL 0 2 (some 3) [(0, 0), (1, 0)] [] [] with image := (wL 0 2 none [] [] []).image ||| 0x1#1024 <<< 192 }
     lrSvc l.image = false ∧ l.nextUnit.map (·.1) = some [0, 1] ∧ (wLs l).clusterCores l ((wLs l).admitted l) = some [0, 1]) ∧
    (let l := { wL 0 2 (some 3) [(1, 0)] [] [] with image := (wL 0 2 none [] [] []).image ||| 0x1#1024 <<< 207 ||| 278#1024 <<< 304 }
     lrSvc l.image = true ∧ (l.queued.find? fun t => (wLs l).hostsService l (lrSvcc l.image + t.1)) = some (1, 0)) := by decide +kernel

/-- A group all of whose threads have exited, or that a token has frozen. -/
def wDone : Group := { wG with threads := (List.range 4).map fun i => { wThread 0x1000 [] i with st := .exited } }
def wTorn : Group := { wG with fzC := true }

/-- TeamsAndGroupsEnd: a team that retires as the last of its launch and as the first, and one whose launch has a scoreboard; a group
of a cancelled instance, idle; a launch that has waited exactly 100 µs; lines to clear; a group at the first and the last class that it
can rise from. -/
theorem witness_TeamsAndGroupsEnd :
    (∀ l ∈ [wL 0 1 (some 3) [] [0] [], wL 0 2 (some 3) [(1, 0)] [0] [], wL 1 2 (some 3) [] [0] []],
      let s := { wLs l with groups := [wDone], teams := [wTeam] }
      s.team? wTeam.num = some wTeam ∧ s.launch? wTeam.lq wTeam.lseq = some l ∧ (∀ h ∈ s.groups, ∀ th ∈ h.threads, th.st = .exited) ∧
        s.slog = [] ∧ s.mcmds = [] ∧ s.joints = [] ∧ s.ccmds = [] ∧ s.ncmds = [] ∧ s.isHalted wTeam.core = false ∧ l.stopped = false ∧
        wTeam.core < 4096 ∧ wTeam.base + 4095 < 2 ^ 20) ∧
    (let l := wL 1 2 (some 3) [] [0] []
     let s := { wLs l with groups := [wDone], teams := [wTeam] }
     let v := (s.removeTeam wTeam).teamOver wTeam false
     v.scoreKeys { l with placed := [], retired := [0] } 0 1 .atomic = (v, .keys [vaultKey 0]) ∧ s.errs = [] ∧ s.snaps = [] ∧ s.poisoned = [] ∧
       Memory.wf s.mem = true ∧
       isFlash (vaultKey 0) = false ∧ isMain (vaultKey 0) = false) ∧
    (let s := { wLs (wL 0 1 (some 3) [] [0] []) with groups := [wTorn], teams := [wTeam] }
     s.group? 3 5 = some wTorn ∧ wTorn.fzC = true ∧ s.groupBusy wTorn = false) ∧
    (let l := wL 0 2 (some 3) [(1, 7)] [] [0]
     let s := { wLs l with time := 100007 }
     s.launch? 0 0 = some l ∧ l.nextUnit = some ([1], 7) ∧ l.fair = false ∧ lrSvc l.image = false ∧ s.heldOff l = false ∧
       7 + 100000 ≤ s.time.toNat) ∧
    (({ wU [] with teams := [{ wTeam with uncleared := [31] }] } : State).team? 1 = some { wTeam with uncleared := [31] }) ∧
    (∀ p ∈ [(0, 0), (6, 1)], let g := { wG with age := true, pri := p.1, boost := p.2 - 1, waited := 4096 * p.2 + 4096 }
      4096 * (g.boost + 1) ≤ g.waited ∧ min 7 (g.service.getD g.pri + g.boost) < 7) := by decide +kernel

/-- R327: the head of class 1 starts, with both its teams released. -/
theorem test_launchStart :
    let a := { wL 0 2 none [] [] [] with lq := 63 }
    let b := { wL 0 2 none [] [] [] with acc := 9, image := (wL 0 2 none [] [] []).image ||| 0x1#1024 <<< 200 }
    nextAnd (execLaunchStart { wNet 0 with launches := [a, b] })
      (fun u => u.launches.map (fun l => (l.started.isSome, l.queued.map (·.1))) == [(false, []), (true, [0, 1])]) = true := by decide +kernel

/-- R376, R378: the second layer's team is released once the first layer's has retired. -/
theorem test_teamRelease : nextAnd (execTeamRelease 0 0 { wLs (wL 1 2 (some 3) [] [] [0]) with mem := memSet [] (vaultKey 0) 1 })
    (fun u => u.launches.map (fun l => l.queued.map (·.1)) == [[1]]) = true := by decide +kernel

/-- R92, R329: the team goes to core 0; its group starts at the descriptor's ENTRY with ARGP in `s0`. -/
theorem test_teamPlacement : nextAnd (execTeamPlacement 0 0 (wLs (wL 0 2 (some 3) [(1, 0)] [] [0])))
    (fun u => u.teams.map (fun t => (t.core, t.index)) == [(0, 1)] && u.groups.length == 4 &&
      (u.groups.getLast?).any fun g => g.priv == .u && g.gw == 64 && g.nreg == 32 && g.tx == 1 && g.threads.length == 64 &&
        g.threads.all fun t => t.pc == 0) = true := by decide +kernel

/-- R377, R379: the retired team's bit is set, and its group is gone. -/
theorem test_teamRetire : nextAnd (execTeamRetire 1 { wLs (wL 1 2 (some 3) [] [0] []) with groups := [wDone], teams := [wTeam] })
    (fun u => u.groups.isEmpty && u.teams.isEmpty && u.readKey (vaultKey 0) == 1 && u.launches.map (·.retired) == [[0]]) = true := by
  decide +kernel

/-- R328, R332: the last group of a cancelled launch takes its team and the launch with it, and the token expires. -/
theorem test_groupTeardown : nextAnd (execGroupTeardown 3 5
    { wLs (wL 0 1 (some 3) [] [0] []) with groups := [wTorn], teams := [wTeam], tokens := [(1, 0)] })
    (fun u => u.groups.isEmpty && u.teams.isEmpty && u.launches.isEmpty && u.tokens.isEmpty) = true := by decide +kernel

theorem test_fairnessExpiry : nextAnd (execFairnessExpiry 0 0 { wLs (wL 0 2 (some 3) [(1, 7)] [] [0]) with time := 100007 })
    (fun u => u.launches.all (·.fair)) = true := by decide +kernel

theorem test_scratchpadClearDone : nextAnd (execScratchpadClearDone 1 { wU [] with teams := [{ wTeam with uncleared := [30, 31] }] })
    (fun u => u.teams.map (·.uncleared) == [[31]]) = true := by decide +kernel

theorem test_agingPromotion : groupAnd (execAgingPromotion 3 5 (wState { wG with age := true, waited := 4096 })) (fun g => g.boost == 1) =
    true := by decide +kernel

/-- The slots that the lanes of a supervisor name in `v0`; their replies stand in `v2:v3`. -/
def wAsk (l : List Word) : Group :=
  { wGroup .s [] with threads := (List.range 4).map fun i => wThread 0x1000 [l.getD i 0xFFFF, 0, 1, 0x80000000] i }

/-- Callers of group slot 6, parked on the records of slots 0, 1, 254 and 255: an ECALL, a WCALL, a BREAK and a TRAP. -/
def wCallers : Group :=
  { wG with slot := 6, threads := (List.range 4).map fun i =>
      { wThread 0x2000 [] i with st := if i < 2 then .parkedEasel i false else .parkedEasel (252 + i) true } }

/-- Their records, delivered to group slot 5. -/
def wAnswer (i : Nat) : EaselSlot :=
  { wRec (if i < 2 then i else 252 + i) i false with
    delivered := some 5
    body := { (wRec 0 0 false).body with
      kind := 1 + i, gslot := 6, lane := i, a := if i < 2 then [1, 2, 3, 4, 5, 6] else [0x2000, 1#64 <<< i, BitVec.ofNat 64 (3 - i), 0, 0, 0] } }

/-- A device in which they may be answered. -/
def wReplies (l : List Word) : State :=
  { wState (wAsk l) with groups := [wAsk l, wCallers], easel := (List.range 4).map wAnswer }

/-- A fault record of a slot, delivered to group slot 5, and a thread parked on it. -/
def wFaulted (acc : Nat) : State :=
  let f : FaultSlot := { wFlt 2047 0 false with delivered := some 5, body := { (wFlt 0 0 false).body with acc := acc, gslot := 6, lane := 3 } }
  let t := { wThread 0x2000 [] 3 with st := .parkedFault 2047, logRec := if acc = 7 then some 2047 else none }
  { wNet 0 with
    groups := [{ wAsk [2047] with threads := [wThread 0x1000 [2047, 0] 0] }, { wG with slot := 6, threads := [t] }]
    cur := { core := 3, slot := 5, lanes := 1, words := [0] }, faultq := [f]
    slog := if acc = 7 then [{ stk := false, core := 3, slot := 6, lane := 3, addr := wVault, seq := 0, typ := 0, aop := 0, wd := false,
                               bytes := [1, 2, 3, 4], ord := 0, scp := 0, kcls := .p }] else [] }

/-- RecordsAreAnswered, the easel: each kind of record in the first and the last slots, a lane that names none, and slots with no record. -/
theorem witness_RecordsAreAnswered :
    (∀ l ∈ [[(0 : Word), 1, 254, 255], [0xFFFF, 0xFFFF, 254, 255], [2, 3, 4, 5]],
      let s := wReplies l
      let g := wAsk l
      s.group? 3 5 = some g ∧ g.priv ≠ .u ∧ g.nregOk [(0, 1), (30, 2)] = true ∧ g.inMask s.cur.lanes = g.threads ∧
      (∀ h ∈ s.groups, (h.threads.map (·.lane)).Nodup ∧ ∀ t ∈ h.threads, t.lane < 64) ∧
      (∀ t ∈ g.threads, s.logPending g t.lane = false ∧ (vsource 0 g t false 0).wait = [] ∧ (vsource 0 g t false 0).poison = false ∧
        (vsource 0 g t true 2).wait = [] ∧ (vsource 0 g t true 2).poison = false) ∧
      (∀ t ∈ g.threads, ∀ t' ∈ g.threads, (vsource 0 g t false 0).val.toNat = (vsource 0 g t' false 0).val.toNat →
        (vsource 0 g t false 0).val.toNat = 0xFFFF ∨ t = t') ∧
      ∀ t ∈ g.threads, (l.headD 0 = 2) = (decide ((vsource 0 g t false 0).val.toNat ≠ 0xFFFF) &&
        (s.deliveredEasel g (vsource 0 g t false 0).val.toNat).isNone)) ∧
    (let l := [(0 : Word), 1, 254, 255]
     ∀ i ∈ [0, 1, 2, 3], (wReplies l).deliveredEasel (wAsk l) (l.getD i 0).toNat = some (wAnswer i) ∧ (wAnswer i).answered = false ∧
      (wReplies l).group? 3 (wAnswer i).body.gslot = some wCallers ∧ wCallers.slot ≠ (wAsk l).slot ∧
      (∀ c ∈ wCallers.threads, c.lane = i → c.st = .parkedEasel (wAnswer i).slot (decide (2 ≤ i))) ∧
      (2 ≤ i → laneBit ((wAnswer i).body.a.getD 1 0) i = true)) := by decide +kernel

/-- RecordsAreAnswered, faults: a record of the queue's last slot, and one that a side log's replay posted. -/
theorem witness_FaultsAreAnswered :
    (∀ acc ∈ [1, 7], let s := wFaulted acc
      ∃ g ∈ s.groups, ∃ q ∈ s.faultq, ∃ h ∈ s.groups, ∃ t ∈ g.threads, ∃ c ∈ h.threads,
        s.group? 3 5 = some g ∧ g.inMask s.cur.lanes = [t] ∧ (vsource 0 g t false 0).val.toNat = 2047 ∧ s.deliveredFault g 2047 = some q ∧
        q.body.acc = acc ∧ s.group? g.core q.body.gslot = some h ∧ h.slot ≠ g.slot ∧ h.thread? q.body.lane = some c ∧
        c.st = .parkedFault q.slot ∧ s.logPending g t.lane = false ∧ s.deliveredFault g 2046 = none) ∧
    (let s := wFaulted 7
     s.errs = [] ∧ Memory.wf s.mem = true ∧ s.snaps = [] ∧ ∃ h ∈ s.groups, ∃ e ∈ s.slog, ∃ c ∈ h.threads, h.slot = 6 ∧
      c.logRec = some 2047 ∧ s.logHolder 3 2047 = some (h, c) ∧ s.logOf (h.poster c.lane) = [e] ∧ e.typ = 0 ∧ (∀ k ∈ (List.range 4).map vaultKey, isFlash k = false ∧ isMain k = false)) := by
  refine ⟨?_, ?_⟩ <;> decide +kernel

theorem resolveNow_faultq {s : State} {p : Poster} {ea : DWord} {n : Nat} {k : AKind} {ks : List Nat} {c : Cls} {b : Bool}
    {l : Option (Nat × Nat)} (h : s.resolve p ea n k = .keys ks c b l) (f : List FaultSlot) :
    ({ s with faultq := f } : State).resolveNow p ea n k = .keys ks c b l := by
  have h' : ({ s with faultq := f } : State).resolve p ea n k = .keys ks c b l := h
  unfold State.resolveNow State.reach
  rw [h']
  exact h'

/-- The logged store leads to the vault segment, whatever the fault queue holds. -/
theorem witness_LoggedStore (f : List FaultSlot) :
    ({ wFaulted 7 with faultq := f } : State).resolveNow { ({ wG with slot := 6 } : Group).poster 3 with kcls := .p } wVault 4 .store =
      .keys ((List.range 4).map vaultKey) .p false none :=
  resolveNow_faultq (by decide +kernel) f

/-- RecordsAreAnswered, at a boundary, of a timer, and of a record that waits. -/
theorem witness_RecordsThatWait :
    (let t := { wThread 0xFE00010000000000 [] 63 with logErr := some (8, 0x40, 0) }
     let g := { wGroup .f [] with threads := [t] }
     let s := wState g
     s.group? 3 5 = some g ∧ g.thread? t.lane = some t ∧ t.lane < 64 ∧ (g.threads.map (·.lane)).Nodup ∧ t.st = .ready ∧ s.convergingHere g t = false ∧
      (s.faultq.filter fun q => q.core == 3 && q.live).length < 2048 ∧
      ({ s with icache := [{ core := 3, world := 0, line := (flashKey 0) / 128, full := true, pf := false, by_ := wG.poster 0, bad := [], bytes := List.replicate 128 0 }] } : State).fetch
        (g.poster t.lane) t.pc = .words [0]) ∧
    (∀ w ∈ [0, 63], let s := { wU [] with cores := [{ CoreRec.reset 3 with tcmp := [(w, 5)] }], time := 5 }
      ((s.core 3).tcmp.map (·.1)).Pairwise (· < ·) ∧ s.tcmp 3 w ≠ BitVec.allOnes 64 ∧ (s.tcmp 3 w).toNat ≤ s.time.toNat) ∧
    (let s := { wU [] with pending := [(2, deviceRec 5 0 0 true []), (3, deviceRec 5 0 1 false [])] }
     (s.pending.find? fun p => p.1 == 3) = some (3, deviceRec 5 0 1 false []) ∧ s.isHalted 3 = false ∧ s.easelFree 3 ≠ 0) := by decide +kernel

/-- The callers after a step. -/
def callersAnd (o : Out) (p : Group → Bool) : Bool := nextAnd o fun u => (u.group? 3 6).any p

/-- R304: each caller goes on past its call with its reply; the broken thread retries and skips its breakpoint, the trapped one, whose
reply's bit 0 is 1, executes its instruction again. -/
theorem test_srep : callersAnd (execSrep 0 2 (wReplies [0, 1, 254, 255])) (fun h =>
    h.threads.map (fun t => (t.pc, t.st, regAt t 0, regAt t 1, t.bpSkip)) ==
      [(0x2004, .ready, 1, 0x80000000, false), (0x2004, .ready, 1, 0x80000000, false), (0x2000, .ready, 0, 0, true),
       (0x2000, .ready, 0, 0, false)]) = true := by decide +kernel
theorem test_srep_svcBad : nextAnd (execSrep 0 2 (wReplies [2, 0xFFFF, 0xFFFF, 0xFFFF])) (fun u =>
    u.faultq.map (fun q => (q.body.code, q.body.lane)) == [(.svcBad, 0)]) = true := by decide +kernel

theorem test_sdone : nextAnd (execSdone 0 (wReplies [0, 1, 254, 0xFFFF])) (fun u => u.easel.map (·.live) == [false, false, false, true]) =
    true := by decide +kernel

/-- R305, R310: the parked thread is ready again, after its logged store has been made. -/
theorem test_fltDone : callersAnd (execFltDone 0 (wFaulted 1)) (fun h => h.threads.all fun t => t.st == .ready && t.pc == 0x2000) = true := by
  decide +kernel
theorem test_fltDone_replay : nextAnd (execFltDone 0 (wFaulted 7)) (fun u => u.slog.isEmpty && (List.range 4).map (u.readKey <| vaultKey ·) ==
    [1, 2, 3, 4] && (u.group? 3 6).any fun h => h.threads.all fun t => t.st == .ready && t.logRec == none) = true := by decide +kernel

/-- R310: an ACC 8 record of an APERTURE at the thread's own instruction. -/
theorem test_logReplayRecord :
    let g := { wGroup .f [] with threads := [{ wThread 0xFE00010000000000 [] 63 with logErr := some (8, 0x40, 0) }] }
    nextAnd (execLogReplayRecord 3 5 63
      { wState g with icache := [{ core := 3, world := 0, line := flashKey 0 / 128, full := true, pf := false, by_ := wG.poster 0, bad := [], bytes := List.replicate 128 0 }] })
      (fun u => u.faultq.map (fun q => (q.body.code, q.body.acc, q.body.addr, q.body.lane)) == [(FaultCode.ofCode 8, 8, 0x40, 63)]) =
      true := by decide +kernel

/-- R408: KIND 0x05 with the time and the compare value, once. -/
theorem test_timerFire : nextAnd (execTimerFire 3 1 { wRoom (wU []) with cores := [{ CoreRec.reset 3 with tcmp := [(1, 5)] }], time := 6 })
    (fun u => u.tcmp 3 1 == BitVec.allOnes 64 && u.easel.map (fun e => (e.body.kind, e.body.a.take 2)) == [(5, [6, 5])]) = true := by
  decide +kernel

theorem test_deviceRecordPost : nextAnd (execDeviceRecordPost 3 { wRoom (wU []) with pending := [(3, deviceRec 5 0 1 false [])] })
    (fun u => u.pending.isEmpty && u.easel.map (fun e => (e.core, e.live, e.body.kind)) == [(3, true, 5)]) = true := by decide +kernel

/-- A supervisor whose lanes name records in `v0` and an address in `v2:v3`, its callers and their records. -/
def wBorrower (slots : List Word) (lo hi : Word) : Group :=
  { wGroup .s [] with threads := (List.range slots.length).map fun i => wThread 0x1000 [slots.getD i 0, 0, lo, hi, 5, 6, 7, 8] i }
def wBorrow (slots : List Word) (lo hi : Word) : State :=
  { wState (wBorrower slots lo hi) with
    groups := [wBorrower slots lo hi, wCallers], easel := (List.range 4).map wAnswer
    cur := { core := 3, slot := 5, lanes := BitVec.ofNat 64 (2 ^ slots.length - 1), words := [0] } }

/-- BorrowedAccesses: the first and the last record, a lane that names none, and one with no record; the last bytes of the callers'
scratchpad, and the first byte beyond. -/
theorem witness_BorrowedAccesses :
    (∀ l ∈ [[(0 : Word), 1, 254, 255], [0xFFFF, 0, 0xFFFF, 0xFFFF], [2, 3, 4, 5], [255]],
      let s := wBorrow l 4080 0xF0000000
      let g := wBorrower l 4080 0xF0000000
      (s.group? s.cur.core s.cur.slot = some g) ∧ g.priv ≠ .u ∧ g.nregOk [(28, 4), (2, 2), (0, 1)] = true ∧ (g.threads.map (·.lane)).Nodup ∧
      (∀ t ∈ g.threads, t.lane < 64) ∧ s.slog = [] ∧ s.errs = [] ∧ s.snaps = [] ∧ Memory.wf s.mem = true ∧ (∀ x ∈ s.l1, x.core ≠ g.core) ∧
      g.inMask s.cur.lanes = g.threads ∧
      (∀ t ∈ g.threads, (vsource 0 g t true 2).wait = [] ∧ (vsource 0 g t true 2).poison = false ∧ (vsource 0 g t false 0).wait = [] ∧
        (vsource 0 g t false 0).poison = false ∧ (source 0 g t .w128 4).wait = [] ∧ (source 0 g t .w128 4).poison = false) ∧
      ∀ t ∈ g.threads, ∀ t' ∈ g.threads, (vsource 0 g t false 0).val.toNat = (vsource 0 g t' false 0).val.toNat →
        (vsource 0 g t false 0).val.toNat = 0xFFFF ∨ t = t') ∧
    (∀ k ∈ [false, true], ∀ n ∈ [1, 16], ∀ i ∈ [0, 3],
      (wBorrow [255] 0 0).borrow (wAnswer i) 0xF000000000000FF0 n k =
        .go (wCallers.poster i) (.keys ((List.range n).map fun j => spadKey 3 (4080 + j)) .p false (some (1, 4080))) ∧
      (wBorrow [255] 0 0).borrowWalks (wAnswer i) 0xF000000000000FF0 n k = wBorrow [255] 0 0 ∧
      (wBorrow [255] 0 0).borrow (wAnswer i) 0xF000000000001000 n k = .err 1 ∧
      (wBorrow [255] 0 0).borrow { wAnswer i with body := { (wAnswer i).body with gslot := 511 } } 0xF000000000000FF0 n k = .err 6) ∧
    ((List.range 16).map fun j => spadKey 3 (4080 + j)).Nodup ∧
    (∀ k ∈ (List.range 16).map (fun j => spadKey 3 (4080 + j)), isFlash k = false ∧ isMain k = false) := by decide +kernel

/-- R306: the word read with the caller's rights, and the refusal that sets BERR 1, counts and answers 0. -/
theorem test_bld : groupAnd (execBld 30 2 0 .d { wBorrow [255] 4088 0xF0000000 with mem := memFill [] (spadKey 3 4088) (toBytes 0x1122334455667788 8) })
    (fun g => g.threads.map (fun t => (regAt t 30, regAt t 31)) == [(0x55667788, 0x11223344)]) = true := by decide +kernel
theorem test_bld_refused : nextAnd (execBld 30 2 0 .d (wBorrow [255] 4096 0xF0000000))
    (fun u => u.easel.map (fun e => (e.body.berr, e.body.bcnt)) == [(0, 0), (0, 0), (0, 0), (1, 1)] && u.faultq.isEmpty) = true := by
  decide +kernel
theorem test_bst : nextAnd (execBst 4 2 0 .q (wBorrow [0] 4080 0xF0000000))
    (fun u => (List.range 16).map (fun i => u.readKey (spadKey 3 (4080 + i))) == [5, 0, 0, 0, 6, 0, 0, 0, 7, 0, 0, 0, 8, 0, 0, 0]) = true := by
  decide +kernel

/-- A supervisor of a level whose `s1` holds an operand, beside a U group of its world and one of another. -/
def wAround (pr : Priv) (x : DWord) : State :=
  let g := wScalar (wGroup pr []) [(1, x)]
  { wState g with
    groups := [g, { wG with slot := 511 }, { wG with slot := 6, world := 2, team := 9 }]
    tlbs := [{ core := 3, quarter := none, world := 1, asid := some 0, sup := false, vpn := 2, pages := 16, ppn := 7, r := true, w := true, x := true, u := true,
               ro := false, sz := 1 }]
    dev := [(dev3 / 8, 0x4000000000000000)] }

/-- PartitionsAndTranslations, freezing: each form of selection at its last field values; reserved bits; another world. -/
theorem witness_Freeze : ∀ pr ∈ [Priv.s, .f],
    (∀ x ∈ [(511 : DWord).toNat, 0x4000000000000000, 0x8000000000000001, 0x00400000, 0xC000000000000000, 0x8000000000000002],
      let s := wAround pr (BitVec.ofNat 64 x)
      let g := wScalar (wGroup pr []) [(1, BitVec.ofNat 64 x)]
      (s.group? s.cur.core s.cur.slot = some g) ∧ consumeS 0 100000 g 1 = some (BitVec.ofNat 64 x) ∧
      (s.groups.map fun h => (h.core, h.slot)).Nodup) ∧
    bits (511 : DWord) 8 0 = 511 ∧ bits (0x8000000000000001 : DWord) 63 62 = 2 ∧ bits (0x8000000000000001 : DWord) 5 0 = 1 ∧
    bits (0x00400000 : DWord) 29 22 ≠ 0 ∧ ¬bits (0xC000000000000000 : DWord) 63 62 < 3 := by decide +kernel

/-- An image of world 1's one U group, saved by F, with its team. -/
def wImage : Image :=
  { core := 3, size := 8192, world := 1, saverF := true, split := 1, tsave := 0, groups := [{ wG with slot := 511, fzF := true }], teams := [wTeam], spads := []
    poison := [], mcmds := [], joints := [], ccmds := [], ncmds := [], slog := [], easel := [], faultq := [] }

/-- A device whose core 3 has 8 MiB of shadow storage; one with that image and a service group. -/
def wShadow : State :=
  let s := wAround .f 1
  wDev s ((List.range 16).map fun i => (vatOff (s.siteOf 3) (96 + 2 * i), 0x2000000020000000))
def wSaved : State :=
  let g := { wScalar (wGroup .s []) [(1, 1)] with service := some 0 }
  { wState g with groups := [g], teams := [], images := [wImage] }

/-- The image of one small group is less than 2 MiB whatever the device adds. -/
theorem wShadow_room : wShadow.swapRefused 3 1 = false := by
  have h : ∀ n, n < 2 ^ 19 → (64 + ((wShadow.partition 3 1).map fun g => regStorage g.gw g.nreg).sum +
      ((wShadow.teamsOf (wShadow.partition 3 1)).map (·.size)).sum + n) < 65536 * wShadow.shadowLen (wShadow.siteOf 3) := by
    have a : 64 + ((wShadow.partition 3 1).map fun g => regStorage g.gw g.nreg).sum +
      ((wShadow.teamsOf (wShadow.partition 3 1)).map (·.size)).sum = 64 + 3072 + 4096 := by decide +kernel
    have b : 65536 * wShadow.shadowLen (wShadow.siteOf 3) = 2097152 := by decide +kernel
    intro n hn
    rw [a, b]
    omega
  have c : ((wShadow.image? 3).isSome || (wShadow.partition 3 1).all (fun g => 512 ≤ g.slot) || (wShadow.easelOf 3 (wShadow.partition 3 1)).any (·.delivered.isSome) ||
    (wShadow.faultsOf 3 (wShadow.partition 3 1)).any (·.delivered.isSome)) = false := by decide +kernel
  unfold State.swapRefused State.imageSize
  simp only [c, Bool.false_or, decide_eq_false_iff_not, Nat.not_lt]
  exact Nat.le_of_lt (h _ (BitVec.isLt _))

/-- PartitionsAndTranslations, swapping: a partition that can be saved, one that cannot, one that is drained; an image that the core
takes back, and none. -/
theorem witness_Swap :
    (wShadow.swaps = [] ∧ ({ wShadow with images := [wImage] } : State).swapRefused 3 1 = true ∧ bits (1 : DWord) 63 6 = 0 ∧
      bits (64 : DWord) 63 6 ≠ 0) ∧
    (let j : SwapJob := { core := 3, slot := 5, world := 1, byF := true, size := 0, done := false }
     let s := { wShadow with swaps := [j] }
     (s.swaps.find? fun k => k.core == 3 && !k.done) = some j ∧ s.errs = [] ∧ Memory.wf s.mem = true ∧
      s.drained (s.groups.filter fun h => h.core == 3 && h.priv == .u && h.world.toNat == j.world.toNat) = true ∧
      wTeam ∈ s.teams ∧ 3 < 4096 ∧ wTeam.base + wTeam.size ≤ 2 ^ 20) ∧
    (let g := { wScalar (wGroup .s []) [(1, 1)] with service := some 0 }
     let v := (wSaved.putGroup (movePast wSaved g)).withSplit 3 1
     wSaved.group? 3 5 = some g ∧ consumeS 0 100000 g 1 = some 1 ∧ wSaved.images.find? (fun i => i.core == 3) = some wImage ∧
      wImage.world.toNat = 1 ∧ v.takesBack 3 wImage = true ∧ v.fixedBases 3 1 wImage.teams = some [0]) ∧
    (wShadow.images.find? (fun i => i.core == 3) = none) := by decide +kernel

/-- PartitionsAndTranslations, translations: each form of `tlb.inv` at its last field values, good and bad; an address of each window. -/
theorem witness_Translations :
    (∀ pr ∈ [Priv.s, .f], let s := wAround pr 0
      s.rdy = true ∧ s.slog = [] ∧ (s.tlbs.map fun t => (t.core, t.world.toNat)) = [(3, 1)]) ∧
    (bits (0x8000000000000001 : DWord) 61 6 = 0 ∧ bits (0xC000000000000000 : DWord) 47 44 = 0 ∧ bits (0x0000100000000000 : DWord) 47 44 ≠ 0) ∧
    (let g := { wScalar (wGroup .s []) [(1, 0)] with
        threads := (List.range 8).map fun i => wThread 0x1000 [0x11FFF, ([0x00000000, 0x01FFFFFF, 0xF0000000, 0xF1000000, 0xF2000000, 0xFE000000,
          0xF4000000, 0xFF000000] : List Word).getD i 0] i }
     let s := { wAround .s 0 with groups := [g], cur := { core := 3, slot := 5, lanes := 0xFF, words := [0] } }
     s.group? 3 5 = some g ∧ g.priv ≠ .u ∧ g.nregOk [(30, 2), (0, 2)] = true ∧ (g.threads.map (·.lane)).Nodup ∧
      s.translate (g.poster 0) false 17 .load = .page 22 ∧ (s.tlbFor (g.poster 0) false 17).isSome = true ∧
      ∀ t ∈ g.threads, (vsource 0 g t true 0).wait = [] ∧ (vsource 0 g t true 0).poison = false) := by decide +kernel

/-- R312, R313: the U group of slot 511 freezes by S's bit, and thaws. -/
theorem test_freeze : nextAnd (execFreeze 1 (wAround .s 511)) (fun u => u.groups.map (fun h => (h.slot, h.fzS)) == [(5, false), (511, true), (6, false)]) =
    true := by decide +kernel
theorem test_freeze_world : nextAnd (execFreeze 1 (wAround .s 6)) (fun u => u.groups.all (fun h => !h.fzS) &&
    u.faultq.map (·.body.code) == [.svcBad]) = true := by decide +kernel
theorem test_thaw : nextAnd (execThaw 1 { wAround .f 0x8000000000000002 with
      groups := (wAround .f 0x8000000000000002).groups.map fun h => { h with fzS := true, fzF := true } })
    (fun u => u.groups.map (fun h => (h.slot, h.fzS || h.fzF)) == [(5, true), (511, true), (6, false)]) = true := by decide +kernel

/-- R315, R316. -/
theorem test_swapout : nextAnd (execSwapout 1 { wShadow with images := [wImage] }) (fun u => u.faultq.map (·.body.code) == [.swapState]) = true := by
  decide +kernel
theorem test_swapoutDrainDone :
    nextAnd (execSwapoutDrainDone 3 { wShadow with swaps := [{ core := 3, slot := 5, world := 1, byF := true, size := 0, done := false }] })
      (fun u => u.groups.map (·.slot) == [5, 6] && u.teams.isEmpty && u.images.map (fun i => (i.world, i.groups.map (·.slot))) == [(1, [511])] &&
        u.swaps.all (·.done)) = true := by decide +kernel
theorem test_swapin : nextAnd (execSwapin 1 wSaved) (fun u => u.images.isEmpty && u.groups.map (·.fzF) == [false, true] &&
    u.teams.map (·.num) == [1]) = true := by decide +kernel

/-- R368. -/
theorem test_tlbInv : nextAnd (execTlbInv 6 1 (wAround .s 0x8000000000000001)) (fun u => u.tlbs.isEmpty) = true ∧
    nextAnd (execTlbInv 6 1 (wAround .f 0x8000000000000002)) (fun u => u.tlbs.length == 1) = true := by decide +kernel
theorem test_tlbProbe : groupAnd (execTlbProbe 30 0 { wAround .s 0 with
    groups := [{ wScalar (wGroup .s []) [] with threads := [wThread 0x1000 [0x11FFF, 0] 0, wThread 0x1000 [0, 0xFE000000] 1] }]
    cur := { core := 3, slot := 5, lanes := 3, words := [0] } })
    (fun g => g.threads.map (fun t => (regAt t 30, regAt t 31)) == [(0x74F0, 0), (0, 0xFF000000)]) = true := by decide +kernel

/-- A device on which F runs a TBL instruction: world 1 has a live key, `glz` glazed pages and 2 pages of metadata; frame 1 is free but
for its first pages. -/
def wTab (pr : Priv) (x y : DWord) (glz : Nat) : State :=
  let g := wScalar (wGroup pr []) [(1, x), (2, y)]
  { wDev (wState g) [(dev3, 0xC0012C0000000000), (worldOff 0, 1), (worldOff 1, 1), (worldOff 1 + 16, BitVec.ofNat 64 (glz * 2 ^ 32)),
      (worldOff 1 + 24, 2), (worldOff 1 + 1024, 2)] with
    pot := [(576, 0x2001), (577, 0x4001), (578, 0x6001), (579, 0x8000), (581, 0x2002)] }

/-- Its group. -/
def wTabG (pr : Priv) (x y : DWord) : Group := wScalar (wGroup pr []) [(1, x), (2, y)]

/-- TableInstructions, pages: a page in each state; the last page of a frame's slots and the first that does not exist; every change
that R370 admits, and others; stretches of pages, one, up to a frame's end, beyond; as many glazed pages as META covers, and one more;
frames with an owned page and without. -/
theorem witness_Pages :
    (∀ p ∈ [((0x400000 : DWord).toNat, 0), (0x10000000000, 0xFFFF), (0xFFC0000000600000, 0xFFFFFFFFFFFFFFFF)],
      let s := wTab .f (BitVec.ofNat 64 p.1) (BitVec.ofNat 64 p.2) 15
      let g := wTabG .f (BitVec.ofNat 64 p.1) (BitVec.ofNat 64 p.2)
      (s.group? s.cur.core s.cur.slot = some g) ∧ s.slog = [] ∧ consumeS 0 100000 g 1 = some (BitVec.ofNat 64 p.1) ∧
      consumeS 0 100001 g 2 = some (BitVec.ofNat 64 p.2) ∧ (s.pot.map (·.1)).Pairwise (· < ·) ∧ (s.dev.map (·.1)).Pairwise (· < ·) ∧
      s.rdy = true ∧ s.snaps = []) ∧
    (let s := wTab .f 0 0 15
     (∀ p ∈ [(1024, 1), (1025, 2), (1026, 3), (1027, 4), (1028, 0)], potState (s.potGet p.1) = p.2) ∧
      s.slotExists 1535 = true ∧ s.slotExists 1536 = false ∧ 8 * (s.metaPages 1 - 1) < s.glz 1 ∧ s.kstate 1 = 1 ∧ s.kstate 17 = 2 ∧ s.kstate 63 ≠ 1) ∧
    (¬8 * ((wTab .f 0 0 8).metaPages 1 - 1) < (wTab .f 0 0 8).glz 1) ∧
    (∀ i ∈ List.range 2, (wTab .f 0 0 14).slotExists (1534 + i) = true ∧ potState ((wTab .f 0 0 14).potGet (1534 + i)) = 0 ∧
      (wTab .f 0 0 14).glz 1 + i + 1 ≤ 8 * (wTab .f 0 0 14).metaPages 1) ∧
    (8 * (wTab .f 0 0 15).metaPages 1 < (wTab .f 0 0 15).glz 1 + 1 + 1) ∧
    ((2047 : Nat) / 1024 ≠ (2047 + 2 - 1) / 1024 ∧ (2046 : Nat) / 1024 = (2046 + 2 - 1) / 1024) ∧
    (∀ i ∈ List.range 576, potState ((wTab .f 0 0 15).potGet (1024 * 2 + i)) = 0) ∧ potState ((wTab .f 0 0 15).potGet 1024) ≠ 0 := by
  decide +kernel

/-- TableInstructions, keys: a world without a key or pages, one with a key, one whose key is retired; a domain that is off and one that is
up; the key in scratchpad. -/
theorem witness_Keys :
    ((wTab .f 0 0 0).kstate 63 = 0 ∧ (wTab .f 0 0 0).glz 63 = 0 ∧ (wTab .f 0 0 0).metaPages 63 = 0 ∧ (wTab .f 0 0 0).kstate 1 = 1 ∧
      bits (0xC00000000000003F : DWord) 61 6 = 0 ∧ (wTab .f 0 0 0).domState 63 = 0 ∧ (wNet 1).domState 1 = 1) ∧
    (let s := wTab .f 0x8000000000000001 0xF000000000000000 0
     let g := wTabG .f 0x8000000000000001 0xF000000000000000
     s.slog = [] ∧ s.errs = [] ∧ s.l1 = [] ∧ s.poisoned = [] ∧
      s.resolve (g.poster (leadOf s g).1) 0xF000000000000000 32 .load = .keys (wSpad 0 32) .p false (some (1, 0)) ∧ s.presence 1 0 32 = .present) := by
  decide +kernel

/-- TableInstructions, hotness: nothing published; a page of the world and one of another, published by the last controller. -/
theorem witness_HotRd_published :
    let c : HotCtl := { n := 15, sketch := [], cand := [], pub := [(1, [(1024, 255), (2047, 9)])], last := 0 }
    let s := { wTab .s 0 0xF 0 with hot := [c] }
    (∀ c ∈ s.hot, ∀ q ∈ c.pub, q.2.length ≤ 64 ∧ (q.2.map (·.1)).Nodup) ∧ (s.hotList 15 1 false).map (·.2) = [1024, 2047] := by decide +kernel
theorem witness_HotRd : (wTab .s 0 0xF 0).hotList 15 1 false = [] ∧ bits (0xF : DWord) 63 14 = 0 ∧ bits (0x4000 : DWord) 63 14 ≠ 0 ∧
    (∀ i, i < ((wTab .s 0 0xF 0).hotList 15 1 false).length → bits ((0 : DWord) + BitVec.ofNat 64 (8 * i)) 63 56 ≤ 1) ∧
    storeHot (wTab .s 0 0xF 0) ((wTabG .s 0 0xF).poster 0) 0 [] = .ok (wTab .s 0 0xF 0) :=
  ⟨rfl, by decide, by decide, fun i h => absurd h (by change ¬i < 0; omega), rfl⟩

/-- A snapshot descriptor: one region of one page at the list's only entry, its area at page 1 and its bitmap at page 2 of window 0x00; the
pages are mapped to the first pages of frame 1. -/
def wVarnish (held : List Nat) (ks : DWord) : State :=
  let g := wScalar (wGroup .s []) [(1, 0xF000000000001000 - 128)]
  { wDev (wState g) [(dev3, 0xC0012C0000000000), (worldOff 1, ks)] with
    teams := [{ wTeam with lines := [] }], trained := [0], pot := [(576, 0x2001), (577, 0x2001), (578, 0x2001)]
    snaps := held.map fun h => { handle := h, world := 1, pages := [], bits := [], boff := 0, kept := [], lost := [] }
    tlbs := (List.range 3).map fun i =>
      { core := 3, quarter := none, world := 1, asid := none, sup := false, vpn := i, pages := 1, ppn := 1024 + i, r := true, w := true, x := true, u := true
        ro := false, sz := 0 }
    mem := memFill [] (spadKey 3 (4096 - 128)) (toBytes (0xF000000000000000 + 0x1000 * 2 ^ 64 + 0x2000 * 2 ^ 128) 64) }

/-- The pages that translate; 99 for an answer that one does not, nothing while one waits. -/
def wPages (o : Option (Except Unit (List Nat))) : List Nat :=
  match o with
  | some (.ok l) => l
  | some (.error _) => [99]
  | none => []

/-- TableInstructions, snapshots: a handle that is held by this world and one that is not; pages that the world owns; every handle held. -/
theorem witness_Varnish :
    (let s := wVarnish [15] 1
     (s.snaps.find? fun m => m.handle == bits (15 : DWord) 3 0 && m.world == 1#6) = s.snaps.head? ∧ bits (15 : DWord) 63 4 = 0 ∧
      bits (16 : DWord) 63 4 ≠ 0) ∧
    (∀ held ∈ [[], [3], List.range 16], let s := wVarnish held 1
     let g := wScalar (wGroup .s []) [(1, 0xF000000000001000 - 128)]
     let q : BitVec 512 := BitVec.ofNat 512 (0xF000000000000000 + 0x1000 * 2 ^ 64 + 0x2000 * 2 ^ 128)
     let lb := (wSpad 0 8).map (s.readKeyFor (leadOf s g).1)
     (s.group? 3 5 = some g) ∧ consumeS 0 100000 g 1 = some 0xF000000000000F80 ∧ (s.pot.map (·.1)).Pairwise (· < ·) ∧
      (s.dev.map (·.1)).Pairwise (· < ·) ∧ s.slog = [] ∧
      (s.slog = [] ∧ s.errs = [] ∧ s.l1 = [] ∧ s.poisoned = [] ∧
        s.resolve (g.poster (leadOf s g).1) 0xF000000000000F80 64 .load = .keys (wSpad 3968 64) .p false (some (1, 3968)) ∧
        s.presence 1 3968 64 = .present ∧ word512 ((wSpad 3968 64).map (s.readKeyFor (leadOf s g).1)) = q) ∧
      (s.resolve (g.poster (leadOf s g).1) (BitVec.ofNat 64 (bits q 63 12 * 4096)) (8 * (bits q 7 0 + 1)) .load =
        .keys (wSpad 0 8) .p false (some (1, 0)) ∧ s.presence 1 0 8 = .present) ∧
      regionPages lb 1 = [0] ∧ s.kstate g.world.toNat = 1 ∧ bits q 511 192 = 0 ∧ bits q 11 8 = 0 ∧
      wPages (s.snapPages (g.poster (leadOf s g).1) [0]) = [1024] ∧ wPages (s.snapPages (g.poster (leadOf s g).1) [0x1000]) = [1025] ∧
      wPages (s.snapPages (g.poster (leadOf s g).1) [0x2000]) = [1026] ∧ wPages (s.snapPages (g.poster (leadOf s g).1) [0x0200000000000000]) = [99] ∧
      ([1025, 1026].all fun r => s.frameCls (r / 1024) == .p) = true ∧
      (held ≠ List.range 16 → ∃ h ∈ List.range 16, ∀ o ∈ s.snaps, o.handle ≠ h) ∧ (held = List.range 16 → ∀ h ∈ List.range 16, ∃ o ∈ s.snaps, o.handle = h) ∧
      (∀ i ∈ List.range 4, let k := mainKey (1026 * 4096 + i)
        isFlash k = false ∧ s.potPage (pageOf k) = false ∧ potState (s.potGet (pageOf k)) ≠ 3 ∧ s.kstate (potWorld (s.potGet (pageOf k))) = 1)) ∧
    (wVarnish [] 2).kstate 1 ≠ 1 := by decide +kernel

/-- TableInstructions, clocks: bands that the fixed clocks allow and one that they do not; a band whose ends are out of order; a plan that
waits and one that is done. -/
def wBands (n : Nat) (lo hi : Nat) : State :=
  wDev (wTab .f 0 0 0) [(dev3 + 0x8100, BitVec.ofNat 64 n), (dev3 + 0x8000, BitVec.ofNat 64 (lo + hi * 2 ^ 32))]
theorem witness_ClkPlan :
    (let q : ClkPlan := { core := 3, slot := 5, lanes := 0xF, st := 8, m := 2, used := true, done := true }
     let s := { wTab .f 0 0 0 with plan := some q }
     s.plan = some q ∧ q.core = s.cur.core ∧ q.slot = s.cur.slot) ∧
    (bits ((wBands 17 0 0).devGet (dev3 + 0x8100)) 4 0 = 17 ∧ ∃ c ∈ (wBands 1 2 1).bands, c.2 < c.1) ∧
    (∀ s ∈ [wBands 1 399000 401000, wBands 1 1400000 1400000], s.plan = none ∧ bits (s.devGet (dev3 + 0x8100)) 4 0 ≤ 16 ∧
      (∀ c ∈ s.bands, c.1 ≤ c.2)) ∧ planSearch (wBands 1 100000 100000).bands = none ∧
    planSearch (wBands 1 1400000 1400000).bands = some (1, 0) := by decide +kernel

/-- What `sD` receives. -/
def sdIs (o : Out) (n : Nat) : Bool := groupAnd o fun g => (g.s[3]?).any fun x => x.val.toNat == n

/-- R370 to R372: an owned page frees, page metadata does not while it is needed; the entry of page 1024. -/
theorem test_potSet : nextAnd (execPotSet 3 1 2 (wTab .f 0x400000 0 15)) (fun u => u.potGet 1024 == 0x1000 && u.glz 1 == 14) = true ∧
    sdIs (execPotSet 3 1 2 (wTab .f 0x402000 0 15)) (2 ^ 63 + 4) = true := by decide +kernel
theorem test_potGet : sdIs (execPotGet 3 1 (wTab .f 0x400000 0 15)) 0x2001 = true ∧ sdIs (execPotGet 3 1 (wTab .f 0x600000 0 15)) (2 ^ 63 + 6) = true := by
  decide +kernel
theorem test_gesso : sdIs (execGesso 3 1 2 { wTab .f (0x5FE000 + 2 ^ 54) 0x101 14 with trained := [0] }) (2 * 2 ^ 16) = true ∧
    sdIs (execGesso 3 1 2 { wTab .f (0x5FE000 + 2 ^ 54) 0x101 15 with trained := [0] }) (2 ^ 63 + 2 ^ 16 + 4) = true := by decide +kernel
theorem test_frameCls : sdIs (execFrameCls 3 1 2 (wTab .f 1 2 0)) (2 ^ 63 + 2) = true ∧
    nextAnd (execFrameCls 3 1 2 (wTab .f 2 2 0)) (fun u => u.frameCls 2 == .n && u.frameCls 1 == .p) = true := by decide +kernel

/-- R373. -/
theorem test_keyNew : sdIs (execKeyNew 3 1 2 (wTab .f 1 0 0)) (2 ^ 63 + 2) = true ∧
    nextAnd (execKeyNew 3 1 2 (wTab .f 63 0 0)) (fun u => u.kstate 63 == 1) = true ∧
    nextAnd (execKeyNew 3 1 2 (wTab .f 0x4000000000000001 0 0)) (fun u => u.kstate 1 == 2) = true := by decide +kernel
theorem test_keyNew_domain : nextAnd (execKeyNew 3 1 2 (wTab .f 0x8000000000000001 0xF000000000000000 0))
    (fun u => bits (u.devGet (domOff 1 + 8)) 39 32 == 1) = true := by decide +kernel

/-- R375, R389, R391, R394. -/
theorem test_hotRd : sdIs (execHotRd 3 1 2 (wTab .s 0 0xF 0)) 0 = true ∧ sdIs (execHotRd 3 1 2 (wTab .s 0 0x100 0)) (2 ^ 63 + 1) = true := by
  decide +kernel
theorem test_varnishBegin : nextAnd (execVarnishBegin 3 1 (wVarnish ((List.range 16).filter (· != 9)) 1))
    (fun u => u.snaps.length == 16) = true ∧ sdIs (execVarnishBegin 3 1 (wVarnish (List.range 16) 1)) (2 ^ 63 + 2) = true := by decide +kernel
theorem test_varnishEnd : nextAnd (execVarnishEnd 3 4 { wVarnish [0, 3] 1 with }) (fun u => u.snaps.map (·.handle) == [3]) = true := by
  decide +kernel
theorem test_clkPlan : nextAnd (execClkPlan 3 (wBands 1 1400000 1400000)) (fun u => u.plan == some { core := 3, slot := 5, lanes := 0xF, st := 1, m := 0, used := true, done := false }) = true ∧
    sdIs (execClkPlan 3 (wBands 1 100000 100000)) (2 ^ 63 + 5) = true := by decide +kernel
theorem test_clockRelock : nextAnd (execClockRelock { wTab .f 0 0 0 with plan := some { core := 3, slot := 5, lanes := 0xF, st := 1, m := 2, used := true, done := false } }) (fun u => u.plan.all (·.done) &&
    bits (u.devGet (dev3 + 0x8100)) 17 16 == 2 && bits (u.devGet (dev3 + 0x8100)) 12 8 == 1) = true := by decide +kernel

/-- A device whose group of a level names `x` in `s1` and `y` in `s2`; core 3's counters are world 1's, and world 1 has a started launch. -/
def wCnt (pr : Priv) (x y : DWord) : State :=
  { wState (wTabG pr x y) with
    cores := [{ CoreRec.reset 3 with cnsel := List.replicate 8 0x10400, cnt := List.replicate 8 0xFFFFFFFFFFFF }]
    launches := [{ wL 0 1 (some 3) [] [] [] with rem := 7, warn := 0x80000005 }, { wL 0 1 none [] [] [] with lseq := 2 ^ 32 - 1 }]
    budgets := [(63, 9, 0x80000008, true)]
    ucnt := [(0x1003, 5, 0x10400)] }

/-- CounterInstructions: the last counter of a core, of a slice, and selectors just beyond; counters of this world and not; a launch that
has started, one that has not, and none; a world's budget; both dies' pools; a compare value of this world and of another. -/
theorem witness_CounterInstructions :
    (∀ pr ∈ [Priv.u, .s, .f], ∀ p ∈ [(7, 0), (0x1003, 0xFFFFFFFFFFFFFFFF), (0x15F3, 0), (0x800000000000003F, 0xFFFFFFFFFFFFFFFF)],
      let s := wCnt pr (BitVec.ofNat 64 p.1) (BitVec.ofNat 64 p.2)
      let g := wTabG pr (BitVec.ofNat 64 p.1) (BitVec.ofNat 64 p.2)
      (s.group? s.cur.core s.cur.slot = some g) ∧ consumeS 0 100000 g 1 = some (BitVec.ofNat 64 p.1) ∧
      consumeS 0 100001 g 2 = some (BitVec.ofNat 64 p.2) ∧ (s.core g.core).cnt.length = 8 ∧ (s.core g.core).cnsel.length = 8 ∧
      (s.ucnt.map (·.1)).Pairwise (· < ·) ∧ (s.budgets.map (·.1)).Pairwise (· < ·) ∧ ((s.core g.core).tcmp.map (·.1)).Pairwise (· < ·)) ∧
    (cntSelOk 7 = true ∧ cntSelOk 8 = false ∧ cntSelOk 0x15F3 = true ∧ cntSelOk 0x1603 = false ∧ cntSelOk 0x15F4 = false ∧ cntSelOk 0x4000 = false) ∧
    (bits ((wCnt .s 7 0).cntConfig 3 7) 21 16 = 1 ∧ bitAt ((wCnt .s 7 0).cntConfig 3 7) 10 = true ∧ bits ((wCnt .s 0x15F3 0).cntConfig 3 0x15F3) 21 16 ≠ 1) ∧
    (∀ x ∈ [(0x0040000000000000 : DWord).toNat, 0x0000000100000000], bits (BitVec.ofNat 64 x) 62 54 ≠ 0 ∨ bits (BitVec.ofNat 64 x) 47 32 ≠ 0) ∧
    (let s := wCnt .s 0 0
     s.launch? 0 0 = s.launches.head? ∧ s.launch? 0 (2 ^ 32 - 1) = s.launches.getLast? ∧ s.launch? 63 0 = none ∧
      (∀ l ∈ s.launches, lrWorld l.image = 1) ∧ bits (0x800000000000003F : DWord) 53 48 = 0 ∧ bits (0x800000000000003F : DWord) 31 6 = 0) ∧
    (wCnt .f 0 0).pools.length = 2 ∧ bits (63 : DWord) 63 6 = 0 ∧ bits (64 : DWord) 63 6 ≠ 0 := by decide +kernel

/-- ErrorsAndIntervals: bytes of scratchpad and of a settled page, each grade, with a class that can make it and one that cannot; the last
register, history entry and block of a group of each class; a patrolled line with an error in its last byte; an interval of the last
controller that is just over; a plan that waits. -/
theorem witness_ErrorsAndIntervals :
    (isFlash (spadKey 3 0) = false ∧ isMain (spadKey 3 0) = false ∧ isMain (mainKey (204800 * 4096)) = true ∧
      (wRing 0 0).unsettled 204800 = false ∧ pageOf (mainKey (204800 * 4096)) = 204800) ∧
    (memGrade .p .corrected = true ∧ memGrade .d .corrected = false ∧ memGrade .n .missed = true ∧ memGrade .n .detected = false ∧
      regGrade .p .detected = true ∧ regGrade .p .missed = false ∧ regGrade .n .missed = true ∧ regGrade .d .corrected = false) ∧
    (∀ c ∈ [Cls.p, .d, .n], let g := { wG with kcls := c, gw := 64, threads := [wThread 0x1000 [] 63] }
      let s := wState g
      s.group? 3 5 = some g ∧ g.thread? 63 = some (wThread 0x1000 [] 63) ∧ (g.threads.map (·.lane)).Nodup ∧ (∀ t ∈ g.threads, t.lane < 64) ∧
        3 < (g.gw + 15) / 16) ∧
    (let line := mainKey (204800 * 4096) / 128
     let s := { wRing 0 0 with errs := [{ place := .byte (128 * line + 127), grade := .detected }] }
     isMain (128 * line) = true ∧ s.frameCls (pageOf (128 * line) / 1024) = .p ∧ s.unsettled (pageOf (128 * line)) = false ∧
      s.launch? 64 0 = none ∧ (s.budgets.map (·.1)).Pairwise (· < ·)) ∧
    (let s := { wU [] with hot := [{ n := 15, sketch := [(1, 1)], cand := [], pub := [], last := 8 }], time := 64008 }
     s.phase = .running ∧ (s.hotCtl 15).last = 8 ∧
      8 + 64000 * 2 ^ bits ((wU []).devGet (dev3 + 0x800 + 8 * 15)) 3 0 = 8 + 64000 * 2 ^ 4) ∧
    (let q : ClkPlan := { core := 3, slot := 5, lanes := 0xF, st := 0x18, m := 2, used := true, done := false }
     let s := { wU [] with plan := some q }
     s.plan = some q ∧ q.done = false ∧ q.m < 3 ∧ (s.dev.map (·.1)).Pairwise (· < ·)) := by decide +kernel

/-- DeviceRegistersAndFills: TCTL before and after EN is set, with and without world 0's key, over P frames and others; reservations that
clash, that give up pairs, that wait; a segment that is free, shadow, being zeroed; a line that is on its way. -/
theorem witness_DeviceRegisters :
    (let s := wDev (wU []) [(worldOff 0, 1)]
     s.en = false ∧ s.kstate 0 = 1 ∧ (∀ i ∈ List.range 144, s.frameCls (300 + i) = .p) ∧ (s.dev.map (·.1)).Pairwise (· < ·)) ∧
    ((wU []).kstate 0 ≠ 1 ∧ (wDev (wU []) [(dev3, 0x8000000000000000)]).en = true ∧ (wDev (wU []) [(dev3, 0x8000000000000000)]).rdy = false) ∧
    (let s := { wDev (wU []) [(worldOff 0, 0x1001), (worldOff 63, 0x802000)] with resv := [(63, 0x4001)] }
     (s.dev.map (·.1)).Pairwise (· < ·) ∧ (s.resv.map (·.1)).Pairwise (· < ·) ∧
      (((s.devGet (worldOff 0) &&& 0xFFF000) ||| (mapGet 0 s.resv 0 &&& 0xFFF000)) &&& 0x1000) ≠ 0 ∧
      ((s.devGet (worldOff 63) &&& 0xFFF000) &&& ~~~(0x2000 : DWord)) ≠ 0 ∧ ((s.devGet (worldOff 63) &&& 0xFFF000) &&& ~~~(0x80A000 : DWord)) = 0 ∧
      mapGet 0 s.resv 63 ≠ 0 ∧ mapGet 0 s.resv 0 = 0) ∧
    (let s := wDev (wU []) [(vatOff 287 126, 0x2000000000000000), (vatOff 287 0, 0xC0000001)]
     bitAt (s.vat 287 0) 30 = true ∧ s.shadowLen 287 = 1 ∧ bitAt (s.vat 287 127) 29 = true ∧ 126 + s.shadowLen 287 = 127 ∧ 127 + s.shadowLen 287 = 128 ∧
      s.savedAt 287 = false ∧ bitAt (s.vat 0 0) 30 = false) ∧
    (Memory.wf (wU []).mem = true) ∧ (wU []).phase = .running ∧ 7 ∉ (wU []).trained ∧
    (let l : ICLine := { core := 3, world := 1, line := 5, full := false, pf := false, by_ := wG.poster 0, bad := [], bytes := [] }
     ∃ x ∈ ({ wU [] with icache := [l] } : State).icache, x.core = 3 ∧ x.line = 5 ∧ x.full = false) ∧
    (8 < bits ((0 : DWord) ||| 9) 3 0) := by decide +kernel

/-- The ASID table at page 204864 and the page tables of world 1's ASID 0 at pages 204800, 204804, 204808 and 204812: virtual page 0 is
page 204816, readable and for U, and virtual page 1 is nothing; a walk for each. -/
def wWalked : State :=
  let w (id vpn : Nat) : Walk :=
    { id := id, core := 3, world := 1, asid := 0, sup := false, vpn := vpn, kind := .load, by_ := wG.poster 0, done := none }
  { wDev (wState wG) [(dev3, BitVec.ofNat 64 (2 ^ 63 + 2 ^ 62 + 300 * 2 ^ 40 + 3201 * 2 ^ 18)), (worldOff 0, 1), (worldOff 1, 1)] with
    pot := [0, 4, 8, 12, 16].map fun i => (potIdx (204800 + i), 0x2001)
    trained := [0], walks := [w 4 0, w 5 1]
    mem := memFill (memFill (memFill (memFill (memFill [] (mainKey (204800 * 4096)) (toBytes (204804 * 4096 + 1) 8))
      (mainKey (204804 * 4096)) (toBytes (204808 * 4096 + 1) 8)) (mainKey (204808 * 4096)) (toBytes (204812 * 4096 + 1) 8))
      (mainKey (204812 * 4096)) (toBytes (204816 * 4096 + 0x13) 8)) (mainKey (204864 * 4096)) (toBytes (0x41 + 204800 * 4096 * 2 ^ 128) 32) }

/-- What a walk makes: page, count and physical page, or a fault. -/
def wWalk (e : Except FaultCode Tlb) : Sum FaultCode (Nat × Nat × Nat) :=
  match e with
  | .error c => .inl c
  | .ok t => .inr (t.vpn, t.pages, t.ppn)

/-- DeviceRegistersAndFills: a walk that ends with an entry, and one that ends with a fault. -/
theorem witness_Walks :
    wWalked.rdy = true ∧ wWalked.errs = [] ∧ (wWalked.walks.map fun w => wWalk (wWalked.walk w)) = [.inr (0, 1, 204816), .inl .pageMiss] ∧
      (wWalked.walks.find? fun x => x.id == 4 && x.done.isNone) = wWalked.walks.head? ∧
      (wWalked.walks.find? fun x => x.id == 5 && x.done.isNone) = wWalked.walks.getLast? := by decide +kernel

/-- R412, R415 to R417. -/
theorem test_cntCfg : sdIs (execCntCfg 3 1 2 (wCnt .s 7 0xFFFFFFFFFFFFFFFF)) 0x10400 = true ∧
    nextAnd (execCntCfg 3 1 2 (wCnt .s 7 0xFFFFFFFFFFFFFFFF)) (fun u => u.cntConfig 3 7 == 0x1073F) = true := by decide +kernel
theorem test_cntRd : sdIs (execCntRd 3 1 (wCnt .u 7 0)) (2 ^ 48 - 1) = true ∧ sdIs (execCntRd 3 1 (wCnt .u 0x1003 0)) 5 = true := by decide +kernel
theorem test_cntClr : sdIs (execCntClr 3 1 (wCnt .s 0x1003 0)) 5 = true ∧
    nextAnd (execCntClr 3 1 (wCnt .s 7 0)) (fun u => u.cntValue 3 7 == 0 && u.cntValue 3 6 == 0xFFFFFFFFFFFF) = true := by decide +kernel
theorem test_ebudSet : sdIs (execEbudSet 3 1 2 (wCnt .s 0 0x0000000600000009)) 7 = true ∧
    nextAnd (execEbudSet 3 1 2 (wCnt .s 0 0x0000000600000009)) (fun u => u.launches.map (fun l => (l.rem, l.warn)) == [(9, 6), (0, 0)]) = true := by
  decide +kernel
theorem test_ebudRd : sdIs (execEbudRd 3 1 (wCnt .f 0x800000000000003F 0)) 0x0000000800000009 = true ∧
    sdIs (execEbudRd 3 1 (wCnt .s 0xFFFFFFFF 0)) (2 ^ 63 + 5) = true := by decide +kernel
theorem test_tokLim : sdIs (execTokLim 3 1 2 (wCnt .f 1 600)) 560 = true ∧
    nextAnd (execTokLim 3 1 2 (wCnt .f 1 600)) (fun u => u.pools == [(560, 0), (576, 0)]) = true := by decide +kernel
theorem test_tcmpSet : nextAnd (execTcmpSet 3 1 2 (wCnt .f 5 63)) (fun u => u.tcmp 3 63 == 5) = true ∧
    sdIs (execTcmpSet 3 1 2 (wCnt .s 5 63)) (2 ^ 63 + 1) = true := by decide +kernel

/-- R103, R206, R207, R374. -/
theorem test_softError : nextAnd (execSoftError (.byte (spadKey 3 0)) .corrected 1 (wU [])) (fun u => u.errs.length == 1 && u.mem.isEmpty) = true ∧
    laneAnd (execSoftError (.reg 3 5 2 31) .missed 0x10 (wState { wG with kcls := .n })) 2 (fun t => regAt t 31 == 0x10) = true := by decide +kernel
theorem test_patrol :
    let line := mainKey (204800 * 4096) / 128
    nextAnd (execPatrol line { wRing 0 0 with errs := [{ place := .byte (128 * line + 127), grade := .detected }], budgets := [(1, 17, 0, false)] })
      (fun u => u.errs.isEmpty && (u.budget 1).1 == 1 && u.poisoned.contains (2 * line)) = true := by decide +kernel
theorem test_hotnessIntervalEnd : nextAnd (execHotnessIntervalEnd 15 { wU [] with time := 1024000 }) (fun u =>
      u.hot.map (fun h => (h.n, h.last)) == [(15, 1024000)]) = true ∧
    nextAnd (execHotnessIntervalEnd 15 { wU [] with time := 1023999 }) (fun u => u.stalled) = true := by decide +kernel

/-- R355, R357, R367, R385, R422, R423, R430, R432. -/
theorem test_tctlWrite : nextAnd (execTctlWrite 0x80012C0000000000 (wDev (wU []) [(worldOff 0, 1)])) (fun u => u.en && !u.rdy && u.glz 0 == 73792 &&
    u.potGet 0 == 0x8000 && u.potGet 64 == 0x1000 && u.potGet (300 * 1024 + 511) == 0x8000 && u.potGet (300 * 1024 + 512) == 0x1000) = true := by
  decide +kernel
theorem test_potInitialisationDone : nextAnd (execPotInitialisationDone { wDev (wU []) [(dev3, 0x8000000000000000)] with trained := List.range 8 }) (fun u => u.rdy) = true := by
  decide +kernel
theorem test_worldTableReserveWrite : nextAnd (execWorldTableReserveWrite 1 0x1000 (wDev (wU []) [(worldOff 0, 0x1001)]))
    (fun u => u.devGet (worldOff 1) == 0) = true ∧
    nextAnd (execWorldTableReserveWrite 1 0x806000 (wDev (wU []) [(worldOff 0, 0x1001)])) (fun u => u.devGet (worldOff 1) == 0x806000) = true := by
  decide +kernel
theorem test_wayGlazingDone : nextAnd (execWayGlazingDone 63 { wDev (wU []) [(worldOff 63, 0x802001)] with resv := [(63, 0x4001)] })
    (fun u => u.devGet (worldOff 63) == 0x4001 && u.resv.isEmpty) = true := by decide +kernel
theorem test_vaultAllocationWrite : nextAnd (execVaultAllocationWrite 287 127 0x20000000 (wU [])) (fun u => u.vat 287 127 == 0x60000000) = true ∧
    nextAnd (execVaultAllocationWrite 287 126 0x20000000 (wU [])) (fun u => u.vat 287 126 == 0) = true := by decide +kernel
theorem test_segmentZeroingDone : nextAnd (execSegmentZeroingDone 287 127 { wDev (wU []) [(vatOff 287 126, 0x6000000000000000)] with
      mem := memSet [] (vaultKey (vaultOff 287 (127 * 65536 + 65535))) 1 }) (fun u => u.vat 287 127 == 0x20000000 && u.mem.isEmpty) = true := by
  decide +kernel
theorem test_flashProgram : nextAnd (execFlashProgram 65535 [0x0F, 0xF0] { wU [] with mem := memSet [] (flashKey 65535) 0xAA })
    (fun u => memGet u.mem (flashKey 65535) == 0x0A && memGet u.mem (flashKey 65536) == 0xF0 && u.busy == [(65535, 1), (65536, 1)]) = true := by decide +kernel
theorem test_sectorErase : nextAnd (execSectorErase 65536 { wU [] with mem := memFill [] (flashKey 65535) [1, 2] })
    (fun u => memGet u.mem (flashKey 65535) == 1 && memGet u.mem (flashKey 65536) == 0xFF && u.busy == [(65536, 65536)]) = true := by decide +kernel
theorem test_flashOperationDone : nextAnd (execFlashOperationDone 131071 { wU [] with busy := [(65540, 4), (131072, 8), (131000, 4)] }) (fun u => u.busy == [(131072, 8)]) = true := by
  decide +kernel
theorem test_deviceRegisterWrite : nextAnd (execDeviceRegisterWrite (dev3 + 0x800) 4 0xFFFFFFFF (wU [])) (fun u => u.devGet (dev3 + 0x800) == 0x108) =
    true := by decide +kernel
theorem test_stackTrainingDone : nextAnd (execStackTrainingDone 7 (wU [])) (fun u => u.trained == [7]) = true := by decide +kernel
theorem test_icacheFill : nextAnd (execIcacheFill 3 5 { wU [] with
      icache := [{ core := 3, world := 1, line := 5, full := false, pf := false, by_ := wG.poster 0, bad := [], bytes := [] }], mem := [(767, 9)] })
    (fun u => u.icache.all fun l => l.full && l.bytes.length == 128 && l.bytes.getD 127 0 == 9) = true := by decide +kernel
theorem test_translationWalkDone : nextAnd (execTranslationWalkDone 4 wWalked)
    (fun u => u.tlbs.map (fun t => (t.vpn, t.ppn, t.r, t.w, t.x, t.u)) == List.replicate 2 (0, 204816, true, false, false, true) && u.walks.length == 1) = true ∧
    nextAnd (execTranslationWalkDone 5 wWalked) (fun u => u.walks.map (·.done) == [none, some .pageMiss]) = true := by decide +kernel

/-- The cells of bytes from a key on, of which zeros are not listed. -/
def wCells (k : Nat) (bs : List Byte) : List Host.Cell := (((List.range bs.length).map (k + ·)).zip bs).filter fun c => c.2 != 0#8

/-- A device of which a flow rule of die 1 steers UDP over IPv4 from port 7 to a ring of world 1 in the vault segment, of four slots of 256
bytes, for which core 3 is told; the header's indices, and whether it pauses. -/
def wIngest (rule widx ridx : Nat) (pfc : Bool) (more : Nat) : State :=
  let o := 4 * 2 ^ 40 + 0x10000 + 64 * rule
  { wDev (wU []) [(vatOff 0 0, 0x80000801), (o + 8, 0x0400000000000000), (o + 16, 0x80C1), (o + 24, wVault)] with
    teams := []
    mem := wCells (vaultKey 0) (toBytes (wVault.toNat + 256 + 8 * 2 ^ 444 + 2 * 2 ^ 448 + 3 * 2 ^ 453 + 2 ^ 462 + pfc.toNat * 2 ^ 463 +
      9 * 2 ^ 464 + widx * 2 ^ 480 + ridx * 2 ^ 512 + more) 128) }

/-- A packet of some length. -/
def wRaw (n : Nat) : RawPacket :=
  { port := 7, good := true, ipv6 := false, tcp := false, sip := 0x01020304, dip := 0, sport := 0xABCD, dport := 5, data := List.replicate n 0x55 }

/-- The ring as it is read. -/
def wHdr (s : State) : RingHdr := (s.ringHdr wVault).getD { addr := 0, keys := [], h := 0, bad := true }

/-- InputAndStorage, packets: one that no rule steers; the longest that a slot holds, and one byte more; a ring with room, full with PFC, and one with a
reserved bit set; a packet held, its ring with room and full. -/
theorem witness_Ingest :
    (∀ p ∈ [(2 ^ 32 - 1, 2 ^ 32 - 1, 0, 0), (2 ^ 32 - 1, 2 ^ 32 - 5, 1, 0), (4, 0, 0, 2 ^ 672)],
      let s := wIngest 0 p.1 p.2.1 (p.2.2.1 == 1) p.2.2.2
      s.errs = [] ∧ s.snaps = [] ∧ s.ucnt = [] ∧ s.steer 1 (wRaw 224) = some 0 ∧ s.ringHdr (ruleRing (s.flowRule 1 0)) = some (wHdr s) ∧
        ((wHdr s).bad, (wHdr s).full, bitAt (wHdr s).h 463) = (decide (p.2.2.2 ≠ 0), decide (p.1 = (p.2.1 + 4) % 2 ^ 32), p.2.2.1 == 1) ∧
        s.pauseSpent wVault = false ∧ s.heldFor 1 wVault = []) ∧
    ruleMatches ((wIngest 1023 0 0 false 0).flowRule 1 1023) (wRaw 224) = true ∧
    (let s := wIngest 0 0 0 false 0
     ((wHdr s).addr, (wHdr s).keys, bits (wHdr s).h 447 444) = (wVault, (List.range 128).map vaultKey, 8) ∧ ruleWorld (s.flowRule 1 0) = 1) ∧
    (let s := wIngest 0 (2 ^ 32 - 1) (2 ^ 32 - 1) false 0
     let ks := (List.range 256).map fun i => vaultKey (256 + 768 + i)
     ringKeys ((wHdr s).h.extractLsb' 0 64 + BitVec.ofNat 64 (2 ^ 8 * ((2 ^ 32 - 1) % 2 ^ bits (wHdr s).h 452 448))) (2 ^ 8) = some ks ∧
      s.ownedBy 1 ks = true ∧ Memory.wf s.mem = true ∧ s.ownedBy 1 (wHdr s).keys = true ∧ s.ownedBy 2 (wHdr s).keys = false ∧
      (ks.take 32 ++ (wHdr s).keys).Nodup ∧ (∀ k ∈ ks ++ (wHdr s).keys, isFlash k = false ∧ isMain k = false) ∧ s.irqHeld 3 0 wVault = false ∧
      bits (wHdr s).h 461 453 = 3 ∧ bitAt (wHdr s).h 462 = true) ∧
    (224 + 32 ≤ 2 ^ 8 ∧ 2 ^ 8 < 225 + 32) := by decide +kernel

/-- A packet held back, and its ring's claim. -/
def wHeldPkt : Held := { id := 4, die := 1, rule := 1023, ring := wVault, pkt := wRaw 224 }
def wPause : Pause := { ring := wVault, claims := [(7, 0)], start := 0, used := 4000, on := true, spent := false }

/-- InputAndStorage, pauses and doorbells: a held packet whose ring has room; a budget that has just run out; the oldest doorbell. -/
theorem witness_Held :
    (let s := { wIngest 1023 4 1 true 0 with held := [wHeldPkt], pauses := [wPause], time := 5000 }
     (s.held.find? fun x => x.id == 4) = some wHeldPkt ∧ (s.heldFor 1 wVault).head? = some wHeldPkt ∧ s.ringHdr wVault = some (wHdr s) ∧
      (wHdr s).full = false ∧ s.pauseOf wVault = some wPause ∧ wPause.on = true ∧
      1000 * bits (wHdr s).h 479 464 ≤ wPause.used + (s.time.toNat - wPause.start) ∧ (7, 0) ∈ wPause.claims) ∧
    (let b : Bell := { id := 4, port := 3, qid := 64, head := true, val := 9 }
     let s := { wU [] with bells := [b, { b with id := 5 }] }
     (s.bells.find? fun c => c.id == b.id) = some b ∧ (s.bells.find? fun c => c.port == b.port && c.qid == b.qid) = some b) := by decide +kernel

/-- A device with the last queue pair of port 3, of world 1, its queues and its doorbells in the vault segment, or its doorbells nowhere. -/
def wNvme (bell : DWord) : State :=
  let o := nvmeOff 3 64
  { wDev (wU []) [(vatOff 0 0, 0x80000801), (o + 32, BitVec.ofNat 64 (4 + 8 + 3 * 16 + 2 ^ 13 + 1 * 2 ^ 32 + 1 * 2 ^ 48)), (o + 40, bell), (o + 48, wVault + 64),
      (o + 56, wVault + 128)] with teams := [] }

/-- InputAndStorage, storage: queue pairs that exist, are not valid, or do not exist; doorbells that translate and not; data within the
segment, and an address that leads nowhere, outside the queues and inside; the same of the admin queue. -/
theorem witness_Storage :
    (let e := (wNvme wVault).dev512 (nvmeOff 3 64)
     bitAt e 258 = true ∧ bitAt ((wNvme wVault).dev512 (nvmeOff 3 63)) 258 = false ∧ (wNvme wVault).bellOk e = true ∧ (wNvme wVault).errs = [] ∧
      (wNvme wVault).snaps = [] ∧
      (∀ k ∈ [AKind.load, .store], (wNvme wVault).nvmeSpan e (wVault + 65528) 8 k = .keys ((List.range 8).map fun i => vaultKey (65528 + i)) []) ∧
      (∀ p ∈ [(AKind.load, 1), (.store, 2)], (wNvme wVault).nvmeSpan e wNowhere 8 p.1 = .fault { code := .aperture, acc := p.2, addr := wNowhere, addr2 := 0 }) ∧
      inQueues e wNowhere = false ∧ inQueues e (wVault + 64) = true ∧ inQueues e (wVault + 128 + 127) = true ∧ inQueues e (wVault + 256) = false ∧
      (wNvme wVault).nvmeSpan e (e.extractLsb' 384 64 + BitVec.ofNat 64 (16 * (1 % (bits e 303 288 + 1)))) 16 .store =
        .keys ((List.range 16).map fun i => vaultKey (80 + i)) [] ∧
      (∀ k ∈ (List.range 16).map (fun i => vaultKey (80 + i)), isFlash k = false ∧ isMain k = false) ∧
      bitAt e 259 = true ∧ bits e 268 260 = 3 ∧ bits e 274 269 = 1) ∧
    (let s := { wDev (wU []) [(vatOff 0 0, 0x80000800)] with teams := [] }
     (∀ k ∈ [AKind.load, .store], s.adminSpan wVault 8 k = .keys ((List.range 8).map vaultKey) []) ∧
      ∀ p ∈ [(AKind.load, 1), (.store, 2)], s.adminSpan wNowhere 8 p.1 = .fault { code := .aperture, acc := p.2, addr := wNowhere, addr2 := 0 }) ∧
    (let s := wNvme wNowhere
     s.bellOk (s.dev512 (nvmeOff 3 64)) = false ∧ (s.dev.map (·.1)).Pairwise (· < ·)) := by decide +kernel

/-- R345: the entry in the last slot: SEQ, LEN, SPORT, PORT, IP; and the core is told. -/
theorem test_ingestPacket : nextAnd (execIngestPacket (wRaw 2) (wRoom (wIngest 0 7 4 false 0)))
    (fun u => leNat ((List.range 36).map fun i => u.readKey (vaultKey (1024 + i))) ==
        8 + 2 * 2 ^ 64 + 0xABCD * 2 ^ 96 + 7 * 2 ^ 112 + 0x01020304 * 2 ^ 128 + 0x5555 * 2 ^ 256 &&
      leNat ((List.range 4).map fun i => u.readKey (vaultKey (60 + i))) == 8 &&
      u.easel.map (fun e => (e.core, e.body.kind, e.body.a.take 2)) == [(3, 6, [7, wVault])]) = true := by decide +kernel
theorem test_ingestPacket_held : nextAnd (execIngestPacket (wRaw 2) (wIngest 0 4 0 true 0))
    (fun u => u.held.length == 1 && u.xoff 7 0 && !u.xoff 6 0) = true := by decide +kernel
theorem test_ingestHeldWrite : nextAnd (execIngestHeldWrite 4 { wIngest 1023 4 1 true 0 with held := [wHeldPkt], pauses := [wPause], time := 5000 })
    (fun u => u.held.isEmpty && !u.xoff 7 0 && u.readKey (vaultKey (256 + 32)) == 0x55) = true := by decide +kernel
theorem test_pauseBudgetExpiry : nextAnd (execPauseBudgetExpiry 1 1023 { wIngest 1023 4 0 true 0 with held := [wHeldPkt], pauses := [wPause], time := 5000 })
    (fun u => u.held.isEmpty && !u.xoff 7 0 && leNat ((List.range 4).map fun i => u.readKey (vaultKey (72 + i))) == 1 &&
      leNat ((List.range 4).map fun i => u.readKey (vaultKey (68 + i))) == 5) = true := by decide +kernel
theorem test_xoffRefresh : nextAnd (execXoffRefresh 7 0 { wIngest 1023 4 0 true 0 with pauses := [wPause] }) (fun u => !u.stalled) = true ∧
    nextAnd (execXoffRefresh 6 0 { wIngest 1023 4 0 true 0 with pauses := [wPause] }) (fun u => u.stalled) = true := by decide +kernel

/-- R348 to R350. -/
theorem test_doorbellWrite : nextAnd (execDoorbellWrite 5 { wU [] with bells := [{ id := 4, port := 3, qid := 64, head := true, val := 9 },
      { id := 5, port := 2, qid := 64, head := false, val := 8 }] }) (fun u => u.rung.map (·.val) == [8] && u.bells.map (·.val) == [9]) = true := by
  decide +kernel
theorem test_ssdDataAccess : nextAnd (execSsdDataAccess 3 64 true (wVault + 65528) 0 [1, 2, 3] (wNvme wVault))
    (fun u => (List.range 3).map (fun i => u.readKey (vaultKey (65528 + i))) == [1, 2, 3]) = true ∧
    nextAnd (execSsdDataAccess 3 64 false wVault 8 [] (wNvme wNowhere)) (fun u => !bitAt (u.dev512 (nvmeOff 3 64)) 258) = true := by decide +kernel
theorem test_nvmeCompletion : nextAnd (execNvmeCompletion 3 64 1 0x11223344 (wRoom (wNvme wVault)))
    (fun u => u.readKey (vaultKey 80) == 0x44 && u.easel.map (fun e => (e.core, e.body.kind, e.body.num, e.body.world, e.body.a.take 2)) ==
      [(3, 6, 1, 1, [3, 64])]) = true := by decide +kernel

/-- PowerAndReset: a part in each phase, flash with a byte in it. What a part's self-test finds, its root key and its identity are open
(Config), so that no state shows which way they go; of the header, all else that R424 checks is in order here. -/
theorem witness_PowerAndReset :
    (∀ p ∈ [Phase.off, .held, .rom, .running, .failed, .tripped], ({ wU [] with phase := p } : State).phase = p) ∧
    (let h := BootHeader.of (toBytes (0x4B474D49 + 2 ^ 32 + 0x1000 * 2 ^ 64 + 0x2000 * 2 ^ 96 + 0x10000 * 2 ^ 128 + 4 * 2 ^ 160) 512)
     leNat (h.bytes.take 4) = 0x4B474D49 ∧ leNat ((h.bytes.drop 4).take 2) = 1 ∧ (h.bytes.drop 296).all (· == 0#8) = true ∧
      h.entry % 4 = 0 ∧ h.imgo % 65536 = 0 ∧ h.hlpo % 4096 = 0 ∧ h.cfgo % 4096 = 0 ∧ 1 ≤ h.imgsz ∧ h.imgo + h.imgsz ≤ flashSize) ∧
    Memory.wf [(vaultKey 0, 1), (flashKey 5, 2)] = true := by decide +kernel

theorem test_powerRemoval : nextAnd (execPowerRemoval { wU [] with mem := [(vaultKey 0, 1), (flashKey 5, 2)] }) (fun u =>
    u.phase == .off && u.groups.isEmpty && u.mem == [(flashKey 5, 2)]) = true := by decide +kernel
theorem test_resetNAsserted : nextAnd (execResetNAsserted (wU [])) (fun u => u.phase == .held) = true ∧
    nextAnd (execResetNAsserted { wU [] with phase := .tripped }) (fun u => u.phase == .tripped) = true := by decide +kernel
theorem test_thermtrip : nextAnd (execThermtrip (wU [])) (fun u => u.phase == .tripped) = true := by decide +kernel
theorem test_pinReset : nextAnd (execPinReset { wU [] with phase := .off }) (fun u => u.phase == .off) = true := by decide +kernel

/-- FIPS 180-4's own example: SHA-512 of "abc", its first eight bytes. -/
theorem test_sha512 : ((sha512 [0x61, 0x62, 0x63]).take 8) = [0xdd, 0xaf, 0x35, 0xa1, 0x93, 0x61, 0x7a, 0xba] := by decide +kernel

/-- A device that is about to run an instruction word, and its cohort. -/
def wRun (w : Nat) : State := State.reset.withFetchWord 32 w
def wCohort : Cohort := ((wRun 0x010C1800).moves.filterMap fun m => match m with
  | .issue c => some c
  | _ => none).headD { core := 9, slot := 9, lanes := 0, quarter := 0, since := 0, cls := 0 }

/-- StepRunsTheDecodedInstruction: `add v3, v1, v2`'s word, and a word that is no instruction. -/
theorem witness_StepRuns : ∀ w ∈ [0x010C1800, 0],
    (wRun w).phase = .running ∧ (wRun w).moves = [.issue wCohort] ∧ (wCohort.core, wCohort.slot, wCohort.lanes) = (0, 0, 0xFF) ∧
      ((wRun w).group? 0 0).any (fun g => match (g.inMask wCohort.lanes) with
        | t :: _ => t.lane == 0 && (wRun w).fetch (g.poster t.lane) t.pc == .words [BitVec.ofNat 32 w]
        | [] => false) = true ∧
      ({ wRun w with cur := { core := 0, slot := 0, lanes := 0xFF, words := [BitVec.ofNat 32 w] } } : State).cohortMarks = [] := by decide +kernel

/-- StepRunsTheDecodedInstruction: nothing packs with the only cohort; another group of the same launch at the same `pc` does. -/
theorem witness_Packed : (wRun 0x010C1800).packed wCohort ((wRun 0x010C1800).groups.flatMap (wRun 0x010C1800).readyOf) = [] ∧
    (let s : State := wRun 0x010C1800
     let s2 : State := { s with groups := s.groups ++ s.groups.map (fun g : Group => ({ g with slot := 4 } : Group)) }
     (s2.packed wCohort (s2.groups.flatMap s2.readyOf)).map (fun c : Cohort => c.slot) = [4]) := by decide +kernel

/-- DecodeEncode. -/
theorem witness_DecodeEncode : (Instr.add 30 0 62 true none).wellFormed = true ∧ encode (.add 30 0 62 true none) ≠ [] ∧
    (Instr.csrr 31 0x06F).wellFormed = true ∧ encode (.csrr 31 0x06F) ≠ [] := by decide

/-- EveryStepKeepsStorageCanonical, EveryStepKeepsLanes: the reset state, and a device with groups, pools and tables in use. -/
theorem witness_Canonical : Canonical State.reset ∧ Canonical (wCnt .s 7 0) := by
  refine ⟨{ memory := rfl, tables := ?_, counters := ?_, pools := rfl },
    { memory := ?_, tables := ?_, counters := ?_, pools := ?_ }⟩ <;> try unfold Rising
  all_goals decide +kernel

/-- EveryStepKeepsLanes: the reset state, and a device with a group, an image and a queued launch. -/
theorem witness_LanesOk : LanesOk State.reset ∧ LanesOk { wSaved with launches := [wL 0 1 none [] [] []] } := by
  refine ⟨{ resident := fun g h => (nomatch h), saved := fun i h => (nomatch h), queued := fun l h => (nomatch h) },
    { resident := ?_, saved := ?_, queued := ?_ }⟩ <;> decide +kernel

/-- EveryStepKeepsTheInvariant: the reset state meets the invariant, and its step answers a state. -/
theorem witness_EveryStep : Inv State.reset ∧ Answers (step (wRun 0x010C1800)) := by
  refine ⟨{ settled := ⟨rfl, rfl⟩, requests := (fun r h => nomatch h), tokens := (fun t h => nomatch h) }, ?_⟩
  have h : (match step (wRun 0x010C1800) with
    | .next _ => true
    | _ => false) = true := by decide +kernel
  revert h
  cases step (wRun 0x010C1800) with
  | next t => exact fun _ => ⟨t, rfl⟩
  | fault f => intro h; cases h
  | refused r => intro h; cases h

/-! ## Decoding: words laid out from the tables of the encoding chapter -/

/-- An R-format word: OP 29..24, D 23..18, A 17..12, B 11..6, F 5..0 (R53). -/
def rWord (op d a b f : Nat) : Word := BitVec.ofNat 32 (op * 2 ^ 24 + d * 2 ^ 18 + a * 2 ^ 12 + b * 2 ^ 6 + f)

/-- An I-format word: L 31..30, F 11..8, IMM8 7..0 (R54). -/
def iWord (l op d a f i : Nat) : Word := BitVec.ofNat 32 (l * 2 ^ 30 + op * 2 ^ 24 + d * 2 ^ 18 + a * 2 ^ 12 + f * 2 ^ 8 + i)

/-- A B-format word: C 23..18, K 17..14, OFF14 13..0 (R55). -/
def bWord (l op c k o : Nat) : Word := BitVec.ofNat 32 (l * 2 ^ 30 + op * 2 ^ 24 + c * 2 ^ 18 + k * 2 ^ 14 + o)

/-- An M-format word: SZ 11..9, ORD 8..6, SCP 5..2, AT 1..0 (R56). -/
def mWord (l op d a s o q t : Nat) : Word :=
  BitVec.ofNat 32 (l * 2 ^ 30 + op * 2 ^ 24 + d * 2 ^ 18 + a * 2 ^ 12 + s * 2 ^ 9 + o * 2 ^ 6 + q * 2 ^ 2 + t)

/-- An atomic word: AOP 11..8, AORD 7..6, NR 5, SCP 4..1, WD 0 (R57). -/
def aWord (d a op r nr q w : Nat) : Word :=
  BitVec.ofNat 32 (0x14 * 2 ^ 24 + d * 2 ^ 18 + a * 2 ^ 12 + op * 2 ^ 8 + r * 2 ^ 6 + nr * 2 ^ 5 + q * 2 + w)

/-- A prefix word: MSK 23..21, INV 20, Z 19, RM 18..16, C 15..10, SAT 9..8 (R60). -/
def pWord (l msk inv z rm c sat : Nat) : Word :=
  BitVec.ofNat 32 (l * 2 ^ 30 + 0x3F * 2 ^ 24 + msk * 2 ^ 21 + inv * 2 ^ 20 + z * 2 ^ 19 + rm * 2 ^ 16 + c * 2 ^ 10 + sat * 2 ^ 8)

/-- The decoder reads these words as this instruction. -/
def reads (ws : List Word) (i : Instr) : Bool := decide (decode ws = .ok i)

/-- The decoder refuses these words. -/
def refuses (ws : List Word) : Bool :=
  match decode ws with
  | .ok _ => false
  | .bad _ => true

/-- R68: both widths of the two-source minors 0x00 to 0x15 and 0x18. -/
theorem test_decode_vint_two_sources :
    ([(0x00, .add), (0x01, .sub), (0x02, .mul), (0x03, .mulhi), (0x04, .mulhn), (0x05, .divI), (0x06, .divN), (0x07, .remI),
      (0x08, .remN), (0x09, .minI), (0x0A, .minN), (0x0B, .maxI), (0x0C, .maxN), (0x0D, .and), (0x0E, .or), (0x0F, .xor),
      (0x10, .andn), (0x11, .orn), (0x12, .shl), (0x13, .shr), (0x14, .sra), (0x15, .rol), (0x16, .addc), (0x17, .subc),
      (0x18, .mad)] : List (Nat × (Sel → Sel → Sel → Bool → Option Pfx → Instr))).all
      (fun p => reads [rWord 0x01 4 2 0x22 p.1] (p.2 4 2 0x22 false none)
        && reads [rWord 0x01 4 2 0x22 (p.1 + 0x20)] (p.2 4 2 0x22 true none)) = true := by
  decide +kernel

/-- R68: the minors without a 64-bit form, and `sel.b64`. -/
theorem test_decode_vint_other :
    ([(0x19, .bfxI), (0x1A, .bfxN), (0x1B, .bfi), (0x1C, .sel), (0x1D, .bsel), (0x1F, .lea), (0x39, .selB64), (0x3A, .dot4Ii),
      (0x3B, .dot4Nn), (0x3C, .dot4In), (0x3D, .dot8Ii), (0x3E, .dot8Nn), (0x3F, .dot8In)] :
      List (Nat × (Sel → Sel → Sel → Option Pfx → Instr))).all
      (fun p => reads [rWord 0x01 6 8 10 p.1] (p.2 6 8 10 none)) = true := by
  decide +kernel

/-- R68: the unary group. -/
theorem test_decode_unary :
    (([(0, .abs), (1, .neg), (2, .clz), (3, .ctz), (4, .popc), (5, .brev), (6, .mov)] :
      List (Nat × (Sel → Sel → Bool → Option Pfx → Instr))).all
      (fun p => reads [rWord 0x01 6 8 p.1 0x1E] (p.2 6 8 false none) && reads [rWord 0x01 6 8 (p.1 + 0x20) 0x1E] (p.2 6 8 true none))
    && reads [rWord 0x01 6 9 7 0x1E] (.extI 6 9 none) && reads [rWord 0x01 6 9 8 0x1E] (.extN 6 9 none)) = true := by
  decide +kernel

/-- R69, R54: the immediates, without and with a literal (words `0x89ABCDEF`, `0x01234567`, low word first). -/
theorem test_decode_vint_immediates :
    (([(0x0, .addImm), (0x1, .add64Imm), (0x2, .mulImm), (0x3, .andImm), (0x4, .orImm), (0x5, .xorImm), (0x6, .shlImm),
      (0x7, .shrImm), (0x8, .sraImm), (0x9, .minIImm), (0xA, .maxIImm), (0xD, .leaImm)] :
      List (Nat × (Sel → Sel → Imm8 → Option Imm → Option Pfx → Instr))).all
      (fun p => reads [iWord 0 0x02 12 2 p.1 0x85] (p.2 12 2 0x85 none none)
        && reads [iWord 2 0x02 12 2 p.1 0, 0x89ABCDEF, 0x01234567] (p.2 12 2 0 (some 0x0123456789ABCDEF) none))
    && reads [iWord 0 0x02 12 0x3E 0xB 0x85] (.moviB32 12 0x85 none)
    && reads [iWord 0 0x02 12 0x3E 0xC 0x85] (.moviB64 12 0x85 none)
    && reads [iWord 2 0x02 12 0x3E 0xB 0, 0x89ABCDEF, 0x01234567] (.litB32 12 0x0123456789ABCDEF none)
    && reads [iWord 2 0x02 12 0x3E 0xC 0, 0x89ABCDEF, 0x01234567] (.litB64 12 0x0123456789ABCDEF none)) = true := by
  decide +kernel

/-- R70: every operation of VFP and VSFU, of type f32 (0), f64 (1), f16x2 (2) and bf16x2 (3) in turn. -/
theorem test_decode_float :
    (([(0x0, .fadd), (0x1, .fsub), (0x2, .fmul), (0x3, .fma), (0x4, .fnma), (0x5, .fmin), (0x6, .fmax), (0x7, .fminm), (0x8, .fmaxm),
      (0x9, .fdiv), (0xD, .fsgn)] : List (Nat × (Sel → Sel → Sel → FTy → Option Pfx → Instr))).all
      (fun p => reads [rWord 0x03 6 8 10 p.1] (p.2 6 8 10 .f32 none) && reads [rWord 0x03 6 8 10 (0x10 + p.1)] (p.2 6 8 10 .f64 none))
    && ([(0x5, .fmin), (0x6, .fmax), (0x0, .fadd), (0x2, .fmul)] : List (Nat × (Sel → Sel → Sel → FTy → Option Pfx → Instr))).all
      (fun p => reads [rWord 0x03 6 8 10 (0x20 + p.1)] (p.2 6 8 10 .f16x2 none)
        && reads [rWord 0x03 6 8 10 (0x30 + p.1)] (p.2 6 8 10 .bf16x2 none))
    && reads [rWord 0x03 6 8 10 0x0F] (.fscale 6 8 10 .f32 none)
    && ([(0xA, .fsqrt), (0xB, .fabs), (0xC, .fneg), (0xE, .fclass)] : List (Nat × (Sel → Sel → FTy → Option Pfx → Instr))).all
      (fun p => reads [rWord 0x03 6 8 0 p.1] (p.2 6 8 .f32 none) && reads [rWord 0x03 6 8 0 (0x10 + p.1)] (p.2 6 8 .f64 none))
    && ([(0x0, .frcp), (0x1, .frsq), (0x2, .fex2), (0x3, .flg2), (0x4, .fsin), (0x5, .fcos), (0x6, .ftanh)] :
      List (Nat × (Sel → Sel → FTy → Option Pfx → Instr))).all
      (fun p => reads [rWord 0x04 6 8 0 p.1] (p.2 6 8 .f32 none))) = true := by
  decide +kernel

/-- R71: `fcvt.bf16.f32`, `fcvt.e4m3.f32.nosat`, `fcvt.n64.f64`, `fround.f16`, `fsplit.bf16`, `fpack` to e5m2, `funpk` from
e2m1. -/
theorem test_decode_conversions :
    (reads [rWord 0x05 6 8 1 3] (.fcvt 6 8 false .f32 .bf16 none)
      && reads [rWord 0x05 6 8 0x11 4] (.fcvt 6 8 true .f32 .e4m3 none)
      && reads [rWord 0x05 6 8 0 0xB] (.fcvt 6 8 false .f64 .n64 none)
      && reads [rWord 0x05 6 8 0 0x12] (.fround 6 8 .f16 none)
      && reads [rWord 0x05 8 8 3 0x20] (.fsplitBf16 8 8 none)
      && reads [rWord 0x05 6 8 5 0x21] (.fpack 6 8 .e5m2 none)
      && reads [rWord 0x05 6 8 6 0x22] (.funpk 6 8 .e2m1 none)) = true := by
  decide +kernel

/-- R72. -/
theorem test_decode_complex :
    (([(0, .caddCi16), (1, .caddCi32), (2, .cmulCi16), (3, .cmacCi16), (4, .cmacCi8)] :
      List (Nat × (Sel → Sel → Sel → Option Pfx → Instr))).all (fun p => reads [rWord 0x06 6 8 10 p.1] (p.2 6 8 10 none))
    && ([(5, .cconjCi16), (6, .cconjCi32), (7, .cmag2Ci16), (8, .cunpkCi8), (9, .cunpkCi4)] :
      List (Nat × (Sel → Sel → Option Pfx → Instr))).all (fun p => reads [rWord 0x06 8 12 0 p.1] (p.2 8 12 none))) = true := by
  decide +kernel

/-- R73: every condition; `cmp.le.n64` and `fcmp.un.bf16x2`; code 7 and an integer `un` are refused. -/
theorem test_decode_compares :
    (([(0, .eq), (1, .ne), (2, .lt), (3, .le), (4, .gt), (5, .ge)] : List (Nat × Cond)).all
      (fun p => reads [rWord 0x07 3 8 10 p.1] (.cmp 3 8 10 .i32 p.2 none)
        && reads [rWord 0x07 3 8 10 (0x20 + p.1)] (.fcmp 3 8 10 .f32 p.2 none))
    && reads [rWord 0x07 3 8 10 (3 * 8 + 3)] (.cmp 3 8 10 .n64 .le none)
    && reads [rWord 0x07 0x3F 8 10 (7 * 8 + 6)] (.fcmp 0x3F 8 10 .bf16x2 .un none)
    && refuses [rWord 0x07 3 8 10 7] && refuses [rWord 0x07 3 8 10 6] && refuses [rWord 0x07 0 8 10 0]) = true := by
  decide +kernel

/-- R74. -/
theorem test_decode_cross_lane :
    (reads [rWord 0x08 6 8 0x30 0x02] (.xlPick 6 8 0x30 2 none) && reads [rWord 0x08 6 8 0 0x0D] (.xlSwap 6 8 0 5 none)
    && reads [rWord 0x08 6 8 0x0A 0x10] (.xlFwd 6 8 0x0A 0 none) && reads [rWord 0x08 6 8 0 0x1E] (.xlBack 6 8 0 6 none)
    && ([(0, .addI32), (1, .addI64), (2, .minI32), (3, .minN32), (4, .maxI32), (5, .maxN32), (6, .andB32), (7, .orB32),
      (8, .xorB32), (9, .faddF32), (10, .faddF64), (11, .fminF32), (12, .fmaxF32), (13, .fminF64), (14, .fmaxF64)] :
      List (Nat × RedOp)).all
      (fun p => reads [rWord 0x08 6 8 0 (0x20 + p.1)] (.red 6 8 p.2) && reads [rWord 0x08 6 8 0 (0x30 + p.1)] (.scan 6 8 p.2))
    && refuses [rWord 0x08 6 8 0 0x2F] && refuses [rWord 0x08 6 8 0 0x07]) = true := by
  decide +kernel

/-- R75. -/
theorem test_decode_masks :
    (([(0, .mand), (1, .mor), (2, .mxor)] : List (Nat × (Sel → Sel → Sel → Instr))).all
      (fun p => reads [rWord 0x09 3 0 7 p.1] (p.2 3 0 7))
    && ([(3, .mnot), (4, .mmov), (5, .mpop), (6, .mfirst), (7, .mset), (8, .mget), (0x10, .voteAny), (0x11, .voteAll),
      (0x12, .ballot), (0x13, .matchLanes), (0x14, .popm)] : List (Nat × (Sel → Sel → Instr))).all
      (fun p => reads [rWord 0x09 6 4 0 p.1] (p.2 6 4))
    && refuses [rWord 0x09 0 1 2 0]) = true := by
  decide +kernel

/-- R76. -/
theorem test_decode_scalar :
    (([(0x00, .sadd), (0x01, .ssub), (0x02, .smul), (0x03, .smulhi), (0x04, .sdiv), (0x05, .sdivN), (0x06, .srem), (0x07, .sremN),
      (0x08, .smin), (0x09, .sminN), (0x0A, .smax), (0x0B, .smaxN), (0x0C, .sand), (0x0D, .sor), (0x0E, .sxor), (0x0F, .sshl),
      (0x10, .sshr), (0x11, .ssra), (0x15, .ssel), (0x18, .scmpEq), (0x19, .scmpNe), (0x1A, .scmpLt), (0x1B, .scmpLe),
      (0x1C, .scmpLtN), (0x1D, .scmpLeN)] : List (Nat × (Sel → Sel → Sel → Instr))).all
      (fun p => reads [rWord 0x0A 31 17 0x3F p.1] (p.2 31 17 0x3F))
    && ([(0x12, .sclz), (0x13, .spopc), (0x14, .smov)] : List (Nat × (Sel → Sel → Instr))).all
      (fun p => reads [rWord 0x0A 31 17 0 p.1] (p.2 31 17) && refuses [rWord 0x0A 31 17 1 p.1])
    && ([(0, .saddImm), (1, .smulImm), (2, .sandImm), (3, .sorImm), (4, .sxorImm), (5, .sshlImm), (6, .sshrImm), (7, .ssraImm)] :
      List (Nat × (Sel → Sel → Imm8 → Option Imm → Instr))).all
      (fun p => reads [iWord 0 0x0B 31 17 p.1 0xFE] (p.2 31 17 0xFE none)
        && reads [iWord 2 0x0B 31 17 p.1 0, 1, 2] (p.2 31 17 0 (some 0x0000000200000001)))
    && reads [iWord 0 0x0B 4 0x3E 8 5] (.smovi 4 5) && reads [iWord 2 0x0B 4 0x3E 8 0, 1, 2] (.slit 4 0x0000000200000001)) = true := by
  decide +kernel

/-- R77: the CSR field is bits 17..6. The five registers with rows of their own have their numbers in R108. -/
theorem test_decode_control_registers :
    (reads [BitVec.ofNat 32 (0x0C * 2 ^ 24 + 7 * 2 ^ 18 + 0x001 * 2 ^ 6 + 0)] (.csrr 7 0x001)
    && reads [BitVec.ofNat 32 (0x0C * 2 ^ 24 + 7 * 2 ^ 18 + 0x053 * 2 ^ 6 + 1)] (.csrw 7 0x053)
    && reads [BitVec.ofNat 32 (0x0C * 2 ^ 24 + 7 * 2 ^ 18 + 0x053 * 2 ^ 6 + 2)] (.csrs 7 0x053)
    && reads [BitVec.ofNat 32 (0x0C * 2 ^ 24 + 7 * 2 ^ 18 + 0x053 * 2 ^ 6 + 3)] (.csrc 7 0x053)
    && ([(1, .write), (2, .set), (3, .clear)] : List (Nat × CsrFn)).all
      (fun p => reads [BitVec.ofNat 32 (0x0C * 2 ^ 24 + 7 * 2 ^ 18 + 0x020 * 2 ^ 6 + p.1)] (.rmWrite p.2 7)
        && reads [BitVec.ofNat 32 (0x0C * 2 ^ 24 + 7 * 2 ^ 18 + 0x021 * 2 ^ 6 + p.1)] (.srseedWrite p.2 7)
        && reads [BitVec.ofNat 32 (0x0C * 2 ^ 24 + 7 * 2 ^ 18 + 0x022 * 2 ^ 6 + p.1)] (.fflagsWrite p.2 7)
        && reads [BitVec.ofNat 32 (0x0C * 2 ^ 24 + 7 * 2 ^ 18 + 0x030 * 2 ^ 6 + p.1)] (.rcvbaseWrite p.2 7)
        && reads [BitVec.ofNat 32 (0x0C * 2 ^ 24 + 7 * 2 ^ 18 + 0x054 * 2 ^ 6 + p.1)] (.bpcWrite p.2 7))
    && reads [rWord 0x0C 4 9 0x3E 4] (.sRd 4 9 0x3E) && reads [rWord 0x0C 4 9 2 5] (.sWr 4 9 2)
    && refuses [BitVec.ofNat 32 (0x0C * 2 ^ 24 + 7 * 2 ^ 18 + 0xFFF * 2 ^ 6)]) = true := by
  decide +kernel

/-- R78. -/
theorem test_decode_branches :
    (reads [bWord 0 0x0D 0 0 0x3FFE] (.bra 0x3FFE none) && reads [bWord 2 0x0D 0 0 0, 0x1000, 8] (.bra 0 (some 0x0000000800001000))
    && ([(1, .brz), (2, .brnz), (3, .bsz), (4, .bsnz)] : List (Nat × (Sel → BitVec 14 → Option Imm → Instr))).all
      (fun p => reads [bWord 0 0x0D 6 p.1 0x123] (p.2 6 0x123 none) && reads [bWord 2 0x0D 6 p.1 0, 4, 0] (p.2 6 0 (some 4)))
    && reads [bWord 0 0x0E 6 0 0x123] (.call 6 0x123 none) && reads [bWord 0 0x0E 6 1 0] (.ret 6) && reads [bWord 0 0x0E 6 2 0] (.jmp 6)
    && reads [0x0E00C000] .exit && reads [bWord 0 0x0E 0 4 0] .nop && reads [bWord 0 0x0E 0 5 0] .yield
    && reads [bWord 0 0x0E 6 6 0] (.sleep 6)
    && reads [bWord 0 0x0F 0 0 0x123] (.rcvPush 0x123 none) && reads [bWord 0 0x0F 0 1 0] .rcvWait
    && reads [bWord 0 0x0F 0 2 0] .rcvPop && reads [bWord 0 0x0F 0 3 0] .rcvDrop) = true := by
  decide +kernel

/-- R79. -/
theorem test_decode_barriers_and_system :
    (reads [iWord 0 0x10 0 0 0 0] .barTeam && reads [iWord 0 0x10 0 0 1 0] .barClu
    && reads [iWord 0 0x10 0 0x3E 2 15] (.barNamed 0x3E 15) && reads [iWord 0 0x10 0 9 3 14] (.barArrive 9 14)
    && reads [iWord 0 0x10 0 9 4 13] (.cbInit 9 13) && reads [iWord 0 0x10 0 0 5 12] (.cbArrive 12)
    && reads [iWord 0 0x10 0 0 6 11] (.cbWait 11) && reads [iWord 0 0x10 8 0 7 10] (.cbTest 8 10)
    && refuses [iWord 0 0x10 0 0 5 16]
    && ([(0, .ecall), (1, .ebreak), (2, .wcall), (3, .trap)] : List (Nat × (Imm8 → Instr))).all
      (fun p => reads [iWord 0 0x11 0 0 p.1 0xFF] (p.2 0xFF))
    && reads [iWord 0 0x11 0 0 4 0] .wfe && reads [iWord 0 0x11 0 0 5 0] .fenceI && reads [iWord 0 0x11 0 0 6 0] .halt) = true := by
  decide +kernel

/-- R56, R63: `ld.acq.b.i.dev`, `st.rel.d.dev.a8`, `ld.w` with an offset of −4, `ldx` with a scaled index and `stx`. -/
theorem test_decode_loads_and_stores :
    (reads [mWord 0 0x12 5 6 5 1 5 0] (.ld 5 6 .bi .acq 5 .dflt none none)
    && reads [mWord 0 0x13 4 6 3 2 5 1] (.st 4 6 .d .rel 5 .a8 none none)
    && reads [mWord 2 0x12 5 6 2 0 0 0, 0xFFFFFFFC, 0xFFFFFFFF] (.ld 5 6 .w .plain 0 .dflt (some 0xFFFFFFFFFFFFFFFC) none)
    && reads [mWord 2 0x32 5 6 2 0 0 0, 0xFFFFFFFC, BitVec.ofNat 32 (2 * 2 ^ 6 + 9)]
      (.ldx 5 6 .w .plain 0 .dflt 0xFFFFFFFC 2 9 none)
    && reads [mWord 2 0x32 5 6 2 0 0 0, 8, BitVec.ofNat 32 (2 ^ 31 + 0x3E)] (.stx 5 6 .w .plain 0 .dflt 8 0 0x3E none)
    && reads [pWord 3 2 1 1 0 0 0, mWord 2 0x12 5 6 2 0 0 0, 4, 0]
      (.ld 5 6 .w .plain 0 .dflt (some 4) (some { msk := 2, inv := true, z := true, rm := 0, c := 0, sat := 0 }))) = true := by
  decide +kernel

/-- R57, R80: the atomics at 4 and 8 bytes, the 16-byte forms, and every memory reduction. -/
theorem test_decode_atomics :
    (([(0x0, .atomAdd), (0x1, .atomSub), (0x2, .atomMinI), (0x3, .atomMaxI), (0x4, .atomMinN), (0x5, .atomMaxN), (0x6, .atomAnd),
      (0x7, .atomOr), (0x8, .atomXor), (0x9, .atomXchg), (0xA, .atomCas), (0xB, .atomIncw), (0xC, .atomDecw), (0xD, .atomAddF)] :
      List (Nat × (Sel → Sel → AtomOrd → Scope → Bool → Instr))).all
      (fun p => reads [aWord 4 6 p.1 1 0 5 0] (p.2 4 6 .acq 5 false) && reads [aWord 4 6 p.1 2 0 9 1] (p.2 4 6 .rel 9 true))
    && reads [aWord 4 6 0xE 0 0 2 0] (.atomXchgA16 4 6 .rlx 2) && reads [aWord 8 6 0xF 3 0 2 0] (.atomCasA16 8 6 .acqrel 2)
    && ([(0x0, .add), (0x1, .sub), (0x2, .minI), (0x3, .maxI), (0x4, .minN), (0x5, .maxN), (0x6, .and), (0x7, .or), (0x8, .xor),
      (0xD, .addF)] : List (Nat × MrOp)).all (fun p => reads [aWord 4 6 p.1 2 1 5 1] (.memoryReduction 4 6 p.2 .rel 5 true))
    && refuses [aWord 4 6 0xA 0 1 5 0]) = true := by
  decide +kernel

/-- R58, R80: MOP in bits 11..6, SCP in 5..2, bits 1..0 of 0b00. -/
theorem test_decode_memc :
    (reads [rWord 0x15 0 6 0 0] (.pf false 6 none) && reads [rWord 0x15 1 6 0 0] (.pf true 6 none) && reads [rWord 0x15 0 6 1 0] (.ipf 6 none)
    && ([(2, .phaseBegin), (3, .phaseEnd), (4, .phase), (5, .fence)] : List (Nat × (Scope → Instr))).all
      (fun p => reads [rWord 0x15 0 0 p.1 (5 * 4)] (p.2 5))
    && reads [rWord 0x15 0 6 6 (3 * 4)] (.cwb 6 3 none) && reads [rWord 0x15 0 6 7 (9 * 4)] (.cinv 6 9 none)
    && reads [rWord 0x15 0 6 8 0] (.spClr 6 none) && reads [rWord 0x15 0 6 9 0] (.spSet 6 none)
    && reads [rWord 0x15 5 6 10 0] (.spTest 5 6 none) && refuses [rWord 0x15 0 0 5 (10 * 4)] && refuses [rWord 0x15 0 6 8 1]) = true := by
  decide +kernel

/-- R81. -/
theorem test_decode_queues :
    (reads [rWord 0x16 1 4 6 0] (.push .qc 4 6) && reads [rWord 0x16 5 4 0 1] (.pop 5 .qf) && reads [rWord 0x17 0 0 0 0] .mrdy
    && ([(0, .netPut), (1, .netGet), (2, .netSend), (3, .netRecv), (4, .netRed)] : List (Nat × (Sel → Sel → Instr))).all
      (fun p => reads [rWord 0x18 0 4 6 p.1] (p.2 4 6))
    && reads [rWord 0x18 0 0x3E 6 5] (.netFence 6)
    && reads [rWord 0x19 5 4 6 0] (.launch 5 4 6) && reads [rWord 0x19 5 4 6 1] (.gang 5 4 6) && reads [rWord 0x19 0 4 0 2] (.cancel 4)
    && reads [rWord 0x19 5 4 6 3] (.vsel 5 4 6) && reads [rWord 0x19 0 4 6 4] (.pipePut 4 6) && reads [rWord 0x19 6 4 0 5] (.pipeGet 6 4)
    && reads [rWord 0x19 0 4 0 6] (.pipeClose 4) && reads [rWord 0x19 0 4 6 7] (.svcReg 4 6)) = true := by
  decide +kernel

/-- R82. -/
theorem test_decode_supervisor :
    (reads [rWord 0x1A 0 4 6 0] (.srep 4 6)
    && ([(1, .sdone), (2, .freeze), (3, .thaw), (4, .swapout), (5, .swapin), (6, .fltDone)] : List (Nat × (Sel → Instr))).all
      (fun p => reads [rWord 0x1A 0 4 0 p.1] (p.2 4))
    && reads [rWord 0x1A 5 4 0 7] (.tlbInv 5 4) && reads [rWord 0x1A 6 4 0 8] (.tlbProbe 6 4)
    && ([(0, .b), (1, .h), (2, .w), (3, .d), (4, .q)] : List (Nat × BSize)).all
      (fun p => reads [rWord 0x1A 8 4 6 (0x10 + p.1)] (.bld 8 4 6 p.2) && reads [rWord 0x1A 8 4 6 (0x18 + p.1)] (.bst 8 4 6 p.2))
    && ([(0, .potSet), (2, .frameCls), (3, .gesso), (4, .keyNew), (5, .hotRd)] : List (Nat × (Sel → Sel → Sel → Instr))).all
      (fun p => reads [rWord 0x1B 8 4 6 p.1] (p.2 8 4 6))
    && ([(1, .potGet), (6, .varnishBegin), (7, .varnishEnd)] : List (Nat × (Sel → Sel → Instr))).all
      (fun p => reads [rWord 0x1B 8 4 0 p.1] (p.2 8 4))
    && reads [rWord 0x1B 8 0 0 8] (.clkPlan 8)
    && ([(0, .cntCfg), (3, .ebudSet), (5, .tokLim), (6, .tcmpSet)] : List (Nat × (Sel → Sel → Sel → Instr))).all
      (fun p => reads [rWord 0x1C 8 4 6 p.1] (p.2 8 4 6))
    && ([(1, .cntRd), (2, .cntClr), (4, .ebudRd)] : List (Nat × (Sel → Sel → Instr))).all
      (fun p => reads [rWord 0x1C 8 4 0 p.1] (p.2 8 4))) = true := by
  decide +kernel

/-- R63, R263, R277: the kind of a matrix or copy command is in bits 23..22 of its first word, and the three words make 96
bits. The first `cp` is the example of R277; the matrix commands are bf16, with ZC, CREG 8 and AOFF 0x10. -/
theorem test_decode_extended :
    (reads [0xB0031208, 0x00800800, 0] (.mma 0x0000000000800800B0031208)
    && reads [0xB0631208, 0x00800300, 0] (.mmaJ 0x0000000000800300B0631208)
    && reads [0xB1041900, 0, 0] (.cp 0x0000000000000000B1041900)
    && reads [0xB1441900, 0x100, 0] (.cpMx 0x0000000000000100B1441900)
    && reads [0xB1841900, 0x100, 1] (.cpGx 0x0000000100000100B1841900)
    && refuses [0xB1C41900, 0, 0] && refuses [0xB1041901, 0, 0] && refuses [0xB0831208, 0x00800800, 0]) = true := by
  decide +kernel

/-- Words that the specification gives for `fcvt.bf16.f32 v3, v1, rm=sr`, `fsplit.bf16 v4, v1`, `brnz v1, again`,
`red.add.rel.team v5, [v4]`, `push qm, s4, s5` and `pop s1, qe` (R150, R152, R171, R225, R259, R260). -/
theorem test_decode_examples :
    (reads [0x7F060000, 0x050C1043] (.fcvt 3 1 false .f32 .bf16 (some { msk := 0, inv := false, z := false, rm := 6, c := 0, sat := 0 }))
    && reads [0x051010E0] (.fsplitBf16 4 1 none) && reads [0x0D04BFFE] (.brnz 1 0x3FFE none)
    && reads [0x141440A4] (.memoryReduction 5 4 .add .rel 2 false) && reads [0x16004140] (.push .qm 4 5)
    && reads [0x16043001] (.pop 1 .qe)) = true := by
  decide +kernel

/-- R83: the examples of its table that are no instruction. -/
theorem test_decode_refused_examples :
    (refuses [0x00000000] && refuses [0x7F000000, 0x7F000000] && refuses [0x7F000000, 0x0D000000] && refuses [0x4D000000]
      && refuses [0x811C1000, 0, 0]) = true := by
  decide +kernel

/-- R60, R62: `add` under `m3` inverted, zeroing, saturated signed; `fma` rounded toward zero with `v9` as fourth operand. -/
theorem test_decode_prefix :
    (reads [pWord 1 3 1 1 0 0 1, rWord 0x01 4 5 6 0] (.add 4 5 6 false (some { msk := 3, inv := true, z := true, rm := 0, c := 0, sat := 1 }))
    && reads [pWord 1 0 0 0 2 9 0, rWord 0x03 4 5 6 3] (.fma 4 5 6 .f32 (some { msk := 0, inv := false, z := false, rm := 2, c := 9, sat := 0 }))
    && refuses [pWord 3 0 0 0 0 0 0, rWord 0x01 4 5 6 0, 0, 0] && refuses [pWord 1 0 0 0 0 0 0, rWord 0x0A 4 5 6 0]
    && refuses [pWord 1 0 0 0 6 9 0, rWord 0x03 4 5 6 3]) = true := by
  decide +kernel

/-! ## Ill-formed terms -/

/-- None of these is a well-formed instruction. -/
def allIll (l : List Instr) : Bool := l.all fun i => !i.wellFormed

/-- Each of these is a well-formed instruction. -/
def allWell (l : List Instr) : Bool := l.all Instr.wellFormed

/-- R64, R66: an odd 64-bit source and destination, a 32-bit destination that is a history entry, a 128-bit destination that is
not a multiple of 4, and the named registers, pairs, quads and octets that an entry asks for; each beside a legal neighbour. -/
theorem test_ill_vector_selectors :
    (allIll [.add 4 3 2 true none, .add 3 4 2 true none, .add 0x20 1 2 false none, .cunpkCi4 6 1 none, .call 0x20 0 none, .ret 3,
      .sWr 0x20 1 2, .sRd 1 0x30 2, .atomAdd 0x3F 2 .rlx 2 false, .atomAdd 5 2 .rlx 2 true, .atomCas 2 4 .rlx 2 true,
      .atomXchgA16 6 2 .rlx 2, .atomCasA16 4 2 .rlx 2, .fadd 4 3 2 .f64 none, .cmp 1 3 2 .n64 .eq none, .red 5 2 .faddF64,
      .fround 3 2 .f64 none, .selB64 4 2 3 none, .lea 3 2 2 none, .pipeGet 5 1, .srep 1 3, .tlbProbe 2 3, .bld 6 2 1 .q, .bst 5 2 1 .d]
    && allWell [.add 4 2 0x21 true none, .add 0x3F 0x31 0x3F false none, .cunpkCi4 8 1 none, .sRd 1 0x2F 2, .atomCas 4 4 .rlx 2 true,
      .atomCasA16 8 2 .rlx 2, .cmp 0x3F 4 2 .n64 .eq none, .bld 8 2 1 .q]) = true := by
  decide +kernel

/-- R65, R66: scalar sources and destinations, the group index at a barrier, the sources of the NET instructions, a scalar register proper, mask sources and
destinations, and a barrier, completion barrier, queue scope or borrowed scope that does not exist. -/
theorem test_ill_other_selectors :
    (allIll [.sadd 0x3E 1 2, .sadd 1 0x20 2, .ssel 0x3F 1 2, .mand 0 1 2, .mand 1 8 2, .ballot 0x3F 1, .cmp 0 1 2 .i32 .eq none,
      .barNamed 0x3F 1, .barNamed 1 16, .cbInit 1 16, .cbTest 0x3E 1, .cbWait 16, .netPut 0x3F 1, .tlbInv 4 1, .bsz 0x21 0 none]
    && allWell [.sadd 0x3F 0x3E 0x3F, .mand 7 0 7, .barNamed 0x3E 15, .netPut 0x3E 31, .tlbInv 6 1]) = true := by
  decide +kernel

/-- R60, R61: a prefix field outside the class's column: a rounding mode on VINT, saturation where the entry shows none, its
reserved code, a fourth operand where there is none or with an odd pair, the modes 0b110 and 0b111 on VFP, 0b110 into f32,
an out-of-range mask that does not exist, and the zero policy on a store. -/
theorem test_ill_prefixes :
    (allIll [.add 1 2 3 false (some ⟨0, false, false, 1, 0, 0⟩), .and 1 2 3 false (some ⟨0, false, false, 0, 0, 1⟩),
      .add 1 2 3 false (some ⟨0, false, false, 0, 0, 3⟩), .add 1 2 3 false (some ⟨0, false, false, 0, 5, 0⟩),
      .mad 4 2 6 true (some ⟨0, false, false, 0, 5, 0⟩), .fadd 1 2 3 .f32 (some ⟨0, false, false, 6, 0, 0⟩),
      .fadd 1 2 3 .f32 (some ⟨0, false, false, 7, 0, 0⟩), .fcvt 1 2 false .i32 .f32 (some ⟨0, false, false, 6, 0, 0⟩),
      .fcvt 1 2 false .f32 .bf16 (some ⟨0, false, false, 7, 0, 0⟩), .caddCi16 1 2 3 (some ⟨0, false, false, 1, 0, 0⟩),
      .cmp 1 2 3 .i32 .eq (some ⟨0, false, false, 0, 0, 1⟩), .xlPick 1 2 3 0 (some ⟨0, false, false, 0, 8, 0⟩),
      .st 1 2 .w .plain 0 .dflt none (some ⟨0, false, true, 0, 0, 0⟩), .ld 1 2 .w .plain 0 .dflt none (some ⟨0, false, false, 0, 1, 0⟩)]
    && allWell [.add 1 2 3 false (some ⟨3, true, true, 0, 0, 2⟩), .mad 4 2 6 true (some ⟨0, false, false, 0, 0x21, 1⟩),
      .fadd 1 2 3 .f32 (some ⟨0, false, false, 5, 0, 0⟩), .fcvt 1 2 false .f32 .bf16 (some ⟨0, false, false, 6, 0, 0⟩),
      .xlPick 1 2 3 0 (some ⟨0, false, false, 0, 7, 0⟩), .ld 1 2 .w .plain 0 .dflt none (some ⟨1, false, true, 0, 0, 0⟩)]) = true := by
  decide +kernel

/-- R54, R55, R71, R73, R74, R108: a literal beside a nonzero immediate or offset, conversions that do not exist, an integer
`un`, segment code 7, a distance code beside a distance operand, and a control register that does not exist. -/
theorem test_ill_fields :
    (allIll [.addImm 1 2 1 (some 5) none, .saddImm 1 2 1 (some 5), .bra 1 (some 8), .fcvt 1 2 false .f32 .f32 none,
      .fcvt 1 2 false .i32 .n8 none, .fcvt 1 2 false .f32 .e2m1 none, .fcvt 1 2 false .e8m0 .f32 none, .fcvt 1 2 true .f32 .e5m2 none,
      .cmp 1 2 3 .i32 .un none, .xlPick 1 2 3 7 none, .xlSwap 1 2 3 1 none, .csrr 1 0x009, .csrw 1 0x020]
    && allWell [.addImm 1 2 0 (some 5) none, .bra 0 (some 8), .fcvt 1 2 true .f32 .e4m3 none, .fcmp 1 2 3 .f32 .un none,
      .xlSwap 1 2 0 1 none, .xlSwap 1 2 3 0 none, .csrr 1 0x008]) = true := by
  decide +kernel

/-- R56, R57, R63: a scope above 9, a scope on a plain access, orderings that the direction refuses, sign extension in a store,
a unit larger than the access, an odd address pair, a scale above 4, and an acquiring memory reduction. -/
theorem test_ill_memory :
    (allIll [.ld 1 2 .w .acq 10 .dflt none none, .ld 1 2 .w .plain 5 .dflt none none, .ld 1 2 .w .rel 5 .dflt none none,
      .st 1 2 .w .acq 5 .dflt none none, .st 1 2 .bi .plain 0 .dflt none none, .ld 1 2 .w .plain 0 .a8 none none,
      .ld 4 2 .d .plain 0 .a16 none none, .ld 1 3 .w .plain 0 .dflt none none, .ld 6 2 .q .plain 0 .dflt none none,
      .ldx 1 2 .w .plain 0 .dflt 0 5 1 none, .memoryReduction 1 2 .add .acq 5 false, .fence 10, .cwb 2 10 none]
    && allWell [.ld 1 2 .w .acq 9 .dflt none none, .st 4 2 .q .rlx 9 .a16 none none, .ldx 1 2 .w .plain 0 .dflt 0 4 1 none,
      .memoryReduction 1 2 .add .rel 5 false]) = true := by
  decide +kernel

/-- R263, R277: matrix commands with MAJ, KIND, FMT, TM, a reserved bit or reserved fields of the kind wrong, and copy headers with
DS, SCP or a reserved bit wrong. -/
theorem test_ill_commands :
    (allIll [.mma 0x0000000000800800B1031208, .mma 0x0000000000800800B0431208, .mma 0x0000000000800800B003F208,
      .mma 0x0000000000800800B00313C8, .mma 0x0000000000800800B0031248, .mma 0x0000000000800800B0031228,
      .mma 0x0000000000800801B0031208, .mma 0x0000000000800800B0131208, .mma 0x0000000100800800B0031208,
      .mmaJ 0x0000000000800B00B0631208, .mma 0x0000000100800800B0037208, .cp 0x0000000000000000B1201900,
      .cp 0x0000000000000000B1041880, .cp 0x0000000000000000B1041100, .cp 0x0000000000000000B1041901, .cp 0x0000000000000000B0041900,
      .cp 0x0000000000000000B1441900]
    && allWell [.mma 0x0000000000800800B0031208, .mmaJ 0x0000000000800300B0631208, .mma 0x0000000100800800B0031388,
      .cp 0x0000000000000000B13E0000]) = true := by
  decide +kernel

/-- A step of the device itself is no instruction word. -/
theorem test_ill_device_steps :
    allIll [.loadDataArrival 0, .mmaStart 0, .copyComplete 0, .launchStart, .timerFire 0 0, .powerOn, .thermtrip, .resetNAsserted]
      = true := by
  decide +kernel

/-! ## Single steps: vector integers -/

/-- Registers 10 and 11 of lane 0 after an instruction, with registers `v` before it. -/
def outs (v : List Word) (i : Instr) : Option (Word × Word) :=
  match exec i (wU v) with
  | .next u => ((u.group? 3 5).bind (·.thread? 0)).map fun t => (regAt t 10, regAt t 11)
  | _ => none

/-- Registers for the tests: 7, 5, the least signed word, −1, a pattern, 33, the pairs −8 and 3, and 100 in `v10`. -/
def tv : List Word := [7, 5, 0x80000000, 0xFFFFFFFF, 0x12345678, 33, 0xFFFFFFF8, 0xFFFFFFFF, 3, 0, 100]

/-- R125, R31, R30: the 32-bit two-source operations, divisions by zero and of the least value by −1, and saturation. -/
theorem test_vint_two_sources :
    (([(.add 10 3 0 false none, 6), (.add 10 2 3 false (pf 0 false 0 1), 0x80000000), (.add 10 3 0 false (pf 0 false 0 1), 6),
      (.sub 10 1 0 false none, 0xFFFFFFFE), (.sub 10 1 0 false (pf 0 false 0 2), 0), (.mul 10 3 0 false none, 0xFFFFFFF9),
      (.mulhi 10 3 0 false none, 0xFFFFFFFF), (.mulhn 10 3 0 false none, 6), (.divI 10 6 1 false none, 0xFFFFFFFF),
      (.divN 10 6 1 false none, 0x33333331), (.remI 10 6 1 false none, 0xFFFFFFFD), (.remN 10 6 1 false none, 3),
      (.divI 10 0 9 false none, 0xFFFFFFFF), (.divN 10 0 9 false none, 0xFFFFFFFF), (.remI 10 6 9 false none, 0xFFFFFFF8),
      (.remN 10 0 9 false none, 7), (.divI 10 2 3 false none, 0x80000000), (.divI 10 2 3 false (pf 0 false 0 1), 0x7FFFFFFF),
      (.remI 10 2 3 false none, 0), (.minI 10 2 0 false none, 0x80000000), (.minN 10 2 0 false none, 7), (.maxI 10 2 0 false none, 7),
      (.maxN 10 2 0 false none, 0x80000000), (.and 10 4 5 false none, 0x20), (.or 10 4 5 false none, 0x12345679),
      (.xor 10 4 5 false none, 0x12345659), (.andn 10 4 5 false none, 0x12345658), (.orn 10 4 5 false none, 0xFFFFFFFE)] :
      List (Instr × Word)).all fun p => (outs tv p.1).map (·.1) == some p.2) = true := by
  decide +kernel

/-- R123: shifts by less and by more than the width; rotation is by the amount modulo the width. -/
theorem test_vint_shifts :
    (([(.shl 10 4 0 false none, 0x1A2B3C00), (.shl 10 4 5 false none, 0), (.shr 10 2 1 false none, 0x04000000),
      (.shr 10 3 5 false none, 0), (.sra 10 2 1 false none, 0xFC000000), (.sra 10 2 5 false none, 0xFFFFFFFF),
      (.rol 10 4 5 false none, 0x2468ACF0), (.shlImm 10 4 200 none none, 0), (.shrImm 10 4 4 none none, 0x01234567),
      (.sraImm 10 2 4 none none, 0xF8000000)] : List (Instr × Word)).all fun p => (outs tv p.1).map (·.1) == some p.2) = true := by
  decide +kernel

/-- R125, R129, R131: the 64-bit forms; a shift amount is a 32-bit operand. -/
theorem test_vint_pairs :
    (([(.add 10 6 8 true none, 0xFFFFFFFB, 0xFFFFFFFF), (.sub 10 8 6 true none, 11, 0), (.mul 10 6 8 true none, 0xFFFFFFE8, 0xFFFFFFFF),
      (.mulhi 10 6 8 true none, 0xFFFFFFFF, 0xFFFFFFFF), (.mulhn 10 6 8 true none, 2, 0), (.divI 10 6 8 true none, 0xFFFFFFFE, 0xFFFFFFFF),
      (.remI 10 6 8 true none, 0xFFFFFFFE, 0xFFFFFFFF), (.shl 10 8 5 true none, 0, 6), (.rol 10 0 5 true none, 0xA, 0xE),
      (.clz 10 8 true none, 62, 0), (.ctz 10 8 true none, 0, 0), (.popc 10 0 true none, 5, 0), (.brev 10 8 true none, 0, 0xC0000000),
      (.abs 10 6 true none, 8, 0), (.neg 10 8 true none, 0xFFFFFFFD, 0xFFFFFFFF), (.mov 10 0 true none, 7, 5),
      (.extI 10 3 none, 0xFFFFFFFF, 0xFFFFFFFF), (.extN 10 3 none, 0xFFFFFFFF, 0), (.lea 10 6 3 none, 0xFFFFFFF7, 0xFFFFFFFF),
      (.leaImm 10 8 0xFF none none, 2, 0), (.add64Imm 10 6 8 none none, 0, 0), (.moviB64 10 0x85 none, 0xFFFFFF85, 0xFFFFFFFF),
      (.litB64 10 0x0123456789ABCDEF none, 0x89ABCDEF, 0x01234567), (.selB64 10 0 8 none, 7, 5)] : List (Instr × Word × Word)).all
      fun p => outs tv p.1 == some p.2) = true := by
  decide +kernel

/-- R126: the table of results of the bit-field and byte-select operations, then `mad` and `sel` with the destination, the prefix
or nothing as fourth operand. -/
theorem test_vint_four_operands :
    (([([0xABCD1234, 0x0000080C], .bfxN 10 0 1 none, 0x000000D1), ([0xABCD1234, 0x0000080C], .bfxI 10 0 1 none, 0xFFFFFFD1),
      ([0x80000000, 0x00000828], .bfxI 10 0 1 none, 0xFFFFFFFF), ([0, 0x0000041E, 0xFFFFFFFF], .bfi 10 0 1 (pf 0 false 2 0), 0x3FFFFFFF),
      ([0x44332211, 0x88776655, 0x17140400], .bsel 10 0 1 (pf 0 false 2 0), 0xFF005511),
      ([0x44332211, 0x88776655, 0x23000008], .bsel 10 0 1 (pf 0 false 2 0), 0x00111188),
      (tv, .mad 10 0 1 false none, 135), (tv, .mad 10 0 1 false (pf 0 false 3 0), 34), (tv, .mad 10 0 1 false (pf 0 false 0x3E 0), 35),
      (tv, .sel 10 0 1 none, 7), (tv, .sel 10 0 1 (pf 0 false 9 0), 5)] : List (List Word × Instr × Word)).all
      fun p => (outs p.1 p.2.1).map (·.1) == some p.2.2) = true := by
  decide +kernel

/-- R128: the specification's `dot4.ii`, then the same words unsigned, signed by unsigned, and as nibbles, onto 100. -/
theorem test_vint_dot :
    (([([0x80808080, 0x80808080], .dot4Ii 10 0 1 none, 0x00010000), ([0x80808080, 0x80808080], .dot4Nn 10 0 1 none, 0x00010000),
      ([0x000000FF, 0x000000FF], .dot4In 10 0 1 none, 0xFFFFFF01), ([0x000000FF, 0x000000FF], .dot4Nn 10 0 1 none, 0x0000FE01),
      ([0x0000008F, 0x0000001F], .dot8Ii 10 0 1 none, 0xFFFFFFF9), ([0x0000008F, 0x0000001F], .dot8Nn 10 0 1 none, 233),
      ([0x0000008F, 0x0000001F], .dot8In 10 0 1 none, 0xFFFFFFE9), ([1, 2, 0, 0, 0, 0, 0, 0, 0, 0, 100], .dot4Ii 10 0 1 none, 102)] :
      List (List Word × Instr × Word)).all fun p => (outs p.1 p.2.1).map (·.1) == some p.2.2) = true := by
  decide +kernel

/-- R129, R30: the 32-bit unary group, and the least value with and without saturation. -/
theorem test_vint_unary :
    (([(.abs 10 6 false none, 8), (.abs 10 2 false none, 0x80000000), (.abs 10 2 false (pf 0 false 0 1), 0x7FFFFFFF),
      (.neg 10 0 false none, 0xFFFFFFF9), (.neg 10 0 false (pf 0 false 0 2), 0), (.clz 10 4 false none, 3), (.clz 10 9 false none, 32),
      (.ctz 10 4 false none, 3), (.ctz 10 9 false none, 32), (.popc 10 4 false none, 13), (.brev 10 4 false none, 0x1E6A2C48),
      (.mov 10 0x3F false none, 0)] : List (Instr × Word)).all fun p => (outs tv p.1).map (·.1) == some p.2) = true := by
  decide +kernel

/-- R130, R54: immediates are sign-extended; a literal gives its low 32 bits. -/
theorem test_vint_immediates :
    (([(.addImm 10 0 0x85 none none, 0xFFFFFF8C), (.addImm 10 0 0 (some 0x100000001) none, 8), (.mulImm 10 1 0xFE none none, 0xFFFFFFF6),
      (.andImm 10 4 0xF0 none none, 0x12345670), (.orImm 10 4 0x81 none none, 0xFFFFFFF9), (.xorImm 10 4 0xFF none none, 0xEDCBA987),
      (.minIImm 10 0 0xFF none none, 0xFFFFFFFF), (.maxIImm 10 0 0xFF none none, 7), (.moviB32 10 0x85 none, 0xFFFFFF85),
      (.litB32 10 0x123456789 none, 0x23456789)] : List (Instr × Word)).all fun p => (outs tv p.1).map (·.1) == some p.2) = true := by
  decide +kernel

/-- R127: the carry of `addc.n32` is bit 32 of the result, which is the newest history entry; the next takes it in. `subc`
borrows. -/
theorem test_vint_carry :
    (outs tv (.addc 10 3 0 false none) == some (6, 1) && outs tv (.subc 10 1 0 false none) == some (0xFFFFFFFE, 1)
    && outs tv (.addc 10 6 8 true none) == some (0xFFFFFFFB, 0xFFFFFFFF) && outs tv (.subc 10 8 6 true none) == some (11, 0)
    && (nextAnd (exec (.addc 12 3 0 false none) (wU tv)) fun u =>
        laneAnd (exec (.addc 10 0 1 false none) u) 0 fun t => regAt t 10 == 13 && h0 t == 13)) = true := by
  decide +kernel

/-! ## Single steps: floats and complex integers -/

/-- Registers 10 and 11 of lane 0 and the group's flags after an instruction. -/
def fouts (v : List Word) (i : Instr) : Option (Word × Word × Nat) :=
  match exec i (wU v) with
  | .next u => (u.group? 3 5).bind fun g => (g.thread? 0).map fun t => (regAt t 10, regAt t 11, g.fflags.toNat)
  | _ => none

/-- A prefix that only names a rounding mode (R38). -/
def rmPf (m : BitVec 3) : Option Pfx := some { msk := 0, inv := false, z := false, rm := m, c := 0, sat := 0 }

/-- 1.5, 3.0, 1.0, −1.0, +0, quiet NaN, +∞, 2.25; 1.0 in `v10`. -/
def tf : List Word := [0x3FC00000, 0x40400000, 0x3F800000, 0xBF800000, 0, 0x7FC00000, 0x7F800000, 0x40100000, 0, 0, 0x3F800000]

/-- R142, R38, R45: f32 arithmetic; 1/3 to nearest and toward zero (NX), 1/0 (DZ), 0/0 and √−1 (NV, canonical NaN), and the
fourth operand of `fma` and `fnma` from the destination. -/
theorem test_float_arithmetic :
    (([(.fadd 10 0 1 .f32 none, 0x40900000, 0), (.fsub 10 0 1 .f32 none, 0xBFC00000, 0), (.fmul 10 0 0 .f32 none, 0x40100000, 0),
      (.fma 10 0 1 .f32 none, 0x40B00000, 0), (.fnma 10 0 1 .f32 none, 0xC0600000, 0), (.fdiv 10 2 1 .f32 none, 0x3EAAAAAB, 1),
      (.fdiv 10 2 1 .f32 (rmPf 2), 0x3EAAAAAA, 1), (.fdiv 10 2 4 .f32 none, 0x7F800000, 8), (.fdiv 10 4 4 .f32 none, 0x7FC00000, 16),
      (.fsqrt 10 7 .f32 none, 0x3FC00000, 0), (.fsqrt 10 3 .f32 none, 0x7FC00000, 16), (.fsub 10 2 2 .f32 none, 0, 0),
      (.fsub 10 2 2 .f32 (rmPf 3), 0x80000000, 0), (.fscale 10 0 9 .f32 none, 0x3FC00000, 0)] : List (Instr × Word × Nat)).all
      fun p => (fouts tf p.1).map (fun r => (r.1, r.2.2)) == some p.2) = true := by
  decide +kernel

/-- R143 to R145: a NaN yields to a number in `fmin` and not in `fminm`; sign operations keep a NaN; class bits. -/
theorem test_float_select :
    (([(.fmin 10 0 5 .f32 none, 0x3FC00000), (.fmax 10 0 1 .f32 none, 0x40400000), (.fminm 10 0 5 .f32 none, 0x7FC00000),
      (.fmaxm 10 3 0 .f32 none, 0x3FC00000), (.fabs 10 3 .f32 none, 0x3F800000), (.fneg 10 5 .f32 none, 0xFFC00000),
      (.fsgn 10 0 3 .f32 none, 0xBFC00000), (.fclass 10 3 .f32 none, 2), (.fclass 10 4 .f32 none, 0x10), (.fclass 10 5 .f32 none, 0x200),
      (.fclass 10 6 .f32 none, 0x80)] : List (Instr × Word)).all fun p => (fouts tf p.1).map (·.1) == some p.2) = true := by
  decide +kernel

/-- R33, R36: f64 pairs (1 + 2, and 1/3), two f16 elements (1 + 1 and 1 + 2), two bf16 elements, and `fscale` by 3. -/
theorem test_float_types :
    (fouts [0, 0x3FF00000, 0, 0x40000000] (.fadd 10 0 2 .f64 none) == some (0, 0x40080000, 0)
    && fouts [0, 0x3FF00000, 0, 0x40080000] (.fdiv 10 0 2 .f64 none) == some (0x55555555, 0x3FD55555, 1)
    && fouts [0x3C003C00, 0x40003C00] (.fadd 10 0 1 .f16x2 none) == some (0x42004000, 0, 0)
    && fouts [0x3F803F80, 0x40003F80] (.fmul 10 0 1 .bf16x2 none) == some (0x40003F80, 0, 0)
    && fouts [0x3FC00000, 3] (.fscale 10 0 1 .f32 none) == some (0x41400000, 0, 0)
    && fouts [0x7F7FFFFF, 0x7F7FFFFF] (.fadd 10 0 1 .f32 none) == some (0x7F800000, 0, 5)) = true := by
  decide +kernel

/-- R148: the exact special cases. -/
theorem test_float_special :
    (([([0x40000000], .frcp 10 0 .f32 none, 0x3F000000, 0), ([0], .frcp 10 0 .f32 none, 0x7F800000, 8),
      ([0x40800000], .frsq 10 0 .f32 none, 0x3F000000, 0), ([0x40400000], .fex2 10 0 .f32 none, 0x41000000, 0),
      ([0x41000000], .flg2 10 0 .f32 none, 0x40400000, 0), ([0xBF800000], .flg2 10 0 .f32 none, 0x7FC00000, 16),
      ([0x80000000], .fsin 10 0 .f32 none, 0x80000000, 0), ([0], .fcos 10 0 .f32 none, 0x3F800000, 0),
      ([0xFF800000], .ftanh 10 0 .f32 none, 0xBF800000, 0)] : List (List Word × Instr × Word × Nat)).all
      fun p => (fouts p.1 p.2.1).map (fun r => (r.1, r.2.2)) == some p.2.2) = true := by
  decide +kernel

/-- The rounding table of R38 for values into bf16; R43, R44: overflow into e4m3 with and without `.nosat`, and the clamps of a
conversion to an integer; R139: −1 as i8. -/
theorem test_float_conversions :
    (([(1, 0x3F82), (5, 0x3F82), (2, 0x3F81), (3, 0x3F81), (4, 0x3F82)] : List (BitVec 3 × Word)).all
      (fun p => (fouts [0x3F818000] (.fcvt 10 0 false .f32 .bf16 (rmPf p.1))) == some (p.2, 0, 1))
    && (([(1, 0x3F80), (5, 0x3F81), (2, 0x3F80), (3, 0x3F80), (4, 0x3F81)] : List (BitVec 3 × Word)).all
      fun p => (fouts [0x3F808000] (.fcvt 10 0 false .f32 .bf16 (rmPf p.1))) == some (p.2, 0, 1))
    && (([(1, 0xBF82), (5, 0xBF82), (2, 0xBF81), (3, 0xBF82), (4, 0xBF81)] : List (BitVec 3 × Word)).all
      fun p => (fouts [0xBF818000] (.fcvt 10 0 false .f32 .bf16 (rmPf p.1))) == some (p.2, 0, 1))
    && fouts [0x44000000] (.fcvt 10 0 false .f32 .e4m3 none) == some (0x7E, 0, 5)
    && fouts [0x44000000] (.fcvt 10 0 true .f32 .e4m3 none) == some (0x7F, 0, 16)
    && fouts [0x40200000] (.fcvt 10 0 false .f32 .i32 none) == some (2, 0, 1)
    && fouts [0xBF800000] (.fcvt 10 0 false .f32 .i8 none) == some (0xFF, 0, 0)
    && fouts [0xBF800000] (.fcvt 10 0 false .f32 .n32 none) == some (0, 0, 16)
    && fouts [0x7FC00000] (.fcvt 10 0 false .f32 .i32 none) == some (0, 0, 16)
    && fouts [0xFFFFFFFF] (.fcvt 10 0 false .i32 .f64 none) == some (0, 0xBFF00000, 0)) = true := by
  decide +kernel

/-- R40: after a write of 1 to `c.srseed`, the first stochastic conversion of 0x3F818000 in lanes 0, 1 and 2. -/
theorem test_float_stochastic :
    (nextAnd (exec (.srseedWrite .write 2) { wU [0x3F818000] with groups := [{ wGroup .u [0x3F818000] with
        s := (List.range 32).map fun n => { val := if n = 2 then 1 else 0, taint := false, poison := false } }] }) fun u =>
      groupAnd (exec (.fcvt 10 0 false .f32 .bf16 (rmPf 6)) u) fun g =>
        g.threads.map (fun t => (regAt t 10, t.srg)) |>.take 3 |> fun l =>
          l == [(0x3F81, 0x00042021), (0x3F81, 0x51086638), (0x3F82, 0xA21CAC13)]) = true := by
  decide +kernel

/-- R151: −2.5 and −0.3 under each mode. R152: the third of one. R153: the table of `fpack` and `funpk`. -/
theorem test_float_round_split_pack :
    (([(1, 0xC0000000), (5, 0xC0400000), (3, 0xC0400000), (2, 0xC0000000), (4, 0xC0000000)] : List (BitVec 3 × Word)).all
      (fun p => (fouts [0xC0200000] (.fround 10 0 .f32 (rmPf p.1))) == some (p.2, 0, 1))
    && fouts [0xBE99999A] (.fround 10 0 .f32 (rmPf 4)) == some (0x80000000, 0, 1)
    && fouts [0x3EAAAAAB] (.fsplitBf16 10 0 none) == some (0x3AAA3EAA, 0x000036AB, 0)
    && fouts [0x43960000, 0x7F] (.fpack 10 0 .e4m3 none) == some (0x79, 0, 1)
    && fouts [0x43960000, 0x80] (.fpack 10 0 .e4m3 none) == some (0x71, 0, 1)
    && fouts [0x40F00000, 0x7F] (.fpack 10 0 .e2m1 none) == some (7, 0, 5)
    && fouts [0x79, 0x80] (.funpk 10 0 .e4m3 none) == some (0x44100000, 0, 0)
    && fouts [0x3, 0xFF] (.funpk 10 0 .e2m1 none) == some (0x7FC00000, 0, 0)) = true := by
  decide +kernel

/-- R154, R155: the examples of `cmac.ci8` and `cunpk.ci4`; (1 + 2i)(3 + 4i) = −5 + 10i; conjugates with and without saturation;
the largest squared magnitude, 2^31. -/
theorem test_complex :
    (fouts ([0x00000180, 0x0000FF7F] ++ List.replicate 8 0 ++ [0x7FFFFF00, 0x10]) (.cmacCi8 10 0 1 (pf 0 false 0 1))
        == some (0x7FFFBF81, 0x0000010F, 0)
    && fouts [0x00000F78] (.cunpkCi4 8 0 none) == some (0, 0, 0)
    && laneAnd (exec (.cunpkCi4 12 0 none) (wU [0x00000F78])) 0 (fun t => regAt t 12 == 0x0007FFF8 && regAt t 13 == 0x0000FFFF && h0 t == 0)
    && fouts [0x00020001, 0x00040003] (.cmulCi16 10 0 1 none) == some (0x000AFFFB, 0, 0)
    && fouts [0x00020001, 0x00040003] (.cmacCi16 10 0 1 none) == some (0xFFFFFFFB, 10, 0)
    && fouts [0x00028000, 0x00048000] (.caddCi16 10 0 1 none) == some (0x00060000, 0, 0)
    && fouts [0x00028000, 0x00048000] (.caddCi16 10 0 1 (pf 0 false 0 1)) == some (0x00068000, 0, 0)
    && fouts [1, 2, 3, 4] (.caddCi32 10 0 2 none) == some (4, 6, 0)
    && fouts [0x80000001] (.cconjCi16 10 0 none) == some (0x80000001, 0, 0)
    && fouts [0x80000001] (.cconjCi16 10 0 (pf 0 false 0 1)) == some (0x7FFF0001, 0, 0)
    && fouts [1, 2] (.cconjCi32 10 0 none) == some (1, 0xFFFFFFFE, 0)
    && fouts [0x80008000] (.cmag2Ci16 10 0 none) == some (0x80000000, 0, 0)
    && fouts [0x04030201] (.cunpkCi8 10 0 none) == some (0x00020001, 0x00040003, 0)) = true := by
  decide +kernel

/-- Mask 3 after an instruction. -/
def mouts (v : List Word) (i : Instr) : Option DWord :=
  match exec i (wU v) with
  | .next u => (u.group? 3 5).bind fun g => g.m[3]?.map (·.val)
  | _ => none

/-- R132, R147: the integer compare reads its type's sign; a NaN is unordered; −0 equals +0; the packed compare needs both
elements; lanes that do not exist keep their bits. -/
theorem test_compares :
    (([(tv, .cmp 3 2 0 .i32 .lt none, 0x0F), (tv, .cmp 3 2 0 .n32 .lt none, 0), (tv, .cmp 3 6 8 .i64 .lt none, 0x0F),
      (tv, .cmp 3 6 8 .n64 .ge none, 0x0F), (tf, .fcmp 3 0 5 .f32 .lt none, 0), (tf, .fcmp 3 0 5 .f32 .ne none, 0x0F),
      (tf, .fcmp 3 0 5 .f32 .un none, 0x0F), ([0x80000000, 0], .fcmp 3 0 1 .f32 .eq none, 0x0F),
      ([0x3C003C00, 0x3C004000], .fcmp 3 0 1 .f16x2 .eq none, 0), ([0x3C003C00, 0x3C004000], .fcmp 3 0 1 .f16x2 .ne none, 0x0F)] :
      List (List Word × Instr × DWord)).all
      fun p => mouts p.1 p.2.1 == some p.2.2) = true := by
  decide +kernel

/-! ## Single steps: cross-lane, masks and scalars -/

/-- `v10` of lanes 0 to 3 after an instruction, with registers `v` before it; source 0x3F gives the lane. -/
def xouts (v : List Word) (i : Instr) : Option (List Word) :=
  match exec i (wU v) with
  | .next u => (u.group? 3 5).map fun g => g.threads.map (regAt · 10)
  | _ => none

/-- R160 in a group of width 8 whose lanes 4 to 7 have exited: an in-range pick, a pick from an exited lane, a segment of 2,
and distances 1 and gw/4 = 2; a source out of range or exited gives the lane's own value. -/
theorem test_shuffles :
    (([(.xlPick 10 0x3F 0 0 none, [2, 2, 2, 2]), (.xlPick 10 0x3F 1 0 none, [0, 1, 2, 3]), (.xlPick 10 0x3F 0x3E 2 none, [0, 0, 2, 2]),
      (.xlSwap 10 0x3F 2 0 none, [1, 0, 3, 2]), (.xlSwap 10 0x3F 0 2 none, [2, 3, 0, 1]), (.xlFwd 10 0x3F 2 0 none, [0, 0, 1, 2]),
      (.xlBack 10 0x3F 2 0 none, [1, 2, 3, 3]), (.xlFwd 10 0x3F 0 2 none, [0, 1, 0, 1])] : List (Instr × List Word)).all
      fun p => xouts [2, 5, 1] p.1 == some p.2) = true := by
  decide +kernel

/-- R161, R162: sums, extremes and bit operations over lanes 0, 1, 2 and 3, and a float sum of four ones. -/
theorem test_reductions :
    (([(.red 10 0x3F .addI32, [6, 6, 6, 6]), (.scan 10 0x3F .addI32, [0, 1, 3, 6]), (.red 10 0x3F .maxI32, [3, 3, 3, 3]),
      (.red 10 0x3F .minN32, [0, 0, 0, 0]), (.scan 10 0x3F .xorB32, [0, 1, 3, 0]), (.red 10 0x3F .orB32, [3, 3, 3, 3]),
      (.red 10 0x3F .andB32, [0, 0, 0, 0]), (.red 10 0 .faddF32, [0x40800000, 0x40800000, 0x40800000, 0x40800000]),
      (.scan 10 0 .faddF32, [0x3F800000, 0x40000000, 0x40400000, 0x40800000])] : List (Instr × List Word)).all
      fun p => xouts [0x3F800000] p.1 == some p.2) = true := by
  decide +kernel

/-- R136, R163: `match` on the lane gives each lane its own bit, and on equal values all four; `popm` of `m0` ranks the lanes. -/
theorem test_match_popm :
    (xouts [] (.matchLanes 10 0x3F) == some [1, 2, 4, 8] && xouts [] (.matchLanes 10 0x3E) == some [15, 15, 15, 15]
    && xouts [] (.popm 10 0) == some [0, 1, 2, 3]) = true := by
  decide +kernel

/-- Scalar `s9`, then `m1` and `m2`, after an instruction of a group whose `s1` to `s4` hold 7, −3, the least value and 65, whose
`m1` is 0x0E and whose `m2` is 0x35. -/
def souts (i : Instr) : Option (DWord × DWord × DWord) :=
  match exec i (wState { wScalar (wGroup .u []) [(1, 7), (2, 0xFFFFFFFFFFFFFFFD), (3, 0x8000000000000000), (4, 65), (9, 1)] with
      m := [0xFF, 0x0E, 0x35, 0, 0, 0, 0, 0].map fun v => { val := v, poison := false } }) with
  | .next u => (u.group? 3 5).bind fun g =>
    match g.s[9]?, g.m[1]?, g.m[2]? with
    | some x, some y, some z => some (x.val, y.val, z.val)
    | _, _, _ => none
  | _ => none

/-- R163, R164: votes and whole-mask operations; `mnot m1, m0` gives 0 (the specification's example). -/
theorem test_masks :
    (([(.voteAny 9 0x3F, 1), (.voteAll 9 0x3F, 0), (.voteAll 9 0, 0), (.mpop 9 2, 4), (.mfirst 9 1, 1), (.mfirst 9 3, 64),
      (.mget 9 2, 0x35)] : List (Instr × DWord)).all (fun p => (souts p.1).map (·.1) == some p.2)
    && ([(.mand 1 1 2, 0x04), (.mor 1 1 2, 0x3F), (.mxor 1 1 2, 0x3B), (.mnot 1 2, 0xCA), (.mnot 1 0, 0), (.mmov 1 2, 0x35),
      (.mset 1 1, 7), (.mset 1 2, 0xFD), (.ballot 1 0x3F, 0x0E), (.ballot 2 0x3F, 0x0E)] : List (Instr × DWord)).all
      (fun p => (souts p.1).map (·.2.1) == some p.2)
    && (souts (.ballot 2 0x3F)).map (·.2.2) == some 0x3E) = true := by
  decide +kernel

/-- R133, R123, R31: every scalar operation; shifts of 64 or more; comparisons of a negative value, signed and not. -/
theorem test_scalar :
    (([(.sadd 9 1 2, 4), (.ssub 9 2 1, 0xFFFFFFFFFFFFFFF6), (.smul 9 1 2, 0xFFFFFFFFFFFFFFEB), (.smulhi 9 1 2, 0xFFFFFFFFFFFFFFFF),
      (.sdiv 9 1 2, 0xFFFFFFFFFFFFFFFE), (.sdivN 9 2 1, 0x2492492492492491), (.srem 9 1 2, 1), (.sremN 9 2 1, 6), (.sdiv 9 1 0x3E, 0xFFFFFFFFFFFFFFFF), (.srem 9 1 0x3E, 7),
      (.smin 9 1 2, 0xFFFFFFFFFFFFFFFD), (.sminN 9 1 2, 7), (.smax 9 1 2, 7), (.smaxN 9 1 2, 0xFFFFFFFFFFFFFFFD), (.sand 9 1 2, 5),
      (.sor 9 1 2, 0xFFFFFFFFFFFFFFFF), (.sxor 9 1 2, 0xFFFFFFFFFFFFFFFA), (.sshl 9 1 1, 0x380), (.sshl 9 1 4, 0), (.sshr 9 3 1, 0x0100000000000000),
      (.ssra 9 3 1, 0xFF00000000000000), (.ssra 9 3 4, 0xFFFFFFFFFFFFFFFF), (.sclz 9 1, 61), (.sclz 9 0x3E, 64), (.spopc 9 2, 63), (.smov 9 4, 65),
      (.ssel 9 1 2, 7), (.scmpEq 9 1 1, 1), (.scmpNe 9 1 1, 0), (.scmpLt 9 2 1, 1), (.scmpLe 9 1 2, 0), (.scmpLtN 9 2 1, 0),
      (.scmpLeN 9 1 2, 1)] : List (Instr × DWord)).all fun p => (souts p.1).map (·.1) == some p.2) = true := by
  decide +kernel

/-- R134: immediates are sign-extended, literals whole; a shift amount is read unsigned. -/
theorem test_scalar_immediates :
    (([(.saddImm 9 1 0xFF none, 6), (.smulImm 9 2 3 none, 0xFFFFFFFFFFFFFFF7), (.sandImm 9 2 0xF0 none, 0xFFFFFFFFFFFFFFF0),
      (.sorImm 9 1 8 none, 15), (.sxorImm 9 1 0xFF none, 0xFFFFFFFFFFFFFFF8), (.sshlImm 9 1 63 none, 0x8000000000000000),
      (.sshrImm 9 3 63 none, 1), (.ssraImm 9 3 200 none, 0xFFFFFFFFFFFFFFFF), (.saddImm 9 1 0 (some 0x100000000), 0x100000007),
      (.smovi 9 0x80, 0xFFFFFFFFFFFFFF80), (.slit 9 0x123456789ABCDEF0, 0x123456789ABCDEF0)] : List (Instr × DWord)).all
      fun p => (souts p.1).map (·.1) == some p.2) = true := by
  decide +kernel

/-! ## Single steps: memory -/

/-- A thread whose `v0:v1` addresses the last 16 bytes of its scratchpad, with 7 in `v2` and 9 in `v3`, over the bytes of `n` there. -/
def wMem (n : Nat) : State := { wState (wAddr [0] 0xF0000000) with mem := memFill [] (spadKey 3 4080) (toBytes n 16) }

/-- Registers `d` to `d + 3` of the thread and the number its 16 bytes hold, after an instruction. -/
def memAfter (n d : Nat) (i : Instr) : Option (List Word × Nat) :=
  match exec i (wMem n) with
  | .next u => (u.group? 3 5).bind fun g => (g.thread? 0).map fun t =>
      ((List.range 4).map fun k => regAt t (d + k), leNat ((List.range 16).map fun k => u.readKey (spadKey 3 (4080 + k))))
  | _ => none

/-- R211, R215: zero and sign extension, little-endian bytes, and a displacement of 4. -/
theorem test_loads :
    (([(.ld 4 0 .b .plain 0 .dflt none none, [0x80, 0, 0, 0]), (.ld 4 0 .bi .plain 0 .dflt none none, [0xFFFFFF80, 0, 0, 0]),
      (.ld 4 0 .h .plain 0 .dflt none none, [0x9180, 0, 0, 0]), (.ld 4 0 .hi .plain 0 .dflt none none, [0xFFFF9180, 0, 0, 0]),
      (.ld 4 0 .w .plain 0 .dflt none none, [0xB3A29180, 0, 0, 0]), (.ld 4 0 .d .acq 5 .a8 none none, [0xB3A29180, 0x07060504, 0, 0]),
      (.ld 4 0 .q .nt 0 .dflt none none, [0xB3A29180, 0x07060504, 0x0B0A0908, 0x0F0E0D0C]),
      (.ld 4 0 .w .plain 0 .dflt (some 4) none, [0x07060504, 0, 0, 0])] : List (Instr × List Word)).all
      fun p => memAfter 0x0F0E0D0C0B0A090807060504B3A29180 4 p.1 == some (p.2, 0x0F0E0D0C0B0A090807060504B3A29180)) = true := by
  decide +kernel

/-- R221: the address is A + (index << scale) + offset: 7 + 1, and 2 · 7 − 2; a store indexed in the same way. -/
theorem test_indexed :
    (memAfter 0x0F0E0D0C0B0A090807060504B3A29180 4 (.ldx 4 0 .w .plain 0 .dflt 1 0 2 none)
      == some ([0x0B0A0908, 0, 0, 0], 0x0F0E0D0C0B0A090807060504B3A29180)
    && memAfter 0x0F0E0D0C0B0A090807060504B3A29180 4 (.ldx 4 0 .w .plain 0 .dflt 0xFFFFFFFE 1 2 none)
      == some ([0x0F0E0D0C, 0, 0, 0], 0x0F0E0D0C0B0A090807060504B3A29180)
    && (memAfter 0 4 (.stx 3 0 .b .plain 0 .dflt 0xFFFFFFF9 0 2 none)).map (·.2) == some 9) = true := by
  decide +kernel

/-- R216: every size of store, and a uniform operand. -/
theorem test_stores :
    (([(.st 2 0 .b .plain 0 .dflt none none, 0xFFFFFFFFFFFFFFFFFFFFFFFFFFFFFF07), (.st 2 0 .h .rlx 5 .dflt none none, 0xFFFFFFFFFFFFFFFFFFFFFFFFFFFF0007),
      (.st 2 0 .w .rel 5 .dflt none none, 0xFFFFFFFFFFFFFFFFFFFFFFFF00000007), (.st 2 0 .d .nt 0 .a8 none none, 0xFFFFFFFFFFFFFFFF0000000900000007),
      (.st 0 0 .q .plain 0 .a16 none none, 0x0000000900000007F000000000000FF0), (.st 0x3E 0 .w .plain 0 .dflt (some 4) none, 0xFFFFFFFFFFFFFFFF00000000FFFFFFFF)] :
      List (Instr × Nat)).all fun p => (memAfter (2 ^ 128 - 1) 4 p.1).map (·.2) == some p.2) = true := by
  decide +kernel

/-- R223: each 4-byte atomic on an old value with the operand 7 (`cas`: compare 7, new 9); the register receives the old value. -/
theorem test_atomics :
    (([(5, .atomAdd 2 0 .rlx 2 false, 12), (5, .atomSub 2 0 .rlx 2 false, 0xFFFFFFFE), (0xFFFFFFFF, .atomMinI 2 0 .rlx 2 false, 0xFFFFFFFF),
      (0xFFFFFFFF, .atomMaxI 2 0 .rlx 2 false, 7), (0xFFFFFFFF, .atomMinN 2 0 .rlx 2 false, 7),
      (0xFFFFFFFF, .atomMaxN 2 0 .rlx 2 false, 0xFFFFFFFF), (13, .atomAnd 2 0 .rlx 2 false, 5), (8, .atomOr 2 0 .rlx 2 false, 15),
      (5, .atomXor 2 0 .rlx 2 false, 2), (5, .atomXchg 2 0 .rlx 2 false, 7), (7, .atomCas 2 0 .rlx 2 false, 9),
      (5, .atomCas 2 0 .rlx 2 false, 5), (5, .atomIncw 2 0 .rlx 2 false, 6), (7, .atomIncw 2 0 .rlx 2 false, 0),
      (0, .atomDecw 2 0 .rlx 2 false, 7), (9, .atomDecw 2 0 .rlx 2 false, 7), (5, .atomDecw 2 0 .rlx 2 false, 4),
      (5, .atomAddF 2 0 .rlx 2 false, 12)] : List (Nat × Instr × Nat)).all
      fun p => (memAfter p.1 2 p.2.1).map (fun r => (r.1.take 2, r.2)) == some ([BitVec.ofNat 32 p.1, 9], p.2.2)) = true := by
  decide +kernel

/-- R223, R225: the 8- and 16-byte forms, and a memory reduction, which returns nothing. -/
theorem test_atomics_wide :
    ((memAfter 0xFFFFFFFF 2 (.atomAdd 2 0 .acqrel 5 true)).map (fun r => (r.1.take 2, r.2)) == some ([0xFFFFFFFF, 0], 0x0000000A00000006)
    && memAfter 5 4 (.atomXchgA16 4 0 .rlx 2) == some ([5, 0, 0, 0], 0)
    && memAfter 5 8 (.atomCasA16 8 0 .rlx 2) == some ([5, 0, 0, 0], 5)
    && (memAfter 5 2 (.memoryReduction 2 0 .add .rel 2 false)).map (fun r => (r.1.take 2, r.2)) == some ([7, 9], 12)) = true := by
  decide +kernel

/-- R224: lanes of one instruction at one address are applied lowest first. -/
theorem test_atomic_lane_order :
    (nextAnd (exec (.atomAdd 2 0 .rlx 2 false) { wState { wG with threads := (List.range 4).map (wThread 0x1000 [4080, 0xF0000000, 7, 9]) } with
        mem := memFill [] (spadKey 3 4080) (toBytes 5 4) }) fun u =>
      u.readKey (spadKey 3 4080) == 33 && ((u.group? 3 5).map fun g => g.threads.map (regAt · 2)) == some [5, 12, 19, 26]) = true := by
  decide +kernel

/-- The worked example of the atomics: eight lanes `cas` 0 for lane + 1 at one word, then `incw` it with bound 3. -/
theorem test_atomic_example :
    (let g := wScalar { wG with threads := (List.range 8).map fun i => wThread 0x1000 [0, BitVec.ofNat 32 (i + 1), 3] i } [(2, 0xF000000000000100)]
     nextAnd (exec (.atomCas 0 0x32 .acqrel 2 false) { wState g with cur := { core := 3, slot := 5, lanes := 0xFF, words := [0] } }) fun u =>
      u.readKey (spadKey 3 0x100) == 1 && ((u.group? 3 5).map fun g => g.threads.map (regAt · 0)) == some [0, 1, 1, 1, 1, 1, 1, 1]
      && nextAnd (exec (.atomIncw 2 0x32 .acqrel 2 false) u) fun w =>
        w.readKey (spadKey 3 0x100) == 1 && ((w.group? 3 5).map fun g => g.threads.map (regAt · 2)) == some [1, 2, 3, 0, 1, 2, 3, 0]) = true := by
  decide +kernel

/-- R223: had the address ended in 2, every lane would raise ALIGN, and no lane would write. -/
theorem test_atomic_misaligned :
    (nextAnd (exec (.atomCas 0 0x32 .acqrel 2 false) (wState (wScalar (wGroup .u [0, 9]) [(2, 0xF000000000000102)]))) fun u =>
      u.readKey (spadKey 3 0x102) == 0 && u.faultq.map (·.body.code) == List.replicate 4 .align
      && ((u.group? 3 5).map fun g => g.threads.map fun t => (t.pc, t.st == .ready)) == some (List.replicate 4 (0x1000, false))) = true := by
  decide +kernel

/-- R230: `sp.clr` makes the line absent, `sp.test` gives 1 for it, and `sp.set` makes it present. -/
theorem test_presence :
    (nextAnd (exec (.spClr 0 none) (wMem 0)) fun u => u.presence 1 4080 4 != .present
      && laneAnd (exec (.spTest 4 0 none) u) 0 (fun t => regAt t 4 == 1)
      && nextAnd (exec (.spSet 0 none) u) fun u2 => u2.presence 1 4080 4 == .present) = true := by
  decide +kernel

/-- R227 to R229: prefetches, fences, `cwb` and `cinv` change no register and no byte. -/
theorem test_no_effect_on_values :
    ([.pf false 0 none, .pf true 0 none, .ipf 0 none, .phaseBegin 5, .phaseEnd 5, .phase 5, .fence 5, .nop] : List Instr).all
      (fun i => memAfter 0x0102 0 i == some ([0xFF0, 0xF0000000, 7, 9], 0x0102)) = true := by
  decide +kernel

/-! ## Single steps: control, barriers, calls, control registers, engines -/

/-- The program counters of the four lanes after an instruction of a group at 0x1000 with registers `v`. -/
def pcs (v : List Word) (i : Instr) : Option (List DWord) :=
  match exec i (wU v) with
  | .next u => (u.group? 3 5).map fun g => g.threads.map (·.pc)
  | _ => none

/-- R171, R55: a branch back by two words, per-lane branches on the lane number, scalar branches on `s0` = 0, an absolute target. -/
theorem test_branches :
    (([(.bra 0x3FFE none, [0xFF8, 0xFF8, 0xFF8, 0xFF8]), (.bra 0 (some 0x123456789ABC), List.replicate 4 0x123456789ABC),
      (.brz 0x3F 4 none, [0x1010, 0x1004, 0x1004, 0x1004]), (.brnz 0x3F 4 none, [0x1004, 0x1010, 0x1010, 0x1010]),
      (.bsz 0 4 none, List.replicate 4 0x1010), (.bsnz 0 4 none, List.replicate 4 0x1004), (.nop, List.replicate 4 0x1004)] :
      List (Instr × List DWord)).all fun p => pcs [] p.1 == some p.2) = true := by
  decide +kernel

/-- R172: `call` saves the next address in its pair and pushes no history; `ret` and `jmp` ignore bits 1..0 of the target. -/
theorem test_calls :
    (laneAnd (exec (.call 10 4 none) (wU [])) 2 (fun t => t.pc == 0x1010 && regAt t 10 == 0x1004 && regAt t 11 == 0 && h0 t == 0)
    && pcs [0x2003, 8] (.ret 0) == some (List.replicate 4 0x0000000800002000)
    && pcs [0x2000, 8] (.jmp 0) == some (List.replicate 4 0x0000000800002000)) = true := by
  decide +kernel

/-- R173, R182, R184, R294: `exit` ends the threads, and the slot is free once all have; `sleep` and `wfe` make them wait; `halt` below F raises PRIV. -/
theorem test_rest :
    (nextAnd (exec .exit (wU [])) (fun u => (u.groups.all fun g => g.live == []) && (u.group? 3 5).isNone)
    && groupAnd (exec (.sleep 0x3F) (wU [])) (fun g => g.threads.all fun t => t.st != .ready && t.pc == 0x1004)
    && groupAnd (exec .yield (wU [])) (fun g => g.threads.all fun t => t.pc == 0x1004)
    && groupAnd (exec .wfe (wU [])) (fun g => g.threads.all fun t => t.st != .ready && t.pc == 0x1004)
    && nextAnd (exec .halt (wU [])) (fun u => u.faultq.map (·.body.code) == [.priv])
    && groupAnd (exec .fenceI (wU [])) (fun g => g.threads.all fun t => t.pc == 0x1004)) = true := by
  decide +kernel

/-- R176: a pushed frame has the cohort as its members and its label; `rcv.drop` leaves it, `rcv.pop` closes it. -/
theorem test_reconvergence :
    (nextAnd (exec (.rcvPush 8 none) (wU [])) fun u =>
      groupAnd (.next u) (fun g => g.frames.map (fun f => (f.label, f.members)) == [(0x1020, 0xF)] && g.rcvdepth == 1)
      && groupAnd (exec .rcvPop u) (fun g => g.frames == [] && g.rcvdepth == 0)
      && groupAnd (exec .rcvDrop u) (fun g => g.frames == [] && g.threads.all fun t => t.pc == 0x1008)) = true := by
  decide +kernel

/-- R398 to R404: the one group of a team passes the team barrier and the named barrier at once; a barrier initialised to 2 needs
two arrivals to change its phase. -/
theorem test_barriers :
    (groupAnd (exec .barTeam (wU [])) (fun g => g.threads.all fun t => t.st == .ready && t.pc == 0x1004)
    && groupAnd (exec (.barNamed 0x3E 3) (wU [])) (fun g => g.threads.all fun t => t.st == .ready && t.pc == 0x1004)
    && nextAnd (exec (.cbInit 1 2) (wState (wScalar (wGroup .u []) [(1, 2)]))) fun u =>
      ((u.team? 1).bind (·.cbs[2]?)).any (fun c => c.exp == 2 && c.cnt == 0 && !c.ph)
      && groupAnd (exec (.cbWait 2) u) (fun g => g.threads.all fun t => t.st != .ready)
      && nextAnd (exec (.cbArrive 2) u) fun w =>
        ((w.team? 1).bind (·.cbs[2]?)).any (fun c => c.cnt == 1 && !c.ph)
        && nextAnd (exec (.cbArrive 2) w) fun x =>
          ((x.team? 1).bind (·.cbs[2]?)).any (fun c => c.cnt == 0 && c.ph)
          && groupAnd (exec (.cbWait 2) x) (fun g => g.threads.all fun t => t.st == .ready)) = true := by
  decide +kernel

/-- R180, R181: `ecall` posts one record per thread; `ebreak` and `trap` one for the cohort; `wcall` from U raises PRIV. -/
theorem test_calls_to_services :
    (nextAnd (exec (.ecall 9) (wRoom (wU []))) (fun u => u.easel.length == 4 && u.easel.all fun e => e.body.kind == 1 && e.body.num == 9)
    && nextAnd (exec (.ebreak 7) (wRoom (wU []))) (fun u => u.easel.map (·.body.num) == [7])
    && nextAnd (exec (.trap 6) (wRoom (wU []))) (fun u => u.easel.map (·.body.num) == [6])
    && nextAnd (exec (.wcall 5) (wRoom (wU []))) (fun u => u.easel == [] && u.faultq.map (·.body.code) == [.priv])) = true := by
  decide +kernel

/-- R118, R38, R45, R109, R116: `c.rm` never holds 0b000; flags are set and cleared by bits; `c.wmax` reads 64; `c.bpc` is not for U. -/
theorem test_control_registers :
    (groupAnd (exec (.rmWrite .write 0) (wU [])) (fun g => g.rm == 1)
    && groupAnd (exec (.rmWrite .write 1) (wState (wScalar (wGroup .u []) [(1, 4)]))) (fun g => g.rm == 4)
    && groupAnd (exec (.fflagsWrite .set 1) (wState (wScalar (wGroup .u []) [(1, 0x15)]))) (fun g => g.fflags == 0x15)
    && groupAnd (exec (.fflagsWrite .clear 1) (wState { wScalar (wGroup .u []) [(1, 0x11)] with fflags := 0x1F })) (fun g => g.fflags == 0x0E)
    && groupAnd (exec (.csrr 4 0x000) (wU [])) (fun g => (g.s.map (·.val)).getD 4 0 == 64)
    && nextAnd (exec (.bpcWrite .write 1) (wU [])) (fun u => u.faultq.map (·.body.code) == [.priv])) = true := by
  decide +kernel

/-- R136, R137: one lane's register to a scalar and back; lane 2. -/
theorem test_lane_access :
    (groupAnd (exec (.sRd 4 3 1) (wState (wScalar (wGroup .u tv) [(1, 2)]))) (fun g => (g.s.map (·.val)).getD 4 0 == 0xFFFFFFFF)
    && groupAnd (exec (.sWr 10 2 1) (wState (wScalar (wGroup .u tv) [(1, 2), (2, 0x123456789)]))) (fun g =>
      g.threads.map (regAt · 10) == [100, 100, 0x23456789, 100])) = true := by
  decide +kernel

/-- R46: the two worked cases of the chunk boundary (C = 0.5), and the integer wrap with and without saturation. -/
theorem test_matrix_elements :
    (let at_ (l : List (Nat × Nat)) (w n : Nat) : List Byte :=
      (List.range n).flatMap fun k => toBytes (((l.find? fun p => p.1 == k).map (·.2)).getD 0) w
    matElem 1 false false 0x3F000000 (at_ [(0, 0x4580), (1, 0x3F80), (2, 0xC580)] 2 128) (at_ [(0, 0x4580), (1, 0x3F80), (2, 0x4580)] 2 128) [] []
      == 0x3FC00000
    && matElem 1 false false 0x3F000000 (at_ [(0, 0x4580), (16, 0x3F80), (32, 0xC580)] 2 128)
      (at_ [(0, 0x4580), (16, 0x3F80), (32, 0x4580)] 2 128) [] [] == 0
    && matElem 0xA false false 0x7FFFFFF6 (at_ [(0, 127)] 1 256) (at_ [(0, 127)] 1 256) [] [] == 0x80003EF7
    && matElem 0xA true false 0x7FFFFFF6 (at_ [(0, 127)] 1 256) (at_ [(0, 127)] 1 256) [] [] == 0x7FFFFFFF) = true := by
  decide +kernel

/-- R270, R271: `mrdy` arms the group; the post enters the FIFO and disarms it. -/
theorem test_matrix_post :
    (groupAnd (exec .mrdy (wState { wMat with armed := false })) (fun g => g.armed)
    && nextAnd (exec (.mma wSolo) (wState wMat)) (fun u => u.mcmds.length == 1 && (u.group? 3 5).any fun g => !g.armed)) = true := by
  decide +kernel

/-- R280, R283: the second piece of a row lands its bytes; a command whose bytes have landed ends. -/
theorem test_copy :
    (nextAnd (exec (.copyRowLanding 7 1) { wU [] with ccmds := [wCopy true [0, 1]], mem := memFill [] (spadKey 3 0) (toBytes (0xAB * 256 ^ 200) 256) })
        (fun u => u.readKey (spadKey 3 (3840 + 200)) == 0xAB && (u.ccmds.map (·.todo)) == [[0]])
    && nextAnd (exec (.copyEnterFlight 7) { wU [] with ccmds := [wCopy false []] }) (fun u => u.ccmds.map (·.flying) == [true])
    && nextAnd (exec (.copyComplete 7) { wU [] with ccmds := [wCopy true []] }) (fun u => u.ccmds == [])) = true := by
  decide +kernel

/-- R260: `pop` gives each lane a slot or 0xFFFF in its newest history entry and the count in its scalar. -/
theorem test_pop :
    (let s := { wState (wGroup .s []) with easel := [wRec 9 1 false, wRec 4 0 false] }
    groupAnd (exec (.pop 1 .qe) s) fun g => (g.s.map (·.val)).getD 1 0 == 2 && g.threads.map h0 == [4, 9, 0xFFFF, 0xFFFF]) = true := by
  decide +kernel

/-- R51, R134: the word of `smovi s4, 5`, placed where the first instruction after reset is fetched, runs and leaves 5 in `s4`. -/
theorem test_step_runs_first_instruction :
    (match step (State.reset.withFetchWord 32 0x0B13E805) with
    | .next u => u.groups.map fun g => (g.s.map (·.val)).getD 4 0
    | _ => []) = [5] := by
  decide +kernel

/-! ## Witnesses over the real numbers, and for clauses that single out a case -/

/-- The values of some encodings of f32: 1, 2, 1/2, 3, 4 and −2. -/
theorem value_f32 : FF.f32.value 0x3F800000 = 1 ∧ FF.f32.value 0x40000000 = 2 ∧ FF.f32.value 0x3F000000 = 1 / 2 ∧
    FF.f32.value 0x40400000 = 3 ∧ FF.f32.value 0x40800000 = 4 ∧ FF.f32.value 0xC0000000 = -2 ∧ FF.f32.value 0x43000000 = 128 := by
  have h : ∀ p ∈ [(0x3F800000, false, (127 : Nat), (0 : Nat)), (0x40000000, false, 128, 0), (0x3F000000, false, 126, 0),
      (0x40400000, false, 128, 0x400000), (0x40800000, false, 129, 0), (0xC0000000, true, 128, 0), (0x43000000, false, 134, 0)],
      Nat.testBit p.1 (FF.f32.width - 1) = p.2.1 ∧ FF.f32.expo p.1 = p.2.2.1 ∧ FF.f32.fract p.1 = p.2.2.2 := by decide +kernel
  have b : FF.f32.bias = 127 := by decide
  have c : FF.f32.frac = 23 := by decide
  simp only [List.forall_mem_cons] at h
  obtain ⟨⟨a1, a2, a3⟩, ⟨b1, b2, b3⟩, ⟨c1, c2, c3⟩, ⟨d1, d2, d3⟩, ⟨e1, e2, e3⟩, ⟨f1, f2, f3⟩, ⟨g1, g2, g3⟩, -⟩ := h
  simp only [FF.value, a1, a2, a3, b1, b2, b3, c1, c2, c3, d1, d2, d3, e1, e2, e3, f1, f2, f3, g1, g2, g3, b, c]
  norm_num

/-- FloatArithmetic, FloatSpecialFunctions: a mode, and operands that are a NaN, infinite, zero, finite and negative. -/
theorem witness_FloatOperands : FF.f32 ∈ vfpFormats ∧ (∀ r, RMode.rne ≠ .sr r) ∧ 0xFFFFFFFF < 2 ^ FF.f32.width ∧
    firstNan .f32 [0, 0x7F800001] = some (0x7FC00001, 16#5) ∧ firstNan .f32 [0xFF800000, 0x3F800000] = none ∧
    isZeroEnc .f32 0x80000000 = true ∧ FF.f32.isInfEnc 0xFF800000 = true ∧ FF.f32.isNanEnc 0xFFC00000 = true ∧
    FF.f32.Finite 0xC0000000 ∧ FF.f32.value 0xC0000000 < 0 :=
  ⟨by decide, fun r h => (by cases h), by decide, by decide, by decide, by decide, by decide, by decide,
    ⟨by decide, by decide, by decide⟩, by rw [value_f32.2.2.2.2.2.1]; norm_num⟩

/-- FloatSpecialFunctions, the exact cases: 1/2, 1/√4, 2^1, log2 2 and log2 1; 2^128 is beyond f32. -/
theorem witness_FloatSpecialFunctions :
    (∀ z ∈ [0x3F800000, 0x40000000, 0x3F000000, 0x40800000, 0x43000000], FF.f32.Finite z) ∧
    (|FF.f32.value 0x40000000| = 2 ^ (1 : ℤ) ∧ FF.f32.value 0x40000000 * FF.f32.value 0x3F000000 = 1) ∧
    (FF.f32.value 0x40800000 = 4 ^ (1 : ℤ) ∧ FF.f32.value 0x3F000000 = 2 ^ (-1 : ℤ)) ∧
    (FF.f32.value 0x3F800000 = ((1 : ℤ) : ℝ) ∧ FF.f32.value 0x40000000 = 2 ^ (1 : ℤ)) ∧
    (FF.f32.value 0x40000000 ≠ 1 ∧ FF.f32.value 0x3F800000 = 1) ∧ FF.f32.largest < (2 : ℝ) ^ FF.f32.value 0x43000000 := by
  obtain ⟨a, b, c, d, e, f, g⟩ := value_f32
  refine ⟨by unfold FF.Finite; decide, ?_⟩
  rw [a, b, c, e, g]
  refine ⟨by norm_num, by norm_num, by norm_num, by norm_num, ?_⟩
  have : FF.f32.largest = (2 - 2 ^ (-(23 : ℤ))) * 2 ^ 127 := rfl
  rw [this, show ((128 : ℝ)) = ((128 : ℕ) : ℝ) by norm_num, Real.rpow_natCast]
  norm_num

/-- 3 is no power of two. -/
theorem three_not_pow (k : ℤ) : (3 : ℝ) ≠ 2 ^ k := by
  intro h
  obtain hk | hk := le_or_gt k 1
  · have := zpow_le_zpow_right₀ (show (1 : ℝ) ≤ 2 by norm_num) hk
    norm_num [← h] at this
  · have := zpow_le_zpow_right₀ (show (1 : ℝ) ≤ 2 by norm_num) (show (2 : ℤ) ≤ k from hk)
    norm_num [← h] at this

/-- SpecialFunctionBounds: 3 and 1/2 are no exact cases of the functions, and their results lie within f32. -/
theorem witness_SpecialFunctionBounds :
    (FF.f32.Finite 0x40400000 ∧ isZeroEnc .f32 0x40400000 = false ∧ 0 < FF.f32.value 0x40400000) ∧
    (∀ k : ℤ, |FF.f32.value 0x40400000| ≠ 2 ^ k ∧ FF.f32.value 0x40400000 ≠ 4 ^ k ∧ FF.f32.value 0x40400000 ≠ 2 ^ k) ∧
    |1 / FF.f32.value 0x40400000| ≤ FF.f32.largest ∧ |FF.f32.value 0x40400000| ≤ 2 ^ 16 ∧
    (∀ k : ℤ, FF.f32.value 0x3F000000 ≠ (k : ℝ)) ∧ (2 : ℝ) ^ FF.f32.value 0x3F000000 ≤ FF.f32.largest := by
  obtain ⟨a, b, c, d, e, f, g⟩ := value_f32
  have l : FF.f32.largest = (2 - 2 ^ (-(23 : ℤ))) * 2 ^ 127 := rfl
  rw [c, d, l]
  refine ⟨⟨⟨by decide, by decide, by decide⟩, by decide, by norm_num⟩, fun k => ⟨?_, ?_, three_not_pow k⟩, by norm_num, by norm_num,
    fun k h => ?_, ?_⟩
  · rw [abs_of_pos (by norm_num)]; exact three_not_pow k
  · rw [show (4 : ℝ) ^ k = 2 ^ (2 * k) by rw [zpow_mul]; norm_num]; exact three_not_pow _
  · have : (1 : ℝ) = ((2 * k : ℤ) : ℝ) := by push_cast; linarith
    have := Int.cast_injective (α := ℝ) (show ((1 : ℤ) : ℝ) = ((2 * k : ℤ) : ℝ) by push_cast at this ⊢; linarith)
    omega
  · calc (2 : ℝ) ^ (1 / 2 : ℝ) ≤ 2 ^ (1 : ℝ) := Real.rpow_le_rpow_of_exponent_le (by norm_num) (by norm_num)
      _ ≤ _ := by norm_num

/-- FloatConversions: the integer that a value rounds to. -/
theorem witness_FloatConversions : ((2 : ℤ) : ℝ) = RMode.rtz.round 1 (FF.f32.value 0x40000000) := by
  rw [value_f32.2.1]
  have : ⌊(2 : ℝ)⌋ = 2 := by norm_num
  norm_num [RMode.round, RMode.Away, this]

/-! ## Witnesses for single clauses -/

/-- PrivilegeAndNregRefused: the whole set is at a cross-lane instruction that names a register above NREG. -/
theorem witness_SetAboveNreg : participants (wState { wG with nreg := 31 }) { wG with nreg := 31 } ≠ none ∧
    ({ wG with nreg := 31 } : Group).nregOk [(31, 1), (0, 1), (1, 1)] = false := by decide +kernel

/-- CallsBreaksAndTraps: the cohort that a breakpoint parks, and threads of which the rest of their set is elsewhere at a cross-lane
instruction. -/
theorem witness_BreakpointCohort :
    (wU wRegs).matchedWith wG (wThread 0x1000 wRegs 0) = wG.threads ∧ wG.threads ≠ [] ∧
      (wU wRegs).convergingAt wG (wThread 0x1000 wRegs 0) [0x010C1800] = false ∧
    (let g := { wG with threads := [wThread 0x1000 [] 0, wThread 0x2000 [] 1] }
     (wState g).convergingAt g (wThread 0x1000 [] 0) [0x0808101A] = true) := by decide +kernel

/-- BarrierTimeouts: a waiting thread that holds a record of its side log. -/
theorem witness_BarrierTimeouts_logged :
    let t := { wThread 0x1000 [] 5 with st := .atBar .team 0, logRec := some 7 }
    t.st = .atBar .team 0 ∧ t.logRec = some 7 ∧ t.lane < 64 := by decide

/-- A vault's entry with its word at segment 0 of site 0, in a device with nothing else. -/
def wVat (e : Nat) : State := wDev (wU []) [(vatOff 0 0, BitVec.ofNat 64 e)]

/-- Windows, vaults: bytes that are no segment's; a segment that is shadow, another world's, S's alone, being zeroed, of class P and of
class N. -/
theorem witness_Windows_vault :
    (2 ^ 33 ≤ 2 ^ 33 ∧ 144 ≤ (144 * 2 ^ 24) / 2 ^ 24 % 256 ∧ 2 ^ 23 / 2 ^ 23 % 2 = 1) ∧
    (¬(2 ^ 33 ≤ (0 + 15) ∨ 144 ≤ (0 + 15) / 2 ^ 24 % 256 ∨ (0 + 15) / 2 ^ 23 % 2 = 1)) ∧
    ((wVat 0xA0000801).vat 0 0).getLsbD 29 = true ∧
    ((wVat 0x80000802).vat 0 0).setWidth 6 ≠ (wG.poster 0).world ∧ (((wVat 0x80000001).vat 0 0).getLsbD 11 = false) ∧
    (((wVat 0xC0000801).vat 0 0).getLsbD 30 = true) ∧ ((wVat 0x80000801).vat 0 0).getLsbD 30 = false ∧
    (wVat 0x80000801).clsOf (vaultKey 0) = .p ∧ (wVat 0x80000A01).clsOf (vaultKey 0) = .n := by decide +kernel

/-- Windows, translated: a page that every access may use, one that may only be read, one owned for reading alone; a stack whose part
for lane 3 lies there, and its last byte and the next. -/
theorem witness_Windows_translated :
    ((wMapped wG).tlbFor (wG.poster 0) false 2).isSome = true ∧ (wMapped wG).trainedPage 7 = true ∧ (wU []).trainedPage 7 = false ∧
    (let s := { wMapped wG with tlbs := (wMapped wG).tlbs.map fun (t : Tlb) => { t with w := false, ro := true } }
     (s.tlbFor (wG.poster 0) false 2).map (fun t : Tlb => (t.r, t.w, t.u, t.ro)) = some (true, false, true, true)) ∧
    (let g := { wG with stkBase := 2 }
     ((wMapped g).group? 3 5 = some g ∧ ((wMapped g).tlbFor (g.poster 3) false ((2 * 4096 + 3 * 1024) / 4096)).isSome = true ∧
      ¬(1024 < 1023 + 1) ∧ 1024 < 1024 + 1)) := by decide +kernel

/-- Windows, 0xFE: the last page of a frame of class P and the first slot that is none; the flash, busy and not; a register, and none. -/
theorem witness_Windows_firmware : let s := { wState (wGroup .f []) with busy := [(65536, 4)] }
    ((wGroup .f []).poster 0).priv = .f ∧ s.slotExists 511 = true ∧ s.slotExists 512 = false ∧
    (s.busy.any fun b => b.1 / 65536 == (65532 + 7) / 65536) = true ∧ (s.busy.any fun b => b.1 / 65536 == 0) = false ∧
    devMapped dev3 = true ∧ devMapped (dev3 + 7) = true ∧ devMapped (2 ^ 40 + 2 ^ 29) = false := by decide +kernel

/-- A group whose threads name the last bytes of page 2, which is mapped and which L1 serves. -/
def wPg : Group := wAddr [0, 1, 2, 3] 0
def wPgG : Group := { wPg with threads := wPg.threads.map fun t => { t with v := t.v.set 0 { val := 0x2FF0, taint := false, poison := false, wait := [] } } }

/-- A line of L1 with the bytes of page 7's end. -/
def wLine : L1Line := { core := 3, world := 1, line := mainKey 0x7FFF / 128, bad := [], bytes := List.replicate 128 9 }

/-- Loads: a load that L1 serves, whose every byte a line holds; lines of another core; a load at a wide scope, which L1 does not serve. -/
theorem witness_LoadHits :
    let s := { wMapped wPgG with l1 := [wLine] }
    (∀ t ∈ wPgG.threads, s.resolve (wPgG.poster t.lane) 0x2FF0 4 .load =
        .keys ((List.range 4).map fun i => mainKey (0x7FF0 + i)) .p true none ∧ (vsource 0 wPgG t true 0).taint = false) ∧
    (∀ k ∈ (List.range 4).map fun i => mainKey (0x7FF0 + i), ∃ l ∈ s.l1, l.core = wPgG.core ∧ l.world = wPgG.world ∧ l.line = k / 128 ∧ l.bad = []) ∧
    (∀ l ∈ [{ wLine with core := 4 }], l.core ≠ wPgG.core) ∧ ¬((4 : Scope).toNat < 4) ∧ MemOrd.acq ≠ .plain ∧
    (∀ k ∈ (List.range 4).map fun i => mainKey (0x7FF0 + i), isFlash k = false ∧ s.unsettled (pageOf k) = true ∧
      s.potPage (pageOf k) = false ∧ potState (s.potGet (pageOf k)) ≠ 3) := by decide +kernel

/-- Stores to the side log: a thread that holds a record of an entry to the page it names, and of one to another. -/
theorem witness_SideLog :
    let e (addr : DWord) : LogEnt :=
      { stk := false, core := 3, slot := 5, lane := 3, addr := addr, seq := 0, typ := 0, aop := 0, wd := false, bytes := [1, 2, 3, 4], ord := 0, scp := 0, kcls := .p }
    (∀ x ∈ [(0x2FFF : DWord).toNat / 4096], x ∈ [(0x2000 : DWord).toNat / 4096, ((0x2000 : DWord).toNat + 8 - 1) / 4096]) ∧
    ((0x3FFC : DWord).toNat / 4096 ∉ [(0x2000 : DWord).toNat / 4096, ((0x2000 : DWord).toNat + 8 - 1) / 4096]) ∧
    (let t := { wThread 0x1000 [0x2000, 0, 7, 9] 3 with logRec := some 4 }
     let g := { wG with threads := [t] }
     let s := { wMapped g with slog := [e 0x2FFC], cur := { core := 3, slot := 5, lanes := 8, words := [0] } }
     Issuer s g ∧ g.inMask s.cur.lanes = [t] ∧ t.logRec.isSome = true ∧ (s.slog.filter fun e => e.core == 3).length < 256 ∧
      (vsource 0 g t true 0).val.setWidth 64 = (0x2000 : DWord) ∧
      s.resolve (g.poster 3) 0x2000 8 .store = .keys ((List.range 8).map fun i => mainKey (0x7000 + i)) .p true none ∧
      s.resolve (g.poster 3) 0x2000 4 .reduction = .keys ((List.range 4).map fun i => mainKey (0x7000 + i)) .p true none) := by
  exact ⟨by decide +kernel, by decide +kernel, rfl, by decide +kernel⟩

/-- FencesPrefetchesAndLines: threads that name one line, which L1 has and has not; sixteen prefetches that are outstanding, and a line on
its way to the instruction cache; F with the flash busy. -/
theorem witness_Prefetches :
    (∀ t ∈ wPgG.threads, ((vsource 0 wPgG t true 0).val.setWidth 64 : DWord).toNat / 128 = (0x2FF0 : DWord).toNat / 128) ∧
    isMain (mainKey 0x7FF0) = true ∧ (∀ x ∈ ([] : List L1Line), ¬(x.core = 3 ∧ x.world = 1 ∧ x.line = mainKey 0x7FF0 / 128)) ∧
    (wLine.core = 3 ∧ wLine.world = 1 ∧ wLine.line = mainKey 0x7FF0 / 128) ∧
    (let q : Pref := { by_ := wPgG.poster 0, line := mainKey (204800 * 4096) / 128, l2 := true }
     let s := { wRing 0 0 with prefs := List.replicate 16 q }
     ¬((s.prefs.filter fun x => x.by_.core == 3).length + (s.icache.filter fun x => x.core == 3 && x.pf && !x.full).length < 16) ∧
      q ∈ s.prefs ∧ q.l2 = true ∧ ∀ i ∈ List.range 128, s.openKey (q.line * 128 + i) = false) ∧
    (wGroup .f []).priv = .f ∧ ({ wState (wGroup .f []) with busy := [(0, 1)] } : State).busy ≠ [] := by decide +kernel

/-- Four groups of a joint command, quarter `q` in slot `5 + q`, with B in `v20` on and C in `v28` on. -/
def wQuarters : List Group := (List.range 4).map fun q => { wMat with slot := 5 + q, quarter := q, armed := false }
def wJointCmd (cmd : BitVec 96) : MCmd :=
  { wCmd 7 true true with cmd := cmd, parts := (List.range 4).map fun q => (q, 5 + q, 20, 28) }

/-- MatrixCommands, the elements: the parts of a solo command and of a joint one are clean, in every format; a masked element and one that is not. -/
theorem witness_MatrixElements : let s := { wState wMat with groups := wQuarters, mcmds := [wJointCmd wJoint] }
    (∀ p ∈ (wJointCmd wJoint).parts, p.1 < 4 ∧ (s.group? 3 p.2.1).any (fun h => (h.threads.map (·.lane)).Nodup ∧ h.owned = [] ∧
      (h.threads.all fun x => x.v.all (fun r => !r.poison) && decide (p.2.2.2 + 4 ≤ x.v.length))) = true ∧ p.2.2.1 + 4 ≤ p.2.2.2) ∧
    (wJointCmd wJoint).parts.length = 4 ∧ ((wJointCmd wJoint).parts.map (·.1)).Nodup ∧ ((wJointCmd wJoint).parts.map (·.2.1)).Nodup ∧
    (3, 8, 20, 28) ∈ (wJointCmd wJoint).parts ∧ (∀ fmt < 15, (BitVec.ofNat 4 fmt).toNat < 15) ∧
    (s.mcmds.find? fun x => x.id == 7) = some (wJointCmd wJoint) ∧ s.errs = [] ∧ s.poisoned = [] ∧
    (let c : BitVec 96 := 1#32 ++ 0#32 ++ 0xB000A11C#32
     c.getLsbD 8 = true ∧ (c.extractLsb' 64 8).toInt < 16 * (bits c 83 72 : Int) + 15 - (16 * (bits c 95 84 : Int) + 0) ∧
      ¬((c.extractLsb' 64 8).toInt < 16 * (bits c 83 72 : Int) + 0 - (16 * (bits c 95 84 : Int) + 15))) := by decide +kernel

/-- CommandPosts, the checks of addresses: a base in the queue window; a copy that reaches the queues; rows beyond the scratchpad; a
destination of class P by a poster of class N; a follow-on that is sound, one whose format is none, and one beyond the scratchpad. -/
def wCheck (kcls : Cls) (hdr : BitVec 96) (d : Nat) : Option FaultInfo :=
  let g := { wMat with kcls := kcls, gw := 64, spadsz := 4096 }
  (wState g).cpCheck g (g.poster 0) hdr (BitVec.ofNat 512 d)
def wMx : BitVec 96 := 0xF000000000000000#64 ++ 0xB17E0000#32
theorem witness_CopyChecks :
    (wCheck .p wCopyHdr (wCopyDesc + (0xFF00000000000000 - 0xF000000000000000))).map (fun i => (i.code, i.addr)) = some (.aperture, 0xFF00000000000000) ∧
    (wCheck .p wCopyHdr (2 ^ 56 + wCopyDesc - 0xF000000000000000)).map (fun i => i.code) = some .aperture ∧
    (wCheck .p wCopyHdr (wCopyDesc + 256 * 2 ^ 64)).map (fun i => (i.code, i.addr)) = some (.aperture, 0xF000000000001000) ∧
    (wCheck .n wCopyHdr wCopyDesc).map (fun i => i.code) = some .xclass ∧ wCheck .p wCopyHdr wCopyDesc = none ∧
    (wCheck .p wMx wCopyDesc).map (fun i => i.code) = some .mxeFmt ∧
    (wCheck .p wMx (wCopyDesc + (0xB000A01C + 2 ^ 51) * 2 ^ 384)).map (fun i => i.code) = some .aperture ∧
    (let g := { wMat with gw := 64 }
     (wState g).cpCheck g (g.poster 0) wMx (BitVec.ofNat 512 (wCopyDesc + (0xB000A01C + 2 ^ 51) * 2 ^ 384))) = none := by decide +kernel

/-- NetworkEngine: a domain that is draining; an ROD write behind an ROD read to the same peer that is not acknowledged, and one with none
before it. -/
theorem witness_NetworkHolds :
    2 ≤ (wNet 2).domState 1 ∧ netMode (wN 0x10000 0 0 false none).desc = 1 ∧ netOp (wN 0x10000 0 0 false none).desc = 0 ∧
    ((wN 0x10001 0 0 true none).peer = (wN 0x10000 0 0 false none).peer ∧ netMode (wN 0x10001 0 0 true none).desc = 1 ∧
      netOp (wN 0x10001 0 0 true none).desc = 1 ∧ (wN 0x10001 0 0 true none).acked = none) ∧
    (∀ x ∈ ({ wNet 1 with ncmds := [wN 0x10000 0 0 false none] } : State).ncmds.takeWhile (·.id != 7), x.acked ≠ none) := by decide +kernel

/-- LaunchInstructions, the checks of records: each can pass and fail. -/
theorem witness_LaunchChecks : let s := wRecords 1
    let r := BitVec.ofNat 1024 (wRecord 256)
    s.recordStatus wSup r 63 false false = none ∧ s.recordStatus wSup 0 63 false false = some 1 ∧ s.recordStatus wSup r 62 false false = some 2 ∧
    ({ s with tokens := [(1, bits r 303 288)] } : State).recordStatus wSup r 63 false false = some 3 ∧
    kdOk r (BitVec.ofNat 512 wKd) = true ∧ kdOk r 0 = false ∧ everFits r (BitVec.ofNat 512 wKd) = true ∧
    gangOk [r, r] = true ∧ gangOk [r, r + 2 ^ 289] = false := by decide +kernel

/-- Pipes: an element whose bytes in the ring are poisoned, and whose number in the ring has gone around. -/
theorem witness_Pipes_poison : let p := { wPipe [wElem 7] false false with popped := 11 }
    let s := { wPiped [wElem 7] false false with pipes := [p] }
    let lo := vaultKey (vaultOff p.site (p.seg * 65536))
    s.errs = [] ∧ s.pipeFor (wScalar wG [(1, 7)]) 7 true = some p ∧ 11 % p.cap = 5 ∧
    ({ s with poisoned := [(lo + 64 + 4 * 5) / 64] } : State).isPoisoned (lo + (64 + 4 * (11 % p.cap))) = true := by decide +kernel

/-- RecordsAreAnswered, timers: no timer's record waits; one that waits, while the compare value that it was posted for stands. -/
theorem witness_Timers :
    let s := { wU [] with cores := [{ CoreRec.reset 3 with tcmp := [(63, 5)] }], time := 9, pending := [(3, deviceRec 5 0 63 false [6, 5])] }
    (∀ p ∈ (wU []).pending, p.1 = 3 → p.2.kind ≠ 0x05) ∧ (deviceRec 5 0 63 false [6, 5]).kind = 0x05 ∧
    ((s.core 3).tcmp.map (·.1)).Pairwise (· < ·) ∧ s.tcmp 3 63 = (deviceRec 5 0 63 false [6, 5]).a.getD 1 0 := by decide +kernel

/-- TableInstructions: the flash is quiet and a page's stack is trained or not; a plan that its own cohort takes up. -/
theorem witness_TableWaits : (wTab .f 0 0 0).busy = [] ∧ (wTab .f 0 0 0).isHalted 3 = false ∧
    (({ wTab .f 0 0 0 with trained := [0] } : State).trainedPage 1534 = true ∧ (wTab .f 0 0 0).trainedPage 1534 = false) ∧
    (let q : ClkPlan := { core := 3, slot := 5, lanes := 0xF, st := 8, m := 2, used := true, done := true }
     q.lanes = (wTab .f 0 0 0).cur.lanes) := by decide +kernel

/-- ErrorsAndIntervals: masks but `m0`; a line of the cache layer in a P frame, poisoned already and not; a patrolled line with an error in a
granule that is poisoned already and in one that is not. -/
theorem witness_SoftErrors : let k := mainKey (204800 * 4096)
    let s := { wRing 0 0 with errs := [{ place := .byte (k + 127), grade := .detected }] }
    let v := { s with poisoned := [k / 64, k / 64 + 1] }
    (0 < 1 ∧ 7 < 8) ∧ s.clsOf k = .p ∧ s.isPoisoned k = false ∧ v.isPoisoned k = true ∧ v.isPoisoned (k + 127) = true ∧
    s.sealedPage (pageOf k) = false ∧ s.ucnt = [] ∧ s.snaps = [] ∧ k = 128 * (k / 128) := by decide +kernel

/-- DeviceRegistersAndFills: the stacks of the table's frames trained; a busy sector; walks whose table is in a stack that is trained and
in one that is not. -/
theorem witness_Training :
    (∀ i ∈ List.range 144, ({ wU [] with trained := List.range 8 } : State).trainedPage (1024 * (300 + i)) = true) ∧
    (∃ b ∈ ({ wU [] with busy := [(65540, 4)] } : State).busy, b.1 / 65536 = 131071 / 65536) ∧
    (wWalked.walks.map fun w => wWalked.walkWaits w) = [false, false] ∧
    (wWalked.walks.map fun w => ({ wWalked with trained := [] } : State).walkWaits w) = [true, true] := by decide +kernel

/-- StepRunsTheDecodedInstruction: the only move is the one that is made. -/
theorem witness_Chosen : ∀ w ∈ [0x010C1800, 0], (wRun w).chosen (wRun w).moves = some (.issue wCohort) := by
  intro w hw
  have h : ∀ w ∈ [0x010C1800, 0], (wRun w).moves = [.issue wCohort] := by decide +kernel
  rw [h w hw]
  rfl

end

end Sys2Proof.Machine
end

/-! PROOFS. The integer classes: the model's exact arithmetic on numbers is that of `BitVec` at the instruction's width, a ready
instruction answers `intDone`, and a scalar one `scalarTo`. -/

namespace Sys2Proof.Machine

/-! ## Exact integers and how they fit (R29 to R31) -/

theorem wid_pos (w : Bool) : 0 < wid w := by cases w <;> decide

theorem wid_le (w : Bool) : wid w ≤ 64 := by cases w <;> decide

theorem wrap_eq_ofInt (n : Nat) (x : Int) : wrap n x = (BitVec.ofInt n x).toNat := by
  simp [wrap, BitVec.toNat_ofInt]

theorem wrap_toInt {n : Nat} (x : BitVec n) : wrap n x.toInt = x.toNat := by
  rw [wrap_eq_ofInt, BitVec.ofInt_toInt]

theorem wrap_toNat {n : Nat} (x : BitVec n) : wrap n x.toNat = x.toNat := by
  rw [wrap_eq_ofInt, BitVec.ofInt_natCast, BitVec.ofNat_toNat, BitVec.setWidth_eq]

theorem signedOf_toNat {n : Nat} (hn : 0 < n) (x : BitVec n) : signedOf n x.toNat = x.toInt := by
  obtain ⟨m, rfl⟩ := Nat.exists_eq_add_of_lt hn
  have h2 : 2 ^ (0 + m + 1) = 2 * 2 ^ m := by rw [Nat.zero_add, Nat.pow_succ, Nat.mul_comm]
  have hm : 0 + m + 1 - 1 = m := by omega
  rw [signedOf, BitVec.toInt_eq_toNat_cond, h2, hm]
  by_cases hx : x.toNat < 2 ^ m
  · rw [if_pos hx, if_pos (by omega)]
  · rw [if_neg hx, if_neg (by omega), ← h2]
    norm_cast

theorem clampTo_eq_max_min {lo hi : Int} (h : lo ≤ hi) (x : Int) : clampTo lo hi x = max lo (min hi x) := by
  unfold clampTo
  split
  · omega
  · split <;> omega

theorem fitSat_eq_satFit (p : Option Pfx) (n : Nat) (x : Int) : fitSat p n x = (satFit p n x).toNat := by
  have hhalf : (0 : Int) < 2 ^ (n - 1) := by positivity
  have hfull : (0 : Int) < 2 ^ n := by positivity
  simp only [fitSat, satFit, wrap_eq_ofInt]
  generalize satOf p = m
  match m with
  | 0#2 => rfl
  | 1#2 => exact congrArg (fun y => (BitVec.ofInt n y).toNat) (clampTo_eq_max_min (by omega) x)
  | 2#2 => exact congrArg (fun y => (BitVec.ofInt n y).toNat) (clampTo_eq_max_min (by omega) x)
  | 3#2 => rfl

theorem quotI_toInt {n : Nat} (x y : BitVec n) :
    quotI x.toInt y.toInt = if y = 0 then -1 else x.toInt.tdiv y.toInt := by
  have hy : y.toInt = 0 ↔ y = 0 := by rw [← BitVec.toInt_inj]; simp
  simp only [quotI, beq_iff_eq, hy]

theorem quotN_toNat {n : Nat} (x y : BitVec n) :
    quotN n x.toNat y.toNat = if y = 0 then 2 ^ n - 1 else ((x.toNat / y.toNat : Nat) : Int) := by
  have hy : (y.toNat : Int) = 0 ↔ y = 0 := by rw [Int.natCast_eq_zero, ← BitVec.toNat_inj]; simp
  simp only [quotN, beq_iff_eq, hy, Int.ofNat_tdiv]

theorem remI_eq_tmod (a b : Int) : remI a b = a.tmod b := by
  unfold remI
  split
  next h => rw [eq_of_beq h, Int.tmod_zero]
  next => rfl

theorem wrap_remI_toInt {n : Nat} (x y : BitVec n) : wrap n (remI x.toInt y.toInt) = (x.srem y).toNat := by
  rw [remI_eq_tmod, ← BitVec.toInt_srem, wrap_toInt]

theorem wrap_remI_toNat {n : Nat} (x y : BitVec n) : wrap n (remI x.toNat y.toNat) = (x % y).toNat := by
  rw [remI_eq_tmod, ← Int.ofNat_tmod, ← BitVec.toNat_umod, wrap_toNat]

theorem wrap_mulHigh_toInt {n : Nat} (x y : BitVec n) :
    wrap n ((x.toInt * y.toInt).shiftRight n) = (BitVec.ofInt n (x.toInt * y.toInt / 2 ^ n)).toNat := by
  rw [wrap_eq_ofInt, ← Int.shiftRight_eq, Int.shiftRight_eq_div_pow]
  norm_cast

theorem wrap_mulHigh_toNat {n : Nat} (x y : BitVec n) :
    wrap n (((x.toNat : Int) * y.toNat).shiftRight n) = (BitVec.ofNat n (x.toNat * y.toNat / 2 ^ n)).toNat := by
  rw [wrap_eq_ofInt, ← Int.shiftRight_eq, Int.shiftRight_eq_div_pow, ← BitVec.ofInt_natCast]
  norm_cast

theorem wrap_min_toInt {n : Nat} (x y : BitVec n) :
    wrap n (min x.toInt y.toInt) = (if x.slt y then x else y).toNat := by
  simp only [BitVec.slt_iff_toInt_lt]
  split
  next h => rw [min_eq_left h.le, wrap_toInt]
  next h => rw [min_eq_right (not_lt.mp h), wrap_toInt]

theorem wrap_max_toInt {n : Nat} (x y : BitVec n) :
    wrap n (max x.toInt y.toInt) = (if x.slt y then y else x).toNat := by
  simp only [BitVec.slt_iff_toInt_lt]
  split
  next h => rw [max_eq_right h.le, wrap_toInt]
  next h => rw [max_eq_left (not_lt.mp h), wrap_toInt]

theorem wrap_min_toNat {n : Nat} (x y : BitVec n) :
    wrap n (min (x.toNat : Int) y.toNat) = (if x.ult y then x else y).toNat := by
  simp only [BitVec.ult_iff_lt, BitVec.lt_def]
  split
  next h => rw [min_eq_left (by omega), wrap_toNat]
  next h => rw [min_eq_right (by omega), wrap_toNat]

theorem wrap_max_toNat {n : Nat} (x y : BitVec n) :
    wrap n (max (x.toNat : Int) y.toNat) = (if x.ult y then y else x).toNat := by
  simp only [BitVec.ult_iff_lt, BitVec.lt_def]
  split
  next h => rw [max_eq_right (by omega), wrap_toNat]
  next h => rw [max_eq_left (by omega), wrap_toNat]

/-! ## Shifts and rotation (R123) -/

theorem shl_toNat {n : Nat} (x : BitVec n) (k : Nat) : shl n x.toNat k = (x <<< k).toNat := by
  rw [shl, BitVec.toNat_shiftLeft, Nat.shiftLeft_eq]
  split
  next h => rw [Nat.mod_eq_zero_of_dvd (Dvd.dvd.mul_left (Nat.pow_dvd_pow 2 h) _)]
  next => rfl

theorem shr_toNat {n : Nat} (x : BitVec n) (k : Nat) : shr n x.toNat k = (x >>> k).toNat := by
  rw [shr, BitVec.toNat_ushiftRight, Nat.shiftRight_eq_div_pow]
  split
  next h => rw [Nat.div_eq_of_lt (x.isLt.trans_le (Nat.pow_le_pow_right (by decide) h))]
  next => rfl

theorem sra_toNat {n : Nat} (hn : 0 < n) (x : BitVec n) (k : Nat) : sra n x.toNat k = (x.sshiftRight k).toNat := by
  rw [sra, signedOf_toNat hn, ← Int.shiftRight_eq, ← BitVec.toInt_sshiftRight, wrap_toInt]

/-- The two parts that a rotation joins share no bit, so that their sum is their OR. -/
theorem rol_toNat {n : Nat} (hn : 0 < n) (x : BitVec n) (k : Nat) : rol n x.toNat k = (x.rotateLeft (k % n)).toNat := by
  have hk : k % n < n := Nat.mod_lt k hn
  rw [rol, BitVec.toNat_rotateLeft, Nat.mod_mod, Nat.shiftLeft_eq, Nat.shiftRight_eq_div_pow]
  generalize k % n = j at hk
  have hsplit : 2 ^ n = 2 ^ (n - j) * 2 ^ j := by rw [← Nat.pow_add]; congr 1; omega
  have hlow : x.toNat / 2 ^ (n - j) < 2 ^ j := Nat.div_lt_of_lt_mul (hsplit ▸ x.isLt)
  simp only [hsplit, Nat.mul_mod_mul_right]
  rw [Nat.mul_comm _ (2 ^ j), Nat.two_pow_add_eq_or_of_lt hlow]

theorem kshift_eq_immShift (i : Imm8) (lit : Option Imm) : kshift i lit = immShift i lit := by
  cases lit <;> rfl

/-! ## Operands as bit vectors of their width -/

/-- Operand `i` is the number that `x` holds. -/
def IsArg {n : Nat} (v : List DWord) (i : Nat) (x : BitVec n) : Prop := (arg v i).toNat = x.toNat

/-- Operand values as the selectors of `x` give them: an operand that is no pair has 32 bits. -/
def FitsReads (x : VInst) (v : List DWord) : Prop :=
  ∀ (i : Nat) (sel : Sel) (w : Bool), x.reads[i]? = some (sel, w) → (arg v i).toNat < 2 ^ wid w

theorem values_fitsReads (x : VInst) (tick : Nat) (g : Group) (t : Thread) :
    FitsReads x ((x.values tick g t).map fun v => v.val.setWidth 64) := by
  intro i sel w h
  have e : arg ((x.values tick g t).map fun v => v.val.setWidth 64) i = (vsource tick g t w sel).val.setWidth 64 := by
    simp [arg, VInst.values, h]
  rw [e]
  cases w with
  | false => exact vsource_narrow tick g t sel
  | true => exact BitVec.isLt _

section
variable {v : List DWord} {i : Nat} {w : Bool} {x : BitVec (wid w)}

theorem IsArg.of_lt (h : (arg v i).toNat < 2 ^ wid w) : IsArg v i ((arg v i).setWidth (wid w)) := by
  rw [IsArg, BitVec.toNat_setWidth, Nat.mod_eq_of_lt h]

theorem IsArg.un_eq (h : IsArg v i x) : un w v i = x.toNat := congrArg Nat.cast h

theorem IsArg.sg_eq (h : IsArg v i x) : sg w v i = x.toInt := by
  rw [sg, h, signedOf_toNat (wid_pos w)]

theorem IsArg.rd_eq (h : IsArg v i x) (p : Option Pfx) : rd p w v i = satNum p x := by
  simp only [rd, satNum, beq_iff_eq, h.un_eq, h.sg_eq]

theorem IsArg.arg_eq (h : IsArg v i x) : arg v i = x.setWidth 64 := by
  rw [← BitVec.ofNat_toNat, ← h, BitVec.ofNat_toNat, BitVec.setWidth_eq]

end

/-- Bits 7..0 of an operand are those of its low word. -/
theorem shiftAmt_arg (v : List DWord) (i : Nat) : shiftAmt (arg v i) = (opnd32 v i).toNat % 256 := by
  rw [shiftAmt, opnd32, BitVec.toNat_setWidth, Nat.mod_mod_of_dvd _ (by decide)]
  rfl

theorem bin2_eq (w : Bool) (f : (n : Nat) → BitVec n → BitVec n → BitVec n) (v : List DWord) :
    bin2 w f v = (f (wid w) ((arg v 0).setWidth (wid w)) ((arg v 1).setWidth (wid w))).setWidth 128 := by
  cases w with
  | false => rfl
  | true => simp [bin2, opnd64, wid, arg]

theorem shift2_eq (w : Bool) (f : (n : Nat) → BitVec n → Nat → BitVec n) (v : List DWord) :
    shift2 w f v = (f (wid w) ((arg v 0).setWidth (wid w)) (shiftAmt (arg v 1))).setWidth 128 := by
  rw [shiftAmt_arg]
  cases w with
  | false => rfl
  | true => simp [shift2, opnd64, wid, arg]

/-! ## What a ready integer instruction answers -/

/-- A ready vector integer instruction completes with any function that agrees with its own on operands of their widths. -/
theorem intIssue_ready {s : State} {g : Group} {p : Option Pfx} {d : Sel} {wd : Bool} {srcs : List (Sel × Bool)}
    {four : Option Bool} {f : List DWord → Nat} {r : List DWord → BitVec 128} (h : VReady s g (vin p d (DW.of wd) srcs four))
    (hf : ∀ v, FitsReads (vin p d (DW.of wd) srcs four) v → BitVec.ofNat 128 (f v) = r v) :
    intIssue s p d wd srcs four f = intDone s g (vin p d (DW.of wd) srcs four) r := by
  refine (vectorIssue_ready h _).trans (congrArg Host.Outcome.next (vecNext_congr fun t => ?_))
  rw [hf _ (values_fitsReads _ _ _ _)]

section
variable {s : State} {g : Group} {p : Option Pfx} {d a b : Sel} {w : Bool} {f : List DWord → Nat}

theorem intIssue_bin2 {r : (n : Nat) → BitVec n → BitVec n → BitVec n}
    (h : VReady s g (vin p d (DW.of w) [(a, w), (b, w)] none))
    (hf : ∀ (v : List DWord) (x y : BitVec (wid w)), IsArg v 0 x → IsArg v 1 y → f v = (r (wid w) x y).toNat) :
    intIssue s p d w [(a, w), (b, w)] none f = intDone s g (vin p d (DW.of w) [(a, w), (b, w)] none) (bin2 w r) :=
  intIssue_ready h fun v hv => by
    rw [hf v _ _ (.of_lt (hv 0 a w rfl)) (.of_lt (hv 1 b w rfl)), bin2_eq, BitVec.ofNat_toNat]

theorem intIssue_shift2 {r : (n : Nat) → BitVec n → Nat → BitVec n}
    (h : VReady s g (vin p d (DW.of w) [(a, w), (b, false)] none))
    (hf : ∀ (v : List DWord) (x : BitVec (wid w)), IsArg v 0 x → f v = (r (wid w) x (shiftAmt (arg v 1))).toNat) :
    intIssue s p d w [(a, w), (b, false)] none f = intDone s g (vin p d (DW.of w) [(a, w), (b, false)] none) (shift2 w r) :=
  intIssue_ready h fun v hv => by
    rw [hf v _ (.of_lt (hv 0 a w rfl)), shift2_eq, BitVec.ofNat_toNat]

theorem intIssue_word {r : BitVec 32 → BitVec 32} (h : VReady s g (vin p d .w32 [(a, false)] none))
    (hf : ∀ (v : List DWord) (x : BitVec 32), IsArg v 0 x → f v = (r x).toNat) :
    intIssue s p d false [(a, false)] none f =
      intDone s g (vin p d .w32 [(a, false)] none) (fun v => (r (opnd32 v 0)).setWidth 128) :=
  intIssue_ready (wd := false) h fun v hv => by
    rw [hf v (opnd32 v 0) (IsArg.of_lt (w := false) (hv 0 a false rfl)), BitVec.ofNat_toNat]

end

section
variable {s : State} {g : Group} (h : Issuer s g)
include h

/-- A scalar instruction of two sources writes the number that its function gives. -/
theorem scalar2_issuer {f : Nat → Nat → Nat} {d a b : Sel} {r : DWord}
    (hr : f (ssource g a).val.toNat (ssource g b).val.toNat = r.toNat) :
    scalar2 s d a b f = scalarTo s g d r [ssource g a, ssource g b] := by
  simp only [scalar2, scalarIssue_ready h, hr, scalarVal, BitVec.ofNat_toNat, BitVec.setWidth_eq, scalarTo]

/-- A scalar instruction of one source writes the number that its function gives. -/
theorem scalar1_issuer {f : Nat → Nat} {d a : Sel} {r : DWord} (hr : f (ssource g a).val.toNat = r.toNat) :
    scalar1 s d a f = scalarTo s g d r [ssource g a] := by
  simp only [scalar1, scalarIssue_ready h, hr, scalarVal, BitVec.ofNat_toNat, BitVec.setWidth_eq, scalarTo]

end

/-! ## The two-source operations (R30, R31, R125) -/

/-- `orn` alone sets bits above a 32-bit operand, which the wrap removes. -/
theorem wrap_or_not {n : Nat} (hn : n ≤ 64) (x y : BitVec n) :
    wrap n (x.setWidth 64 ||| ~~~(y.setWidth 64)).toNat = (x ||| ~~~y).toNat := by
  rw [wrap_eq_ofInt, BitVec.ofInt_natCast, BitVec.ofNat_toNat]
  congr 1
  ext i hi
  simp [hi, show i < 64 by omega]

/-- A clear bit of the first operand hides the bits that the second's complement sets above the width. -/
theorem toNat_and_not {n : Nat} (hn : n ≤ 64) (x y : BitVec n) :
    (x.setWidth 64 &&& ~~~(y.setWidth 64)).toNat = (x &&& ~~~y).toNat := by
  rw [← BitVec.toNat_setWidth_of_le (b := x &&& ~~~y) hn]
  congr 1
  ext i hi
  by_cases h : i < n
  · simp [h]
  · simp [BitVec.getLsbD_of_ge x i (not_lt.mp h)]

section
variable {s : State} {g : Group} {d a b : Sel} {w : Bool} {p : Option Pfx}
  (h : VReady s g (vin p d (DW.of w) [(a, w), (b, w)] none))
include h

/-- The operations that compute an exact value and fit it as SAT directs. -/
theorem fittedOps_done :
    let done (f : (n : Nat) → BitVec n → BitVec n → BitVec n) : Out :=
      intDone s g (vin p d (DW.of w) [(a, w), (b, w)] none) (bin2 w f)
    execAdd d a b w p s = done (fun n x y => satFit p n (satNum p x + satNum p y)) ∧
    execSub d a b w p s = done (fun n x y => satFit p n (satNum p x - satNum p y)) ∧
    execMul d a b w p s = done (fun n x y => satFit p n (satNum p x * satNum p y)) ∧
    execDivI d a b w p s = done (fun n x y => satFit p n (if y = 0 then -1 else x.toInt.tdiv y.toInt)) ∧
    execDivN d a b w p s = done (fun n x y => satFit p n (if y = 0 then 2 ^ n - 1 else (x.toNat / y.toNat : Nat))) := by
  refine ⟨?add, ?sub, ?mul, ?divI, ?divN⟩
  case add => exact intIssue_bin2 h fun v x y hx hy => by rw [fitSat_eq_satFit, hx.rd_eq, hy.rd_eq]
  case sub => exact intIssue_bin2 h fun v x y hx hy => by rw [fitSat_eq_satFit, hx.rd_eq, hy.rd_eq]
  case mul => exact intIssue_bin2 h fun v x y hx hy => by rw [fitSat_eq_satFit, hx.rd_eq, hy.rd_eq]
  case divI => exact intIssue_bin2 h fun v x y hx hy => by rw [fitSat_eq_satFit, hx.sg_eq, hy.sg_eq, quotI_toInt]
  case divN => exact intIssue_bin2 h fun v x y hx hy => by rw [fitSat_eq_satFit, hx.un_eq, hy.un_eq, quotN_toNat]

/-- The high halves, the remainders and the orders: whatever SAT says. -/
theorem unfittedOps_done :
    let done (f : (n : Nat) → BitVec n → BitVec n → BitVec n) : Out :=
      intDone s g (vin p d (DW.of w) [(a, w), (b, w)] none) (bin2 w f)
    execMulhi d a b w p s = done (fun n x y => BitVec.ofInt n (x.toInt * y.toInt / 2 ^ n)) ∧
    execMulhn d a b w p s = done (fun n x y => BitVec.ofNat n (x.toNat * y.toNat / 2 ^ n)) ∧
    execRemI d a b w p s = done (fun _ x y => x.srem y) ∧
    execRemN d a b w p s = done (fun _ x y => x % y) ∧
    execMinI d a b w p s = done (fun _ x y => if x.slt y then x else y) ∧
    execMinN d a b w p s = done (fun _ x y => if x.ult y then x else y) ∧
    execMaxI d a b w p s = done (fun _ x y => if x.slt y then y else x) ∧
    execMaxN d a b w p s = done (fun _ x y => if x.ult y then y else x) := by
  refine ⟨?mulhi, ?mulhn, ?remI, ?remN, ?minI, ?minN, ?maxI, ?maxN⟩
  case mulhi => exact intIssue_bin2 h fun v x y hx hy => by rw [hx.sg_eq, hy.sg_eq, wrap_mulHigh_toInt]
  case mulhn => exact intIssue_bin2 h fun v x y hx hy => by rw [hx.un_eq, hy.un_eq, wrap_mulHigh_toNat]
  case remI => exact intIssue_bin2 h fun v x y hx hy => by rw [hx.sg_eq, hy.sg_eq, wrap_remI_toInt]
  case remN => exact intIssue_bin2 h fun v x y hx hy => by rw [hx.un_eq, hy.un_eq, wrap_remI_toNat]
  case minI => exact intIssue_bin2 h fun v x y hx hy => by rw [hx.sg_eq, hy.sg_eq, wrap_min_toInt]
  case minN => exact intIssue_bin2 h fun v x y hx hy => by rw [hx.un_eq, hy.un_eq, wrap_min_toNat]
  case maxI => exact intIssue_bin2 h fun v x y hx hy => by rw [hx.sg_eq, hy.sg_eq, wrap_max_toInt]
  case maxN => exact intIssue_bin2 h fun v x y hx hy => by rw [hx.un_eq, hy.un_eq, wrap_max_toNat]

/-- The bitwise operations. -/
theorem bitwiseOps_done :
    let done (f : (n : Nat) → BitVec n → BitVec n → BitVec n) : Out :=
      intDone s g (vin p d (DW.of w) [(a, w), (b, w)] none) (bin2 w f)
    execAnd d a b w p s = done (fun _ x y => x &&& y) ∧
    execOr d a b w p s = done (fun _ x y => x ||| y) ∧
    execXor d a b w p s = done (fun _ x y => x ^^^ y) ∧
    execAndn d a b w p s = done (fun _ x y => x &&& ~~~y) ∧
    execOrn d a b w p s = done (fun _ x y => x ||| ~~~y) := by
  refine ⟨?and, ?or, ?xor, ?andn, ?orn⟩
  case and => exact intIssue_bin2 h fun v x y hx hy => by rw [BitVec.toNat_and, hx, hy, BitVec.toNat_and]
  case or => exact intIssue_bin2 h fun v x y hx hy => by rw [BitVec.toNat_or, hx, hy, BitVec.toNat_or]
  case xor => exact intIssue_bin2 h fun v x y hx hy => by rw [BitVec.toNat_xor, hx, hy, BitVec.toNat_xor]
  case andn => exact intIssue_bin2 h fun v x y hx hy => by rw [hx.arg_eq, hy.arg_eq, toNat_and_not (wid_le w)]
  case orn => exact intIssue_bin2 h fun v x y hx hy => by rw [hx.arg_eq, hy.arg_eq, wrap_or_not (wid_le w)]

end

/-! ## The shifts (R123, R130, R133, R134) -/

/-- The vector shifts and the rotation, by a register. -/
theorem shifts_done {s : State} {g : Group} {d a b : Sel} {w : Bool} {p : Option Pfx}
    (h : VReady s g (vin p d (DW.of w) [(a, w), (b, false)] none)) :
    let done (f : (n : Nat) → BitVec n → Nat → BitVec n) : Out :=
      intDone s g (vin p d (DW.of w) [(a, w), (b, false)] none) (shift2 w f)
    execShl d a b w p s = done (fun _ x k => x <<< k) ∧
    execShr d a b w p s = done (fun _ x k => x >>> k) ∧
    execSra d a b w p s = done (fun _ x k => x.sshiftRight k) ∧
    execRol d a b w p s = done (fun n x k => x.rotateLeft (k % n)) := by
  refine ⟨?shl, ?shr, ?sra, ?rol⟩
  case shl => exact intIssue_shift2 h fun v x hx => by rw [hx, shl_toNat]
  case shr => exact intIssue_shift2 h fun v x hx => by rw [hx, shr_toNat]
  case sra => exact intIssue_shift2 h fun v x hx => by rw [hx, sra_toNat (wid_pos w)]
  case rol => exact intIssue_shift2 h fun v x hx => by rw [hx, rol_toNat (wid_pos w)]

/-- The vector shifts by an immediate. -/
theorem shiftImms_done {s : State} {g : Group} {d a : Sel} {i : Imm8} {lit : Option Imm} {p : Option Pfx}
    (h : VReady s g (vin p d .w32 [(a, false)] none)) :
    let done (f : BitVec 32 → Nat → BitVec 32) : Out :=
      intDone s g (vin p d .w32 [(a, false)] none) (fun v => (f (opnd32 v 0) (immShift i lit)).setWidth 128)
    execShlImm d a i lit p s = done (fun x k => x <<< k) ∧
    execShrImm d a i lit p s = done (fun x k => x >>> k) ∧
    execSraImm d a i lit p s = done (fun x k => x.sshiftRight k) := by
  rw [← kshift_eq_immShift]
  refine ⟨?shl, ?shr, ?sra⟩
  case shl => exact intIssue_word (r := (· <<< kshift i lit)) h fun v x hx => by rw [hx, shl_toNat]
  case shr => exact intIssue_word (r := (· >>> kshift i lit)) h fun v x hx => by rw [hx, shr_toNat]
  case sra => exact intIssue_word (r := (·.sshiftRight (kshift i lit))) h fun v x hx => by rw [hx, sra_toNat (by decide)]

/-- The scalar shifts, by a scalar and by an immediate. -/
theorem scalarShifts_to {s : State} {g : Group} (h : Issuer s g) (d a b : Sel) (i : Imm8) (lit : Option Imm) :
    let x := ssource g a
    let y := ssource g b
    let amount := y.val.toNat % 256
    execSshl d a b s = scalarTo s g d (x.val <<< amount) [x, y] ∧
    execSshr d a b s = scalarTo s g d (x.val >>> amount) [x, y] ∧
    execSsra d a b s = scalarTo s g d (x.val.sshiftRight amount) [x, y] ∧
    execSshlImm d a i lit s = scalarTo s g d (x.val <<< immShift i lit) [x] ∧
    execSshrImm d a i lit s = scalarTo s g d (x.val >>> immShift i lit) [x] ∧
    execSsraImm d a i lit s = scalarTo s g d (x.val.sshiftRight (immShift i lit)) [x] := by
  rw [← kshift_eq_immShift]
  exact ⟨scalar2_issuer h (shl_toNat _ _), scalar2_issuer h (shr_toNat _ _), scalar2_issuer h (sra_toNat (by decide) _ _),
    scalar1_issuer h (shl_toNat _ _), scalar1_issuer h (shr_toNat _ _), scalar1_issuer h (sra_toNat (by decide) _ _)⟩

/-- Settles O1: each arm of `exec` is the meaning named after it, whose arithmetic is that of `BitVec` at the width. -/
theorem vectorIntegerTwoSources : Obligations.VectorIntegerTwoSources := by
  refine ⟨fun s g d a b w p h => ?_, fun s g d a b w p h => shifts_done h, fun s g d a i lit p h => shiftImms_done h,
    fun s g d a b i lit h => scalarShifts_to h d a b i lit⟩
  obtain ⟨hadd, hsub, hmul, hdivI, hdivN⟩ := fittedOps_done h
  obtain ⟨hmulhi, hmulhn, hremI, hremN, hminI, hminN, hmaxI, hmaxN⟩ := unfittedOps_done h
  exact ⟨hadd, hsub, hmul, hmulhi, hmulhn, hdivI, hdivN, hremI, hremN, hminI, hminN, hmaxI, hmaxN, bitwiseOps_done h⟩

end Sys2Proof.Machine

/-! PROOFS. The sign operations: on the bits of an element each is one bitwise rule with a sign mask, and such a rule acts on the
packed elements of a word at once. -/

namespace Sys2Proof.Machine

/-! ## The sign bit of an encoding (R33) -/

theorem FF.width_ne_zero (f : FF) : f.width ≠ 0 := by cases f <;> decide

section
variable {f : FF} {n : Nat} (hf : f.width = n) (x : BitVec n)
include hf

theorem FF.mag_toNat : f.mag x.toNat = (x &&& ~~~BitVec.intMin n).toNat := by
  subst hf
  apply Nat.eq_of_testBit_eq
  intro i
  rw [FF.mag, Nat.testBit_mod_two_pow, BitVec.testBit_toNat, BitVec.testBit_toNat, BitVec.getLsbD_and, BitVec.getLsbD_not,
    BitVec.getLsbD_intMin]
  by_cases hi : i < f.width
  · simp [hi, show i < f.width - 1 ↔ i + 1 ≠ f.width by omega, Bool.and_comm]
  · simp [BitVec.getLsbD_of_ge x i (not_lt.mp hi)]

theorem FF.signBit_neg_toNat : f.signBit (f.neg x.toNat) = (x &&& BitVec.intMin n).toNat := by
  subst hf
  rw [FF.signBit, FF.neg, BitVec.testBit_toNat, BitVec.intMin, BitVec.and_twoPow]
  cases x.getLsbD (f.width - 1) with
  | false => rfl
  | true => exact (BitVec.toNat_twoPow_of_lt (Nat.sub_one_lt f.width_ne_zero)).symm

theorem FF.flip_toNat : f.flip x.toNat = (x ^^^ BitVec.intMin n).toNat := by
  subst hf
  rw [FF.flip, BitVec.toNat_xor, BitVec.toNat_intMin,
    Nat.mod_eq_of_lt (Nat.pow_lt_pow_right (by decide) (Nat.sub_one_lt f.width_ne_zero))]

end

/-! ## Rules for sign bits (R144) -/

/-- `e` gives an element from its operands' encodings by the bitwise rule `r` of a sign mask and two operands, an absent operand
being 0; at the width of the packed elements `r` is what it is on their word. -/
structure SignRule (e : FF → List Nat → Nat) (r : (n : Nat) → BitVec n → BitVec n → BitVec n → BitVec n) : Prop where
  elem   : ∀ {f : FF} {n : Nat} {xs : List Nat} {x y : BitVec n}, f.width = n → nthArg xs 0 = x.toNat → nthArg xs 1 = y.toNat →
    e f xs = (r n (BitVec.intMin n) x y).toNat
  append : ∀ s x₁ x₀ y₁ y₀ : BitVec 16, r 16 s x₁ y₁ ++ r 16 s x₀ y₀ = r 32 (s ++ s) (x₁ ++ x₀) (y₁ ++ y₀)
  widen  : ∀ s x y : BitVec 32, (r 32 s x y).setWidth 64 = r 64 (s.setWidth 64) (x.setWidth 64) (y.setWidth 64)

/-- Bits outside a mask and bits of the mask meet nowhere. -/
theorem and_not_and_eq_zero {n : Nat} (s x y : BitVec n) : (x &&& ~~~s) &&& (y &&& s) = 0#n := by
  ext i hi
  cases h : s[i] <;> simp [h]

/-- Zero extension of the AND with a complement: the operand hides the bits that the complement sets above the width. -/
theorem setWidth_and_not (x s : BitVec 32) : (x &&& ~~~s).setWidth 64 = x.setWidth 64 &&& ~~~(s.setWidth 64) :=
  BitVec.eq_of_toNat_eq (by rw [toNat_and_not (by decide), BitVec.toNat_setWidth_of_le (by decide)])

theorem signRule_fabs : SignRule (fun f xs => f.mag (nthArg xs 0)) (fun _ s x _ => x &&& ~~~s) where
  elem hf hx _ := by rw [hx, FF.mag_toNat hf]
  append s x₁ x₀ _ _ := by rw [BitVec.not_append, BitVec.and_append]
  widen s x _ := setWidth_and_not x s

theorem signRule_fneg : SignRule (fun f xs => f.flip (nthArg xs 0)) (fun _ s x _ => x ^^^ s) where
  elem hf hx _ := by rw [hx, FF.flip_toNat hf]
  append s x₁ x₀ _ _ := by rw [BitVec.xor_append]
  widen s x _ := BitVec.setWidth_xor

theorem signRule_fsgn :
    SignRule (fun f xs => f.mag (nthArg xs 0) + f.signBit (f.neg (nthArg xs 1))) (fun _ s x y => (x &&& ~~~s) ||| (y &&& s)) where
  elem {f n xs x y} hf hx hy := by
    rw [hx, hy, FF.mag_toNat hf, FF.signBit_neg_toNat hf, ← BitVec.toNat_add_of_and_eq_zero (and_not_and_eq_zero _ x y),
      BitVec.add_eq_or_of_and_eq_zero _ _ (and_not_and_eq_zero _ x y)]
  append s x₁ x₀ y₁ y₀ := by
    rw [BitVec.not_append, BitVec.and_append, BitVec.and_append, BitVec.or_append]
  widen s x y := by rw [BitVec.setWidth_or, setWidth_and_not, BitVec.setWidth_and]

/-! ## Elements of the operands -/

/-- Where every source has width `w`, every operand does, an absent one too, which is 0. -/
theorem values_lt {x : VInst} {w : Bool} (h : ∀ r ∈ x.reads, r.2 = w) (tick : Nat) (g : Group) (t : Thread) (i : Nat) :
    (arg ((x.values tick g t).map fun v => v.val.setWidth 64) i).toNat < 2 ^ wid w := by
  cases e : x.reads[i]? with
  | none => simp [arg, VInst.values, e]
  | some r => exact h r (List.mem_of_getElem? e) ▸ values_fitsReads x tick g t i r.1 r.2 e

theorem nthArg_toNat (v : List DWord) (i : Nat) : nthArg (v.map (·.toNat)) i = (arg v i).toNat :=
  List.getD_map v (0#64) (·.toNat)

/-- The halves of a doubleword's low word. -/
theorem half_toNat (x : DWord) {k : Nat} (hk : k < 2) : half x.toNat k = ((x.setWidth 32).extractLsb' (16 * k) 16).toNat := by
  rw [BitVec.extractLsb'_toNat, BitVec.toNat_setWidth, Nat.shiftRight_eq_div_pow, half]
  interval_cases k <;> omega

theorem nthArg_half (v : List DWord) (i : Nat) {k : Nat} (hk : k < 2) :
    nthArg ((v.map (·.toNat)).map fun x => half x k) i = ((opnd32 v i).extractLsb' (16 * k) 16).toNat := by
  have absent : half 0 k = 0 := by rw [half, Nat.zero_div, Nat.zero_mod]
  rw [opnd32, ← half_toNat _ hk, List.map_map, nthArg]
  exact (congrArg (List.getD _ i) absent.symm).trans (List.getD_map v (0#64) fun x => half x.toNat k)

theorem halves_append (x : BitVec 32) : x.extractLsb' 16 16 ++ x.extractLsb' 0 16 = x :=
  (BitVec.extractLsb'_append_extractLsb'_eq_extractLsb' rfl).trans BitVec.extractLsb'_eq_self

/-- The sign bits of a type's elements, in the low bits of a doubleword (R36, R70). -/
def signMask : FTy → DWord
  | .f32 => 0x80000000#64
  | .f64 => 0x8000000000000000#64
  | .f16x2 | .bf16x2 => 0x80008000#64

/-- Operand `i` at the width of a type, zero-extended. -/
def typedArg (t : FTy) (v : List DWord) (i : Nat) : DWord := if t.wide then opnd64 v i else (opnd32 v i).setWidth 64

section
variable {e : FF → List Nat → Nat} {r : (n : Nat) → BitVec n → BitVec n → BitVec n → BitVec n} (h : SignRule e r)
include h

theorem SignRule.word_eq {f : FF} (hf : f.width = 32) {v : List DWord} (hv : ∀ i, (arg v i).toNat < 2 ^ 32) :
    e f (v.map (·.toNat)) = (r 64 0x80000000#64 ((opnd32 v 0).setWidth 64) ((opnd32 v 1).setWidth 64)).toNat := by
  have hn (i : Nat) : nthArg (v.map (·.toNat)) i = (opnd32 v i).toNat :=
    (nthArg_toNat v i).trans (Nat.mod_eq_of_lt (hv i)).symm
  rw [h.elem hf (hn 0) (hn 1), ← BitVec.toNat_setWidth_of_le (by decide : 32 ≤ 64), h.widen]
  rfl

/-- The rule on both halves of a word is the rule on the word. -/
theorem SignRule.append_halves (s : BitVec 16) (x y : BitVec 32) :
    r 16 s (x.extractLsb' 16 16) (y.extractLsb' 16 16) ++ r 16 s (x.extractLsb' 0 16) (y.extractLsb' 0 16) =
      r 32 (s ++ s) x y := by
  rw [h.append, halves_append, halves_append]

theorem SignRule.halves_eq {f : FF} (hf : f.width = 16) (v : List DWord) :
    e f ((v.map (·.toNat)).map fun x => half x 0) + e f ((v.map (·.toNat)).map fun x => half x 1) * 2 ^ 16 =
      (r 64 0x80008000#64 ((opnd32 v 0).setWidth 64) ((opnd32 v 1).setWidth 64)).toNat := by
  have mask : (0x80008000#64) = (BitVec.intMin 16 ++ BitVec.intMin 16).setWidth 64 := rfl
  rw [h.elem hf (nthArg_half v 0 (k := 0) (by decide)) (nthArg_half v 1 (by decide)),
    h.elem hf (nthArg_half v 0 (k := 1) (by decide)) (nthArg_half v 1 (by decide)),
    mask, ← h.widen, BitVec.toNat_setWidth_of_le (by decide), ← h.append_halves, BitVec.toNat_append,
    ← Nat.shiftLeft_add_eq_or_of_lt (BitVec.isLt _), Nat.shiftLeft_eq, Nat.add_comm]

/-- A sign rule acts on all elements of a word at once, and raises no flag. -/
theorem SignRule.perElem_eq (t : FTy) {v : List DWord} (hv : ∀ i, (arg v i).toNat < 2 ^ wid t.wide) :
    perElem t (fun f _ xs => (e f xs, 0#5)) v = ((r 64 (signMask t) (typedArg t v 0) (typedArg t v 1)).toNat, 0#5) := by
  cases t with
  | f64 => exact Prod.ext (h.elem rfl (nthArg_toNat v 0) (nthArg_toNat v 1)) rfl
  | f32 => exact Prod.ext (h.word_eq (f := .f32) rfl hv) rfl
  | f16x2 => exact Prod.ext (h.halves_eq (f := .f16) rfl v) BitVec.or_self
  | bf16x2 => exact Prod.ext (h.halves_eq (f := .bf16) rfl v) BitVec.or_self

/-- A ready sign operation completes with its rule on whole words; it reads no mode and steps no generator. -/
theorem SignRule.fpIssue_ready {s : State} {g : Group} {p : Option Pfx} {d : Sel} {t : FTy} {srcs : List Sel}
    (hr : VReady s g (vin p d (DW.of t.wide) (srcs.map fun a => (a, t.wide)) none)) :
    fpIssue s p d t srcs false (fun _ f xs => (e f xs, 0#5)) =
      .next (vecNext s g (vin p d (DW.of t.wide) (srcs.map fun a => (a, t.wide)) none) fun th v =>
        { val := (r 64 (signMask t) (typedArg t v 0) (typedArg t v 1)).setWidth 128, flags := 0#5, srg := th.srg }) := by
  refine (vectorIssue_ready hr _).trans (congrArg Host.Outcome.next (vecNext_congr fun th => ?_))
  have hw : ∀ q ∈ (vin p d (DW.of t.wide) (srcs.map fun a => (a, t.wide)) none).reads, q.2 = t.wide := by
    simp [VInst.reads, vin]
  simp only [h.perElem_eq t (values_lt hw s.tick g th), BitVec.ofNat_toNat]

end

/-- Settles O6: each sign operation has a sign rule, which a ready instruction applies to its whole words. -/
theorem signOperations : Obligations.SignOperations := by
  intro s g d a b t p
  exact ⟨fun h => ⟨signRule_fabs.fpIssue_ready (srcs := [a]) h, signRule_fneg.fpIssue_ready (srcs := [a]) h⟩,
    fun h => signRule_fsgn.fpIssue_ready (srcs := [a, b]) h⟩

end Sys2Proof.Machine
